-- ==== Sys2Proof/Word.lean ====
section
/-! DEFINITION. Word.lean: the plain word types of the module and the sparse map every array of units is kept in. -/

namespace Sys2Proof

/-- One byte of memory, of a packet or of a record (R3: bit 0 is the least significant bit). -/
abbrev Byte := BitVec 8

/-- The 32-bit pattern of an FP32 value (R62). -/
abbrev F32 := BitVec 32

/-- A sparse array: the entries that differ from the array's default, by strictly rising index.
The default is named where the array is read, so that equal arrays are equal data (DESIGN CHOICE, log entry 63). -/
abbrev SMap (α : Type) := List (Nat × α)

end Sys2Proof
end

