-- ==== Sys2Proof/Syntax.lean ====
section
/-! DEFINITION. Syntax.lean: the module's steps, one constructor of Instr per row of the opcode table, and the operand
records they carry. Identifiers, counts, addresses and times are numbers; patterns that the spec treats as bits are bit
vectors. WellFormed.lean states the range of every operand. -/

namespace Sys2Proof

/-! ### Operands of the tile operations (Cells and tile programs) -/

/-- The six issue queues of a cell (R91). -/
inductive CellQueue where
  | run | drain | vector | sfu | stat | mover
  deriving DecidableEq, Repr

/-- The fields of MMA RUN (Table 4-5). -/
structure RunOp where
  acc : Bool
  ta : Bool
  tb : Bool
  fmtA : Nat
  fmtB : Nat
  raElem : Nat
  raScale : Nat
  rbElem : Nat
  rbScale : Nat
  mMinus1 : Nat
  bank : Nat
  accRow : Nat
  kUnits : Nat
  deriving DecidableEq, Repr

/-- The fields of MMA DRAIN (Table 4-6). -/
structure DrainOp where
  sat : Bool
  fmtOut : Nat
  rdElem : Nat
  rdScale : Nat
  fusion : Nat
  rf : Nat
  bank : Nat
  accRow : Nat
  rowsMinus1 : Nat
  statMode : Nat
  statSlot : Nat
  outPitch : Nat
  deriving DecidableEq, Repr

/-- A tile operation: every word of Tables 4-4 to 4-12 but MMA RUN and DRAIN, whose fields have records of their own. -/
inductive TileOp where
  | run (f : RunOp)
  | drain (f : DrainOp)
  | vld (vd ra fmt : Nat) (imm : BitVec 32)
  | vst (vs1 ra fmt : Nat) (sat : Bool) (imm : BitVec 32)
  | vadd (vd vs1 vs2 : Nat)
  | vsub (vd vs1 vs2 : Nat)
  | vmul (vd vs1 vs2 : Nat)
  | vfma (vd vs1 vs2 vs3 : Nat)
  | vmax (vd vs1 vs2 : Nat)
  | vmin (vd vs1 vs2 : Nat)
  | vmov (vd vs1 : Nat)
  | vabs (vd vs1 : Nat)
  | vneg (vd vs1 : Nat)
  | vbcast (vd : Nat) (imm : F32)
  | vaddi (vd vs1 : Nat) (imm : F32)
  | vmuli (vd vs1 : Nat) (imm : F32)
  | vrsum (vd vs1 : Nat)
  | vrmax (vd vs1 : Nat)
  | vmsk (vd vs1 ra : Nat) (imm : F32)
  | exp2 (vd vs : Nat)
  | log2 (vd vs : Nat)
  | statClr (mask : BitVec 8)
  | statMax (slot v lanes : Nat)
  | statSum (slot v lanes : Nat)
  | statRead (slot v : Nat)
  | moveDesc (ra : Nat)
  | moveFlags (ra : Nat)
  | semWait (sem n : Nat) (peek : Bool)
  | semPost (sem inc : Nat) (remote : Bool) (cell : Nat)
  | swap (region : Nat)
  | loopBegin (k body : Nat)
  | loopKset (k value : Nat)
  | loopAset (a : Nat) (value : BitVec 48)
  | loopAadd (a : Nat) (addend : BitVec 32)
  | fence (mask : BitVec 6)
  deriving DecidableEq, Repr

/-! ### Operands of the streaming engines, the codec and the memory path -/

/-- The engines that serve descriptors: a cell's mover, and a cluster's gather engine and packer (R170, R237). -/
inductive Engine where
  | mover (cell : Nat)
  | gather (cluster : Nat)
  | packer (cluster : Nat)
  deriving DecidableEq, Repr

/-- The queue of an engine that a descriptor stands in (Table 8-8): list or main, tile, prefetch. -/
inductive EngQueue where
  | list | tile | prefetch
  deriving DecidableEq, Repr

/-- Who makes an access (R365): the owner tag 0 to 8 and the source cluster used for plane and die choice. -/
structure Source where
  owner : Nat
  cluster : Nat
  deriving DecidableEq, Repr

/-- An access that an error strikes on the way (R17, R209): none, a corrected bit, or an uncorrectable error. -/
inductive BitErr where
  | clean | corrected | uncorrectable
  deriving DecidableEq, Repr

/-- An error that strikes a packet on the mesh (R17): a bit corrected at a router (144 × die + 12 × y + x), or an uncorrectable
error in its payload. -/
inductive MeshErr where
  | clean | corrected (router : Nat) | uncorrectable
  deriving DecidableEq, Repr

/-- The errors that strike scratchpad rows as they are read (R146): each with its logical cell × 2,048 + physical row. -/
abbrev RowErrs := List (Nat × BitErr)

/-- The atomic operations of Table 9-7. -/
inductive AtomicOp where
  | add | and | or | xor | smin | smax | umin | umax | swap | cas | fadd
  deriving DecidableEq, Repr

/-- The line reductions of Table 9-8. -/
inductive LineRed where
  | fadd32 | badd16 | fmax32 | iadd32
  deriving DecidableEq, Repr

/-! ### Operands of the host interface -/

/-- The header of a command packet as the device keeps it from start to reply (Tables 14-10 and 14-13): the function
and queue that carried it, which of the rings that have borne the queue's number it is, the ring entry at which it began,
and the header fields a reply returns (DESIGN CHOICE, log entry 8). -/
structure CmdHdr where
  fn : Nat
  queue : Nat
  ring : Nat
  sqPos : Nat
  tag : Nat
  alive : Nat
  ordered : Bool
  irq : Bool
  partition : Nat
  deriving DecidableEq, Repr

/-- A range table entry (Table 9-6). `reserved` is the offset in the entry of its first non-zero Reserved field, if any. -/
structure RangeEntry where
  base : Nat
  size : Nat
  owner : Nat
  hint : Nat
  landing : Bool
  plain : Bool
  prewarm : Bool
  reserved : Option Nat
  context : Nat
  deriving DecidableEq, Repr

/-- An image source entry (Table 12-3), `reserved` as in a range table entry. -/
structure SourceEntry where
  base : Nat
  size : Nat
  host : Nat
  kind : Nat
  hint : Nat
  landing : Bool
  plain : Bool
  prewarm : Bool
  reserved : Option Nat
  deriving DecidableEq, Repr

/-- The parameters of CTX_CREATE (Table 15-8). -/
structure CtxCreateParams where
  requestedId : Nat
  priority : Nat
  group : Bool
  frameLines : Nat
  pageEntries : Nat
  sessionSlots : Nat
  descUnits : Nat
  imageUnits : Nat
  dirUnits : Nat
  saveUnits : Nat
  sources : List SourceEntry
  deriving DecidableEq, Repr

/-- The parameters of GROUP_FORM (Table 15-12). -/
structure GroupFormParams where
  groupId : Nat
  size : Nat
  rank : Nat
  rejoin : Bool
  source : Nat
  keystoneOrder : List Nat
  portMap : List Nat
  identities : List (List Byte)
  deriving DecidableEq, Repr

/-- The parameters of FRAME_CONFIG (Table 15-9). -/
structure FrameParams where
  periodUs : Nat
  quantumUs : Nat
  maxQuanta : Nat
  lateLead : Nat
  source : Nat
  syncOutEn : Bool
  deriving DecidableEq, Repr

/-- The parameters of ENCODE_RANGE (Table 15-6). -/
structure EncodeParams where
  context : Nat
  format : Nat
  modeReq : Nat
  slot : Nat
  decUnits : Nat
  padOk : Bool
  seqBase : Nat
  count : Nat
  src : Nat
  dst : Nat
  dstBytes : Nat
  index : Nat
  deriving DecidableEq, Repr

/-- The parameters of CV_RUN (Table 15-13). -/
structure CvRunParams where
  stream : Nat
  start : Bool
  final : Bool
  alive16 : Bool
  checkAlive : Bool
  poly : Nat
  alive : Nat
  src : Nat
  bytes : Nat
  deriving DecidableEq, Repr

/-! ### Operands of the links and the group -/

/-- The header and data of a record's message (Table 13-5): `data` is the data area, `body` the 16 body bytes. -/
structure Msg where
  port : Nat
  srcRank : Nat
  dstRank : Nat
  partition : Nat
  context : Nat
  elem : Nat
  redop : Nat
  poison : BitVec 8
  addr : Nat
  length : Nat
  reserved : Bool
  opId : Nat
  frame : Nat
  body : List Byte
  data : List Byte
  deriving DecidableEq, Repr

/-- How a training phase ends (R287, Table 13-2). -/
inductive PhaseEnd where
  /-- the phase ended well; phase 2 has found the lanes `bad` to fail its test, phase 4 gives the peer's epoch, identity (16 bytes) and
  port, phase 5 what was extracted from the exchange (R383, 48 bytes) -/
  | passed (bad : List Nat) (peerEpoch : Nat) (peerId : List Byte) (peerPort : Nat) (prk : List Byte)
  /-- no peer answered within the phase's time limit -/
  | timedOut
  /-- the phase failed: phase 5 by authentication, another phase by its own criterion -/
  | failed
  deriving DecidableEq, Repr

/-- The identity checks of phase 5 done by the two roots of trust are summed up in how the phase ends (R382). -/
inductive HostProtocol where
  | cxlIo | cxlCachemem
  deriving DecidableEq, Repr

/-- What ended a host access of an eviction, an admission or a reload (R266, R280). -/
inductive HostAccess where
  | eviction | admission | reload
  deriving DecidableEq, Repr

/-- A unit with a progress window (Table 18-5). -/
inductive HangUnit where
  | cell (c : Nat)
  | mover (c : Nat)
  | gather (n : Nat)
  | packer (n : Nat)
  | expander (n : Nat)
  | port (p : Nat)
  deriving DecidableEq, Repr

/-- A reset domain (Table 18-6): class 0 cell, 1 cluster, 2 engine, 3 caldera slice, 4 die, 5 module. -/
structure Domain where
  cls : Nat
  number : Nat
  deriving DecidableEq, Repr

/-! ### The steps -/

/-- The steps of the module, one constructor per row of the opcode table, in the table's order (DESIGN CHOICE, log entry 8). -/
inductive Instr where
  -- frames and ticks (02)
  | tick (at_ : Nat)
  | overrunAbort
  | abortReconcile (context : Nat)
  | weightReloadComplete (context : Nat)
  | checkPoint (at_ : Nat)
  | syncInEdge (at_ highNs : Nat)
  | syncLost (at_ : Nat)
  | rowFetch (written : List (Nat × List Byte))
  | droop (die : Nat)
  -- cells (04, 05)
  | mmaRun (cell : Nat) (f : RunOp) (errs : RowErrs)
  | mmaDrain (cell : Nat) (f : DrainOp) (errs : RowErrs)
  | vld (cell vd ra fmt : Nat) (imm : BitVec 32) (errs : RowErrs)
  | vst (cell vs1 ra fmt : Nat) (sat : Bool) (imm : BitVec 32)
  | vadd (cell vd vs1 vs2 : Nat)
  | vsub (cell vd vs1 vs2 : Nat)
  | vmul (cell vd vs1 vs2 : Nat)
  | vfma (cell vd vs1 vs2 vs3 : Nat)
  | vmax (cell vd vs1 vs2 : Nat)
  | vmin (cell vd vs1 vs2 : Nat)
  | vmov (cell vd vs1 : Nat)
  | vabs (cell vd vs1 : Nat)
  | vneg (cell vd vs1 : Nat)
  | vbcast (cell vd : Nat) (imm : F32)
  | vaddi (cell vd vs1 : Nat) (imm : F32)
  | vmuli (cell vd vs1 : Nat) (imm : F32)
  | vrsum (cell vd vs1 : Nat)
  | vrmax (cell vd vs1 : Nat)
  | vmsk (cell vd vs1 ra : Nat) (imm : F32) (errs : RowErrs)
  | exp2 (cell vd vs : Nat)
  | log2 (cell vd vs : Nat)
  | statClr (cell : Nat) (mask : BitVec 8)
  | statMax (cell slot v lanes : Nat)
  | statSum (cell slot v lanes : Nat)
  | statRead (cell slot v : Nat)
  | moveDesc (cell ra : Nat) (errs : RowErrs)
  | moveFlags (cell ra : Nat)
  | semWait (cell sem n : Nat) (peek : Bool)
  | semWaitGrant (cell sem : Nat)
  | semPost (cell sem inc : Nat) (remote : Bool) (target : Nat)
  | swap (cell region : Nat)
  | loopBegin (cell k body : Nat)
  | loopKset (cell k value : Nat)
  | loopAset (cell a : Nat) (value : BitVec 48)
  | loopAadd (cell a : Nat) (addend : BitVec 32)
  | fence (cell : Nat) (mask : BitVec 6)
  | sequencerWaitEnd (cell : Nat) (errs : RowErrs)
  | operationRetire (cell : Nat) (q : CellQueue)
  -- windows, credits and semaphores (07)
  | windowWrite (src : Source) (addr : Nat) (data : List Byte) (poison : Bool) (mesh : MeshErr)
  | windowRead (src : Source) (addr : Nat) (err : BitErr) (mesh : MeshErr)
  | windowWriteAck (e : Engine) (index : Nat) (errs : RowErrs)
  | put (src : Source) (addr : Nat) (data : List Byte) (poison : Bool)
  | get (src : Source) (addr len : Nat) (errs : RowErrs)
  | semAdd (src : Source) (cell sem inc : Nat)
  | creditAdd (src : Source) (cell counter units : Nat)
  -- streaming engines (08) and codec (10)
  | descriptorAdmit (e : Engine) (q : EngQueue)
  | transferIssue (e : Engine) (q : EngQueue) (errs : RowErrs)
  | transferComplete (e : Engine) (index : Nat) (errs : RowErrs)
  | farTierTimeout (cluster index : Nat)
  | blockDecode (e : Engine) (index : Nat)
  | blockPack (cluster index : Nat) (errs : RowErrs)
  | packerResultRead (context page storedLines : Nat) (spilled : Bool) (spillPage : Nat)
  | quarantineRelease (context page : Nat)
  -- stack memory and the caldera (09)
  | calderaRead (src : Source) (addr : Nat) (err : BitErr) (mesh : MeshErr)
  | calderaWrite (src : Source) (addr : Nat) (data : List Byte) (poison : Bool) (mesh : MeshErr)
  | birsp (addr : Nat)
  | lineFill (addr owner : Nat)
  | stackRead (addr owner : Nat) (errs : List (Nat × Byte))
  | stackWrite (addr owner : Nat) (data : List Byte) (poison : Bool)
  | rowRepair (stack row : Nat)
  | patrolScrub (addr : Nat) (errs : List (Nat × Byte))
  | stackLinkFlitError (stack group at_ : Nat)
  | stackLinkRetrain (stack : Nat) (failedTx failedRx : List Nat)
  | atomic (src : Source) (op : AtomicOp) (size addr operand compare : Nat)
  | lineReduction (src : Source) (op : LineRed) (addr : Nat) (data : List Byte)
  | calderaWayRetire (die slice set way : Nat)
  | viaductFlitError (quarter : Nat)
  | dieError (die : Nat)
  | cxlMemWrite (addr : Nat) (data : List Byte)
  | cxlMemRead (addr : Nat)
  -- registers (14)
  | hxDbell (fn q tail : Nat) (posted : List (Nat × Byte))
  | hxCqdb (fn q head : Nat)
  | hxEvqHead (fn head : Nat)
  | ringEnable (fn : Nat) (event : Bool) (vector cqLog2 sqLog2 : Nat)
  | ringDisable (fn : Nat) (event : Bool)
  | hostWindowEntryWrite (fn index offset size value : Nat)
  | exposureEntryWrite (fn index word : Nat) (value : BitVec 64)
  /-- a register of a function, or, for `fn` 9, of the management interface (Table 20-8) -/
  | rcRegisterRead (fn offset : Nat)
  | hxPwrAlarm (fn : Nat) (value : BitVec 64)
  /-- eight bytes of a function's BAR0, or, for `fn` 9, the low four bytes to a register of the management interface -/
  | registerWrite (fn offset : Nat) (value : BitVec 64)
  | packetFetch (q : Nat)
  | longCommandEnd (q sqPos : Nat)
  -- commands (15)
  | nop (h : CmdHdr)
  | identify (h : CmdHdr) (dst : Nat)
  | capRead (h : CmdHdr) (id dst : Nat)
  | queueCreate (h : CmdHdr) (sqBase cqBase sqLog2 cqLog2 vector : Nat)
  | queueDelete (h : CmdHdr) (queue : Nat)
  | partCreate (h : CmdHdr) (partition keepWays mask0 mask1 maxContexts maxQueues : Nat)
  | partDestroy (h : CmdHdr) (partition : Nat) (zeroRanges : Bool)
  | keyInstall (h : CmdHdr) (blob : List Byte)
  | dumpKeySet (h : CmdHdr) (blob : List Byte)
  | attestQuote (h : CmdHdr) (nonce : List Byte) (selection dst dstBytes : Nat)
  | fwStage (h : CmdHdr) (src imageBytes : Nat)
  | fwActivate (h : CmdHdr) (resetNow : Bool)
  | bulkLoad (h : CmdHdr) (src dst bytes : Nat)
  | bulkStore (h : CmdHdr) (src dst bytes : Nat)
  | calderaInval (h : CmdHdr) (base size : Nat)
  | rangeAttr (h : CmdHdr) (index : Nat) (entry : RangeEntry)
  | scrubRange (h : CmdHdr) (base size mode : Nat)
  | kvPagesMap (h : CmdHdr) (context op spill count list : Nat)
  | tableLoad (h : CmdHdr) (context : Nat) (record : List Byte)
  | tableActivate (h : CmdHdr) (context slot frame : Nat)
  | encodeRange (h : CmdHdr) (p : EncodeParams)
  | decodeCheck (h : CmdHdr) (context walk expectUnits count src : Nat)
  | ctxCreate (h : CmdHdr) (p : CtxCreateParams)
  | ctxDestroy (h : CmdHdr) (context : Nat) (scrub : Bool)
  | ctxPin (h : CmdHdr) (context pin : Nat)
  | ctxEvict (h : CmdHdr) (context : Nat)
  | ctxQuery (h : CmdHdr) (context dst : Nat)
  | acctRead (h : CmdHdr) (scope id dst : Nat)
  | schedLoad (h : CmdHdr) (context src imageBytes : Nat)
  | schedUnload (h : CmdHdr) (context bank : Nat)
  | stepSubmit (h : CmdHdr) (context manifestBytes manifest : Nat)
  | kernelLaunch (h : CmdHdr) (context bucketId inputAddr outputAddr : Nat)
  | stepAbort (h : CmdHdr) (context stepSeq : Nat)
  | frameConfig (h : CmdHdr) (p : FrameParams)
  | groupForm (h : CmdHdr) (p : GroupFormParams)
  | groupLeave (h : CmdHdr)
  | linkTrain (h : CmdHdr) (portMask op : Nat)
  | linkKeyRotate (h : CmdHdr) (portMask : Nat) (newExchange : Bool)
  | memberExclude (h : CmdHdr) (rank : Nat)
  | powerCapSet (h : CmdHdr) (cap : Nat)
  | powerPrioritySet (h : CmdHdr) (b0 b1 b2 : Nat)
  | powerRead (h : CmdHdr) (dst : Nat)
  | vfTableRead (h : CmdHdr) (dst : Nat)
  | calibrate (h : CmdHdr)
  | cvRun (h : CmdHdr) (p : CvRunParams)
  | cvSave (h : CmdHdr) (stream dst : Nat)
  | cvRestore (h : CmdHdr) (stream src : Nat)
  | resetDomain (h : CmdHdr) (cls number : Nat)
  | healthRead (h : CmdHdr) (dst dstBytes : Nat)
  | hangPolicySet (h : CmdHdr) (action : Nat)
  | spareMapRead (h : CmdHdr) (dst : Nat)
  | marginRun (h : CmdHdr) (stack kind dst : Nat)
  | traceConfig (h : CmdHdr) (enable ring ringBytes : Nat)
  | counterRead (h : CmdHdr) (cls first count dst : Nat)
  | waitgraphRead (h : CmdHdr) (dst dstBytes : Nat)
  | dumpRead (h : CmdHdr) (dumpId dst dstBytes : Nat)
  | stepGate (h : CmdHdr) (op commands : Nat)
  | cfgRead (h : CmdHdr) (key : Nat)
  | cfgWrite (h : CmdHdr) (key value : Nat)
  | cfgCompact (h : CmdHdr) (select : Nat)
  -- the CXL port (14)
  | flr (fn : Nat)
  | hotReset
  | cxlLinkTraining (width rate : Nat) (flit256 : Bool)
  | atsInvalidation (base size : Nat)
  | ideFail (p : HostProtocol)
  -- links and group (13)
  | flitReceive (port : Nat) (raw : List Byte) (fec : BitErr)
  | recordReceive (port vc : Nat)
  | write (m : Msg)
  | reduce (m : Msg)
  | readReq (m : Msg)
  | readResp (m : Msg)
  | post (m : Msg)
  | fenceReq (m : Msg)
  | fenceAck (m : Msg)
  | tickMessage (at_ : Nat) (m : Msg)
  | plan (at_ : Nat) (m : Msg)
  | late (m : Msg)
  | heartbeat (m : Msg)
  | abort (m : Msg)
  | group (m : Msg)
  | fecLockLoss (port lane : Nat)
  | laneErrorRate (port lane : Nat)
  | trainingPhase (port phase : Nat) (e : PhaseEnd)
  | keyRotation (port : Nat) (sending : Bool)
  | joinWindowClose
  | heartbeatTimeout (rank : Nat)
  | collectiveOpStart (engine index : Nat)
  | collectiveOpComplete (engine index : Nat)
  | collectiveTimeout (engine index : Nat)
  -- residency (12)
  | blockedGraceExpiry
  | residencyStall (context : Nat)
  | evictionHoldExpiry (context : Nat)
  | evictionComplete (context : Nat)
  | admissionComplete (context : Nat)
  | hostAccessTimeout (access : HostAccess) (context entry : Nat)
  -- power, thermal and pins (17, 20)
  | pwrbrkAssert (at_ durationNs : Nat)
  | brakeRelease (deassertedNs : Nat)
  | stuckLineAlarm
  | inputUndervoltage (centivolts durationUs : Nat)
  | inputPowerDown (centivolts durationUs : Nat)
  | railFault (order : Nat)
  | auxLoss
  | modulePowerUp
  | powerOff
  | powerOn
  | hxMcAlert (value : BitVec 32)
  | setdasa (staticAddr dynamicAddr : Nat)
  | entdaa (dynamicAddr : Nat)
  | sclStuck (lowMs : Nat)
  | calibration (measured : Nat)
  | sensorDisagree (pair reading0 reading1 : Nat)
  | thermalSample (dieTemps stackTemps : List Int)
  | thermalRecovery
  | referenceClockLoss (clock : Nat)
  -- reset, boot and health (16, 18)
  | rstInAssert (durationNs : Nat)
  | moduleBoot (rngOk : Bool) (pufOk : Bool)
  | moduleReady
  | powerCycleTimeout
  | hangDetect (u : HangUnit)
  | sampleComplete
  | coreHeartbeatMiss (die core at_ : Nat)
  | resetComplete (d : Domain) (selfTestOk : Bool)
  | resetTimeout (d : Domain)
  -- attestation over DOE (16)
  | getVersion
  | getCapabilities
  | negotiateAlgorithms (rsa3072 sha384 secp384r1 aes256gcm : Bool)
  | getDigests
  | getCertificate (slot offset length : Nat)
  | challenge (slot : Nat) (nonce : List Byte)
  | getMeasurements (index : Nat) (sign : Bool) (nonce : List Byte)
  | keyExchange (slot : Nat) (exchange : List Byte)
  | finish (verifyOk : Bool)
  | endSession
  | getSlhCert (offset length : Nat)
  | getSlhSig
  -- test port (19) and the rows added at the end of the table
  | bypass (tdi : Bool)
  | samplePreload (pins : BitVec 16)
  | extest (pins : BitVec 16)
  | idcode
  | auxApplied
  | undervoltageRelease (centivolts durationUs : Nat)
  | hostReadUnanswered (q sqPos bytesDone : Nat)
  | ideKm (p : HostProtocol)
  | doeDiscovery (index : Nat)
  | statusMailboxRefresh
  deriving DecidableEq, Repr

end Sys2Proof
end

