-- ==== Sys2Proof/Decode.lean ====
section
/-! DEFINITION. Decode.lean: the command that a word spells by the bits of the opcode table. -/

namespace Sys2Proof

/-- spec/opcode_table.json gives none of its 236 rows a field or a fixed bit: no word spells a step, and every word is
answered with none. Command packets have an encoding of their own (Table 14-10 and the parameter tables of chapter 15);
it is read by Machine.decodePacket, which PACKET_FETCH calls (DEDUCED, log entry 5). -/
def decodeTableWord (_nbits _w : Nat) : Option Instr := none

end Sys2Proof
end

