-- ==== Sys2Proof/Machine/Bits.lean ====
section
/-! DEFINITION. Machine/Bits.lean: reading and writing sparse maps and byte memories in their canonical form, bit
fields of numbers, and little-endian byte strings (R3). -/

namespace Sys2Proof.Machine

open Sys2Proof

/-! ### Sparse maps -/

/-- The entry of a sparse map at an index, `d` where none is listed. -/
def mget {α : Type} (d : α) : SMap α → Nat → α
  | [], _ => d
  | (k, v) :: t, i => if k = i then v else mget d t i

/-- The part of a map below an index, and the part from an index on. -/
def mbelow {α : Type} (m : SMap α) (i : Nat) : SMap α := m.filter (fun e => decide (e.1 < i))
def mfrom {α : Type} (m : SMap α) (i : Nat) : SMap α := m.filter (fun e => decide (i ≤ e.1))

/-- Replaces the `n` entries from `lo` on by `mid`, whose keys lie in that range. -/
def msplice {α : Type} (m : SMap α) (lo n : Nat) (mid : SMap α) : SMap α :=
  mbelow m lo ++ mid ++ mfrom m (lo + n)

/-- Sets the entry at an index; an entry equal to the default is not listed (DESIGN CHOICE, log entry 63). -/
def mset {α : Type} [DecidableEq α] (d : α) (m : SMap α) (i : Nat) (v : α) : SMap α :=
  msplice m i 1 (if v = d then [] else [(i, v)])

/-- Changes the entry at an index. -/
def mmod {α : Type} [DecidableEq α] (d : α) (m : SMap α) (i : Nat) (f : α → α) : SMap α :=
  mset d m i (f (mget d m i))

/-- Removes every listed entry with lo ≤ index < lo + n: those indices read as the default again. -/
def mclear {α : Type} (m : SMap α) (lo n : Nat) : SMap α := msplice m lo n []

/-- Adds to a counter of a map of counters. -/
def madd (m : SMap Nat) (i n : Nat) : SMap Nat := mmod 0 m i (· + n)

/-- Maps the entries of a sparse map and drops those that become the default. -/
def remap {α : Type} [DecidableEq α] (d : α) (f : α → α) (m : SMap α) : SMap α := (m.map (fun e => (e.1, f e.2))).filter (fun e => decide (e.2 ≠ d))

/-! ### Byte memories: unlisted bytes read as zero (R470) -/

/-- The byte strings of a list that are not zero, by index from `a`. -/
def cellsOf : Nat → List Byte → List Host.Cell
  | _, [] => []
  | a, b :: t => if b = 0 then cellsOf (a + 1) t else (a, b) :: cellsOf (a + 1) t

def readByte (m : List Host.Cell) (a : Nat) : Byte := mget 0 m a

/-- `n` bytes from address `a` on. -/
def readBytes (m : List Host.Cell) : Nat → Nat → List Byte
  | _, 0 => []
  | a, n + 1 => readByte m a :: readBytes m (a + 1) n

/-- Writes a byte string at address `a` (DESIGN CHOICE, log entry 63). -/
def writeBytes (m : List Host.Cell) (a : Nat) (bs : List Byte) : List Host.Cell :=
  msplice m a bs.length (cellsOf a bs)

/-- Sets `n` bytes from `a` on to zero. -/
def zeroBytes (m : List Host.Cell) (a n : Nat) : List Host.Cell := mclear m a n

/-! ### Numbers as bit fields, byte strings as numbers (R3) -/

/-- Bits [lo + w − 1 : lo] of a number. -/
def bits (x lo w : Nat) : Nat := (x >>> lo) % 2 ^ w

def bit (x i : Nat) : Bool := x.testBit i

/-- The little-endian value of a byte string. -/
def leNat : List Byte → Nat
  | [] => 0
  | b :: t => b.toNat + 256 * leNat t

/-- The `n` bytes of a number, least significant first. -/
def leBytes : Nat → Nat → List Byte
  | _, 0 => []
  | x, n + 1 => BitVec.ofNat 8 x :: leBytes (x / 256) n

/-- The little-endian field of `n` bytes at offset `o` of a byte string. -/
def fieldAt (bs : List Byte) (o n : Nat) : Nat := leNat ((bs.drop o).take n)

/-- `n` bytes at offset `o`, filled with zeros where the string ends. -/
def bytesAt (bs : List Byte) (o n : Nat) : List Byte :=
  let t := (bs.drop o).take n
  t ++ List.replicate (n - t.length) 0

/-- The two's complement value of the low `w` bits of a number. -/
def signed (w x : Nat) : Int :=
  let y := x % 2 ^ w
  if y < 2 ^ (w - 1) then (y : Int) else (y : Int) - (2 ^ w : Nat)

/-- The `w`-bit two's complement pattern of an integer. -/
def unsigned (w : Nat) (x : Int) : Nat := (x % ((2 ^ w : Nat) : Int)).toNat

/-- One bit as a number. -/
def b2n (b : Bool) : Nat := if b then 1 else 0

/-- The quotient rounded up. -/
def ceilDiv (a b : Nat) : Nat := (a + b - 1) / b

/-- The numbers lo, lo + 1, ..., lo + n − 1. -/
def upto (lo n : Nat) : List Nat := (List.range n).map (lo + ·)

end Sys2Proof.Machine
end

