-- ==== Sys2Proof/Machine/Crc.lean ====
section
/-! DEFINITION. Machine/Crc.lean: the check values the spec parameterises (R226, R337, R413). -/

namespace Sys2Proof.Machine

open Sys2Proof

/-- One bit of a reflected check value: `p` is the reflected polynomial. -/
def crcBit (p r : Nat) : Nat := if r % 2 = 1 then (r / 2) ^^^ p else r / 2

/-- One byte of a reflected check value. -/
def crcByte (p r : Nat) (b : Byte) : Nat :=
  let x := r ^^^ b.toNat
  crcBit p (crcBit p (crcBit p (crcBit p (crcBit p (crcBit p (crcBit p (crcBit p x)))))))

/-- The running value of a reflected check after a byte string. -/
def crcRun (p r : Nat) (bs : List Byte) : Nat := bs.foldl (crcByte p) r

/-- CRC-32C of a byte string: reflected polynomial 0x82F63B78, initial value and final exclusive-or all ones (R226). -/
def crc32c (bs : List Byte) : Nat := crcRun 0x82F63B78 0xFFFFFFFF bs ^^^ 0xFFFFFFFF

/-! ### The four polynomials of Table 18-1, as a register that shifts toward its most significant bit -/

/-- Width, polynomial, initial value, whether input and output are reflected, and final exclusive-or (Table 18-1). -/
def polyWidth (p : Nat) : Nat := match p with | 0 => 16 | 1 => 32 | 2 => 32 | _ => 64
def polyTaps (p : Nat) : Nat :=
  match p with | 0 => 0x1021 | 1 => 0x04C11DB7 | 2 => 0x1EDC6F41 | _ => 0x42F0E1EBA9EA3693
def polyInit (p : Nat) : Nat := match p with | 0 => 0xFFFF | 1 => 0xFFFFFFFF | 2 => 0xFFFFFFFF | _ => 0
def polyReflected (p : Nat) : Bool := p == 1 || p == 2
def polyXor (p : Nat) : Nat := match p with | 1 => 0xFFFFFFFF | 2 => 0xFFFFFFFF | _ => 0

/-- Reverses the low `n` bits of a number. -/
def reverseBits : Nat → Nat → Nat
  | 0, _ => 0
  | n + 1, x => x % 2 * 2 ^ n + reverseBits n (x / 2)

/-- One input bit into the register of polynomial `p`. -/
def cvBit (p r : Nat) (b : Bool) : Nat :=
  let w := polyWidth p
  let top := bit r (w - 1)
  let sh := r * 2 % 2 ^ w
  if top != b then sh ^^^ polyTaps p else sh

/-- One byte into the register: least significant bit first where the input is reflected (Table 18-1). -/
def cvByte (p r : Nat) (x : Byte) : Nat :=
  let y := if polyReflected p then reverseBits 8 x.toNat else x.toNat
  [7, 6, 5, 4, 3, 2, 1, 0].foldl (fun r i => cvBit p r (bit y i)) r

/-- The register after a byte string (R414: the running value is the register before output reflection and final XOR). -/
def cvRunBytes (p r : Nat) (bs : List Byte) : Nat := bs.foldl (cvByte p) r

/-- The finished value of a register: reflected where the polynomial says so, then the final exclusive-or. -/
def cvFinish (p r : Nat) : Nat :=
  (if polyReflected p then reverseBits (polyWidth p) r else r) ^^^ polyXor p

end Sys2Proof.Machine
end

