-- ==== Sys2Proof/Machine/State.lean ====
section
/-! DEFINITION. Machine/State.lean: the whole state of one module as plain data, the reasons a step can stop, and the
state after reset. Arrays of like units are sparse (`SMap`): a unit that is not listed is as its `reset` value says.
Each structure's docstring names the rules and tables of spec/ its fields come from. -/

namespace Sys2Proof.Machine

open Sys2Proof

/-- Reasons a step stops where the spec gives the module no behaviour at all (DEDUCED, log entry 9). -/
inductive Fault where
  /-- An input outside the absolute maximum ratings of Table 20-3: R453 says the device guarantees nothing, not even
  its survival. Raised by the input-supervision steps. Safe: the model says nothing of such a module. -/
  | outsideRatings
  deriving DecidableEq, Repr

/-- Reasons a step is refused (DEDUCED, log entry 9). -/
inductive Refusal where
  /-- The step has no meaning yet. Raised by no arm of exec once every row has its meaning. Safe. -/
  | notModelled (mnemonic : String)
  /-- An operand names a unit the module does not have (a cell above 4,095, a port above 13, a stack above 23 ...), or a
  value that the operand's field cannot hold, so that no such step exists on the module. Raised by the steps of that
  unit. Safe: nothing is said of such a step. -/
  | noSuchUnit (what : String)
  deriving DecidableEq, Repr

/-! ### Cells (chapters 04, 05, 07, 08) -/

/-- A slot of the row statistics unit (Table 5-3). `s1` and `s2` count units of 2^(e − 70) and 2^(2e − 70). -/
structure StatSlot where
  vmax : F32 := 0xFF800000
  maxSeen : Bool := false
  e : Option Int := none
  s1 : Int := 0
  s2 : Nat := 0
  n : Nat := 0
  bad : Bool := false
  deriving DecidableEq, Repr

def StatSlot.reset : StatSlot := {}

/-- A semaphore word (Table 7-9). -/
structure Sem where
  value : Nat := 0
  ovf : Bool := false
  deriving DecidableEq, Repr

def Sem.reset : Sem := {}

/-- A landing-credit word (Table 7-6). -/
structure Credit where
  value : Nat := 0
  ovf : Bool := false
  deriving DecidableEq, Repr

def Credit.reset : Credit := {}

/-- An active loop of a tile (R106): its k register and the first and last operation of its body. -/
structure Loop where
  k : Nat
  first : Nat
  last : Nat
  deriving DecidableEq, Repr

/-- A descriptor as it stands in a queue: its 64 bytes, its list's generation, the context and the step of that context it
serves, and the tile of its cell that handed it over (0 for a list's); `misaligned` marks a MOVE DESC descriptor that is not
64 B aligned (Table 8-9). -/
structure QDesc where
  raw : List Byte
  generation : Nat
  context : Nat
  step : Nat
  tile : Nat
  misaligned : Bool
  deriving DecidableEq, Repr

/-- The flags an arithmetic operation raises: NV, OF (R82), CANCEL and EMPTY (R124). -/
structure Raised where
  nv : Bool := false
  ofl : Bool := false
  cancel : Bool := false
  empty : Bool := false
  deriving DecidableEq, Repr

/-- An operation issued to a queue and not yet retired (R91, R108): its queue, the scratchpad rows it reads, the pieces it
writes (physical offset, bytes) that have not been performed yet (R93), the rows a drain has yet to feed to the statistics
slots (slot, whether SUM, values; R125), the descriptor a MOVE DESC has yet to hand over, the offset to which a MOVE FLAGS
behind it has yet to write (R101), and the flags it has not raised yet (R82) (DESIGN CHOICE, log entry 11). -/
structure Issued where
  q : CellQueue
  op : TileOp
  reads : List Nat
  writes : List (Nat × List Byte)
  feeds : List (Nat × Bool × List F32)
  desc : Option QDesc
  flagsAt : Option Nat
  raised : Raised
  deriving DecidableEq, Repr

/-- When and how a wait began, for the synchronisation trace (Table 19-10). -/
structure WaitRec where
  since : Nat := 0
  frame : Nat := 0
  startNs : Nat := 0
  context : Nat := 0
  value : Nat := 0
  deriving DecidableEq, Repr

/-- A wait in a semaphore's queue (R164): the cell's own SEM_WAIT, an engine's queue, or a collective operation (R307). -/
inductive Waiter where
  | sequencer (n : Nat) (peek : Bool)
  | engine (e : Engine) (q : EngQueue) (task n : Nat)
  | collective (e op n : Nat)
  deriving DecidableEq, Repr

/-- An error record (Table 8-8), with the mark whether it has been read since it was written (R188). -/
structure ErrRec where
  tag : Nat
  status : Nat
  entry : Nat
  frame : Nat
  address : Nat
  queue : Nat
  generation : Nat
  read : Bool
  deriving DecidableEq, Repr

/-- The four ledgers of R190. -/
structure Ledger where
  accepted : Nat := 0
  completed : Nat := 0
  failed : Nat := 0
  cancelled : Nat := 0
  deriving DecidableEq, Repr

def Ledger.reset : Ledger := {}

/-- An admitted descriptor (R172, R190): how many of its transfers were issued and ended, whether its semaphore wait has
been joined and granted for the next transfer, whether it was counted in a ledger, and its cursors: bytes already
written, the codec sequence value of the block before, the next source address, and the next spill entry. -/
structure Task where
  id : Nat
  q : EngQueue
  desc : QDesc
  issued : Nat
  ended : Nat
  queuedWait : Bool
  granted : Bool
  counted : Bool
  written : Nat
  lastSeq : Option Nat
  cursor : Nat
  spillAt : Nat
  spillEnd : Bool
  creditWait : Bool
  waitAt : WaitRec
  deriving DecidableEq, Repr

/-- An access of a transfer that has still to be performed (R246): a read within one line or row, whose bytes then go to
`dst`; a write within one line or row, with its data; or the whole of a small put into the control space (R185). -/
inductive Work where
  | read (src dst len : Nat)
  | write (dst : Nat) (data : List Byte) (poison : Bool)
  | put (src dst len : Nat)
  deriving DecidableEq, Repr

/-- A transfer that has been issued and has not ended (R170): its descriptor and entry, whether it awaits a block from
the codec, whether all its accesses are known, those still to be performed, how many of its window writes are not yet
acknowledged (R157), whether it has met poison, and whether it was cancelled at an abort tick (Table 8-10 step 2). -/
structure Xfer where
  task : Nat
  q : EngQueue
  desc : QDesc
  entry : Nat
  src : Nat
  dst : Nat
  codec : Bool
  moved : Bool
  cancelled : Bool
  last : Bool
  farTier : Bool
  work : List Work
  acks : Nat
  poisoned : Bool
  issuedAt : Nat
  deriving DecidableEq, Repr

/-- The state of a mover, a gather engine or a packer (R170 to R173, R187, R190, R237). `turn` is the queue whose turn it is in
a mover's alternation (R171). -/
structure Eng where
  listQ : List QDesc := []
  tileQ : List QDesc := []
  prefetchQ : List QDesc := []
  tasks : List Task := []
  xfers : List Xfer := []
  nextTask : Nat := 0
  turn : EngQueue := .list
  errs : SMap ErrRec := []
  errTotal : Nat := 0
  overwritten : Nat := 0
  ledger : Ledger := {}
  progress : Nat := 0
  deriving DecidableEq, Repr

def Eng.reset : Eng := {}

/-- A logical cell (Tables 4-2, 4-11, 5-3, 7-1 to 7-9, 8-6, 19-2, 19-6). `k*F` latches are the flags set in the frame; `later`
holds tiles of newer rows that wait for the end of an overrun tile (R48). `tileNo` numbers the tiles that have started,
`tileAt` and `nextAt` say of which context, image generation and section offset the two halves of the buffer hold the tile (R90). -/
structure Cell where
  a : SMap (BitVec 48) := []
  k : SMap (BitVec 16) := []
  v : SMap (List F32) := []
  acc : SMap (List F32) := []
  slots : SMap StatSlot := []
  nv : Bool := false
  ofl : Bool := false
  cancel : Bool := false
  empty : Bool := false
  nvF : Bool := false
  oflF : Bool := false
  cancelF : Bool := false
  emptyF : Bool := false
  faultIndex : BitVec 16 := 0
  faultCode : BitVec 8 := 0
  tile : List (BitVec 64) := []
  nextTile : List (BitVec 64) := []
  later : List (List (BitVec 64)) := []
  active : Bool := false
  faulted : Bool := false
  tileNo : Nat := 0
  tileAt : Option (Nat × Nat × Nat) := none
  nextAt : Option (Nat × Nat × Nat) := none
  pc : Nat := 0
  loops : List Loop := []
  issued : List Issued := []
  held : Option TileOp := none
  heldAt : WaitRec := {}
  sp : List Host.Cell := []
  spPoison : SMap Bool := []
  half : SMap Bool := []
  sem : SMap Sem := []
  semQ : SMap (List Waiter) := []
  credit : SMap Credit := []
  residentTag : Option Nat := none
  mailbox : List Host.Cell := []
  mover : Eng := {}
  spCorrected : Nat := 0
  semOvf : Nat := 0
  creditOvf : Nat := 0
  windowFault : Nat := 0
  sameRow : Nat := 0
  bytes : SMap Nat := []
  progress : Nat := 0
  deriving DecidableEq, Repr

def Cell.reset : Cell := {}

/-- A cluster (01 Clusters, R10, R82, R124, Tables 19-3 and 19-4): its engines, counters and spare slot. -/
structure Cluster where
  gather : Eng := {}
  packer : Eng := {}
  ops : SMap Nat := []
  errors : SMap Nat := []
  spareSlot : Nat := 16
  spareUsed : Bool := false
  failed : Bool := false
  expProgress : Nat := 0
  deriving DecidableEq, Repr

def Cluster.reset : Cluster := {}

/-! ### Stack memory, caldera and range table (chapter 09) -/

/-- What the stack foot knows of a stored line beside its bytes: the key it was last written under (a generation number
of the key store), the poison pattern of R201, and the wrong symbols that stand in it (position, difference). -/
structure LineMeta where
  key : Nat := 0
  poison : Bool := false
  errs : List (Nat × Byte) := []
  deriving DecidableEq, Repr

def LineMeta.reset : LineMeta := {}

/-- The state of a stack (Table 9-11 state codes). -/
inductive StackState where
  | inService | retraining | margining | outOfService
  deriving DecidableEq, Repr

/-- One stack (R191 to R205, Tables 9-10, 9-11, 18-14). Banks are numbered pc × 64 + bank; rows as bank × 16,384 + row.
`groupReplays` holds, by lane group, when its current second of replays began and how many it has had (R193). -/
structure Stack where
  state : StackState := .inService
  ce : Nat := 0
  ue : Nat := 0
  poisonReads : Nat := 0
  replays : Nat := 0
  discards : Nat := 0
  marked : List Nat := []
  repaired : List Nat := []
  spareRows : SMap Nat := []
  retired : List Nat := []
  scrubHits : SMap Nat := []
  scrubLast : SMap Nat := []
  scrubAt : Nat := 0
  scrubPass : Nat := 0
  errorLog : List Nat := []
  txFailed : List Nat := []
  rxFailed : List Nat := []
  retrainDue : Bool := false
  groupReplays : SMap (Nat × Nat) := []
  bytes : SMap Nat := []
  refreshDoubled : Bool := false
  limited : Bool := false
  deriving DecidableEq, Repr

def Stack.reset : Stack := {}

/-- A line held in a caldera way (R207). -/
structure CalLine where
  way : Nat
  line : Nat
  owner : Nat
  dirty : Bool
  poison : Bool
  keep : Bool
  data : List Byte
  deriving DecidableEq, Repr

/-- A caldera set: its lines from most to least recent, and the ways retired from it (R31, Table 1-8). -/
structure CalSet where
  lines : List CalLine := []
  retired : List Nat := []
  deriving DecidableEq, Repr

def CalSet.reset : CalSet := {}

/-- The memory system below the mesh. Set numbers are (16 × die + slice) × 6,144 + set, routers are 144 × die + 12 × y + x, and
`viaductLanes` counts the failed lanes by 2 × quarter + direction (Table 18-14). -/
structure Memory where
  bytes : List Host.Cell := []
  lines : SMap LineMeta := []
  stackUnits : SMap Stack := []
  sets : SMap CalSet := []
  ranges : SMap RangeEntry := []
  calMiss : SMap Nat := []
  calWb : SMap Nat := []
  calCorrected : SMap Nat := []
  calUncorrected : SMap Nat := []
  calZero : SMap Nat := []
  calPoison : SMap Nat := []
  sliceCounts : SMap Nat := []
  routerCorrected : SMap Nat := []
  viaductHalf : Bool := false
  viaductChangedAt : Nat := 0
  viaductLanes : SMap Nat := []
  linkCounts : SMap Nat := []
  memPoint : Nat := 0
  deriving DecidableEq, Repr

/-! ### Codec (chapter 10) -/

/-- A code table record in a bank (Table 10-4): its record bytes, generation and exponent width. -/
structure CodeTable where
  generation : Nat
  expBits : Nat
  lengths : List Nat
  deriving DecidableEq, Repr

/-- A table slot of a context (R231): two banks, the active one, a load awaiting its tick, and a switch pending. -/
structure TableSlot where
  bank0 : Option CodeTable := none
  bank1 : Option CodeTable := none
  active : Bool := false
  pendingLoad : Option CodeTable := none
  pendingSwitch : Option Nat := none
  deriving DecidableEq, Repr

def TableSlot.reset : TableSlot := {}

/-- The codec counters of Table 10-12. -/
structure CodecCounts where
  decoded : Nat := 0
  packed : Nat := 0
  overlong : Nat := 0
  short : Nat := 0
  miss : Nat := 0
  check : Nat := 0
  packPoison : Nat := 0
  decUncorrectable : Nat := 0
  aliveGap : Nat := 0
  aliveRepeat : Nat := 0
  noSpace : Nat := 0
  spilled : Nat := 0
  inBytes : Nat := 0
  outBytes : Nat := 0
  deriving DecidableEq, Repr

/-! ### Contexts (chapters 02, 06, 07, 12) -/

/-- The context states of Table 12-1. -/
inductive CtxState where
  | loading | resident | evicting | evicted | admitting | degraded | destroying
  deriving DecidableEq, Repr

/-- A page's state (Table 12-9). -/
inductive PageState where
  | free | tentative | owned | quarantined
  deriving DecidableEq, Repr

/-- An entry of the KV page table (Table 12-9); `mapped` is whether KV_PAGES_MAP has mapped a frame there;
`row` and `place` are the page row of its session's directory that it stands in, and its position there. -/
structure Page where
  mapped : Bool
  frame : Nat
  storedLines : Nat
  state : PageState
  spill : Bool
  kindV : Bool
  slot : Nat
  phaseSet : Nat
  supersedes : Option Nat
  row : Nat
  place : Nat
  deriving DecidableEq, Repr

/-- A session slot (R269, R281): committed length, whether it is occupied and whether it is lost. Its directory stands in the
pages. -/
structure Session where
  occupied : Bool := false
  lost : Bool := false
  tokens : Nat := 0
  deriving DecidableEq, Repr

def Session.reset : Session := {}

/-- A region of a layout block (Table 7-2). -/
structure Region where
  valid : Bool := false
  double : Bool := false
  live : Bool := false
  resident : Bool := false
  scrub : Bool := false
  winWrite : Bool := false
  winRead : Bool := false
  base : Nat := 0
  halfBytes : Nat := 0
  source : Nat := 0
  deriving DecidableEq, Repr

def Region.reset : Region := {}

/-- A schedule image as a bank holds it (Tables 2-2, 2-4): its bytes and generation. -/
structure Bank where
  image : List Byte
  generation : Nat
  deriving DecidableEq, Repr

/-- A session record of a batch manifest (Table 12-7). -/
structure SessRec where
  slot : Nat
  phaseSet : Nat
  admits : Bool
  finish : Bool
  handoff : Bool
  kvTokens : Nat
  newTokens : Nat
  handoffSet : Nat
  tag : Nat
  deriving DecidableEq, Repr

/-- A step queued or in flight in a context (R268 to R271, R279): the command that waits for its end, its bucket and
sessions, its progress through the rows, and its outcome so far. `seq` is none for a KERNEL_LAUNCH; `id` tells the step from
the others of its context; `startFrame` is the frame of its first row. -/
structure Step where
  id : Nat
  hdr : CmdHdr
  seq : Option Nat
  bucket : Nat
  phase : Nat
  firstRow : Nat
  rowCount : Nat
  startFrame : Nat
  sessions : List SessRec
  need : Nat
  accepted : Nat
  row : Nat
  started : Bool
  latch : Bool
  replays : Nat
  overflowFrames : Nat
  overflowLeft : Nat
  masks : List (Nat × List Byte)
  outputAddr : Nat
  deriving DecidableEq, Repr

/-- What is left to happen to a step at the next tick (R44, R48, R110, R160, R163, R278, R421). Transient poison may have an address
of its own. -/
inductive AbortCause where
  | command | overrun | rowFetch | tileFault | overflow | poisonWeight (addr : Nat) | poisonKv (page : Nat)
  | poisonTransient (addr : Option Nat) | engine | hang | reset | group | memberLost
  deriving DecidableEq, Repr

/-- A change of a context's state that takes effect at the next tick (R258): what has been decided or has ended. -/
inductive CtxChange where
  | evict | evicted | returned | admitted | refused
  deriving DecidableEq, Repr

/-- The saved cell state of a context that is switched out (R166): live regions byte by byte and synchronisation state. -/
structure SavedCell where
  sp : List Host.Cell := []
  spPoison : SMap Bool := []
  half : SMap Bool := []
  sem : SMap Sem := []
  credit : SMap Credit := []
  deriving DecidableEq, Repr

def SavedCell.reset : SavedCell := {}

/-- A context (chapter 12, R50, R139, R231, R259, R272). `acct` holds the counters of Table 12-10 in the order ACCT_READ
writes them, `acctTick` as they stood at the last tick. `degradeDue` marks a context that is to enter DEGRADED (R280). -/
structure Ctx where
  partition : Nat
  state : CtxState
  residentSlot : Bool
  priority : Nat
  group : Bool
  pinned : Bool
  unevictable : Bool
  sources : List SourceEntry
  params : CtxCreateParams
  bankA : Option Bank
  bankB : Option Bank
  activeB : Bool
  imageActive : Bool
  switchPending : Bool
  tables : SMap TableSlot
  pages : List Page
  sessions : SMap Session
  lastSeq : Option Nat
  nextStep : Nat
  queue : List Step
  inFlight : Option Step
  abortNext : List AbortCause
  reload : List Nat
  blocked : Bool
  stamp : Nat
  runnableSince : Nat
  holdOff : Bool
  targetHalf : Bool
  trainCopy : List (Nat × Nat × Nat)
  saved : SMap SavedCell
  degradedGranules : List Nat
  degradeDue : Bool
  acct : SMap Nat
  acctTick : SMap Nat
  change : Option CtxChange
  reconcile : Bool
  spanLost : Bool
  deriving DecidableEq, Repr

/-! ### Host interface (chapter 14) -/

/-- A queue (R333 to R339). `ring` tells it from the rings that have borne its number before it (DESIGN CHOICE, log entry 31). -/
structure Queue where
  owner : Nat
  ring : Nat
  sqBase : Nat
  cqBase : Nat
  sqLog2 : Nat
  cqLog2 : Nat
  vector : Nat
  enabled : Bool
  fetching : Bool
  sqHead : Nat
  sqTail : Nat
  cqHead : Nat
  cqTail : Nat
  phase : Bool
  alive : Nat
  inFlight : List (Nat × Nat)
  deriving DecidableEq, Repr

/-- A function's registers (Table 14-5) and its event ring (R342). -/
structure Fn where
  aqSqBase : BitVec 64 := 0
  aqCqBase : BitVec 64 := 0
  aqVector : Nat := 0
  aqCqLog2 : Nat := 0
  aqSqLog2 : Nat := 0
  aqEnable : Bool := false
  evqBase : BitVec 64 := 0
  evqVector : Nat := 0
  evqLog2 : Nat := 0
  evqEnable : Bool := false
  evqEnabled : Bool := false
  evqHead : Nat := 0
  evqTail : Nat := 0
  evqPhase : Bool := true
  lostBefore : Bool := false
  dbFault : Nat := 0
  memFault : Nat := 0
  evtLost : Nat := 0
  aqAlive : Nat := 0
  deriving DecidableEq, Repr

def Fn.reset : Fn := {}

/-- A host window entry as written (Table 14-9). The entries in force stand in `HostIf.winNow`. -/
structure HostWin where
  devBase : BitVec 64 := 0
  size : BitVec 64 := 0
  hostAddr : BitVec 64 := 0
  owner : BitVec 8 := 0
  kind : BitVec 8 := 0
  flags : BitVec 8 := 0
  deriving DecidableEq, Repr

def HostWin.reset : HostWin := {}

/-- An exposure entry (R343): its two words; `inForce` is whether the entry acts, `closing` that its clearing waits for
back-invalidation. -/
structure Exposure where
  word0 : BitVec 64 := 0
  word1 : BitVec 64 := 0
  inForce : Bool := false
  closing : Bool := false
  deriving DecidableEq, Repr

def Exposure.reset : Exposure := {}

/-- A class A write held for the host's BIRsp (R323). -/
structure HeldWrite where
  addr : Nat
  owner : Nat
  cluster : Nat
  data : List Byte
  poison : Bool
  deriving DecidableEq, Repr

/-- A command accepted whose reply comes when its work ends (R349). `reply` is the status, result and result2 once they
are known; `image` is what SCHED_LOAD has read and checked. -/
structure LongCmd where
  op : Instr
  image : List Byte
  hdr : CmdHdr
  accepted : Nat
  reply : Option (Nat × Nat × Nat)
  deriving DecidableEq, Repr

/-- A change that takes effect at a tick, with the command that waits for it (R349) and what the command read from memory
when it started. -/
structure Pending where
  op : Instr
  data : List Nat
  hdr : CmdHdr
  accepted : Nat
  atTick : Nat
  deriving DecidableEq, Repr

/-- The host interface: functions, queues, tables, host memory as the module sees it, and the commands in progress (DESIGN CHOICE, log entries 2 and 28). -/
structure HostIf where
  fns : SMap Fn := []
  queues : SMap (Option Queue) := []
  nextRing : Nat := 0
  qrejAlive : SMap Nat := []
  qrejRejected : SMap Nat := []
  windows : SMap HostWin := []
  winNow : SMap HostWin := []
  exposures : SMap Exposure := []
  mem : List Host.Cell := []
  msix : List (Nat × Nat) := []
  started : List Instr := []
  long : List LongCmd := []
  ticking : List Pending := []
  snoop : List Nat := []
  heldWrites : List HeldWrite := []
  ats : List (Nat × Nat) := []
  linkWidth : Nat := 8
  linkRate : Nat := 64
  flit256 : Bool := true
  linkUp : Bool := true
  ideIo : Bool := false
  ideMem : Bool := false
  ideIoFailed : Bool := false
  ideMemFailed : Bool := false
  ideRequired : Bool := false
  rrNext : Nat := 0
  deriving DecidableEq, Repr

/-! ### Partitions and the root of trust (chapter 16) -/

/-- A check-value stream (R414). -/
structure Stream where
  inUse : Bool := false
  poly : Nat := 0
  running : Nat := 0
  alive16 : Bool := false
  checkAlive : Bool := false
  expected : Nat := 0
  byteCount : Nat := 0
  deriving DecidableEq, Repr

def Stream.reset : Stream := {}

/-- A partition (Table 16-1). -/
structure Part where
  present : Bool := false
  keepWays : Nat := 8
  mask0 : Nat := 0xFFFF
  mask1 : Nat := 0xFFFF
  maxContexts : Nat := 0
  maxQueues : Nat := 0
  memKey : Nat := 0
  dumpKey : Option Nat := none
  seqMem : Nat := 0
  seqDump : Nat := 0
  streams : SMap Stream := []
  acct : SMap Nat := []
  acctTick : SMap Nat := []
  deriving DecidableEq, Repr

def Part.reset : Part := {}

/-- A record of the sinter journal (Table 16-13). -/
structure JRec where
  key : Nat
  seq : Nat
  stamp : Nat
  value : List Byte
  good : Bool
  deriving DecidableEq, Repr

/-- A firmware slot (Tables 16-8, 16-10). -/
structure Slot where
  image : List Byte := []
  valid : Bool := false
  deriving DecidableEq, Repr

def Slot.reset : Slot := {}

/-- The flash: it survives every reset (Table 16-8). Counters rise only (R372) (DESIGN CHOICE, log entry 2). -/
structure Flash where
  slotA : Slot := {}
  slotB : Slot := {}
  recoverySlot : Slot := {}
  copyA : List JRec := []
  copyB : List JRec := []
  headerAOk : Bool := true
  headerBOk : Bool := true
  stamp : Nat := 0
  rollback : SMap Nat := []
  deriving DecidableEq, Repr

/-- The SPDM connection (R380, R381): how far the negotiation went, whether a session runs, and the last signed transcript. -/
structure Spdm where
  version : Bool := false
  caps : Bool := false
  algs : Bool := false
  exchange : Bool := false
  handshake : Bool := false
  session : Bool := false
  signed : Option (List Byte) := none
  transcript : List Byte := []
  response : List Byte := []
  deriving DecidableEq, Repr

/-- The root of trust (R373 to R388): the slot that booted (0 A, 1 B, 2 recovery), measurement registers, the active slot
the journal names, a staged image and an activation, the journal's divergence, and key generation numbers (DESIGN CHOICE, log entry 2). -/
structure Rot where
  halted : Bool := false
  recovery : Bool := false
  divergent : Bool := false
  booted : Bool := false
  bootSlot : Nat := 0
  fallback : Bool := false
  activeSlot : Nat := 0
  staged : Bool := false
  activationPending : Bool := false
  fwVersion : Nat := 0
  svn : Nat := 0
  fwKey : Nat := 0
  keyGen : Nat := 0
  measures : SMap (List Byte) := []
  cfg : SMap Nat := []
  cfgNext : SMap Nat := []
  spdm : Spdm := {}
  deriving DecidableEq, Repr

/-! ### Links, group and collectives (chapter 13) -/

/-- The port states of Table 13-11. -/
inductive PortState where
  | down | training | up | upNarrow | authFailed | disabled
  deriving DecidableEq, Repr

/-- A record that waits to be sent (R289, R294): its plaintext, the context it serves, and the collective operation (engine, number)
that sent it; `fence` marks a FENCE_REQ, which leaves behind the writes of its context. -/
structure TxRec where
  plain : List Byte
  context : Nat
  op : Option (Nat × Nat)
  fence : Bool
  deriving DecidableEq, Repr

/-- A data flit in the replay buffer (R291): its place, its encrypted payload, how often it has been replayed, and the collective operation
whose record it belongs to. -/
structure TxFlit where
  seq : Nat
  vc : Nat
  recPos : Nat
  phase : Bool
  payload : List Byte
  replays : Nat
  op : Option (Nat × Nat)
  deriving DecidableEq, Repr

/-- A data flit in the receive buffer (R289). -/
structure RxFlit where
  seq : Nat
  vc : Nat
  recPos : Nat
  phase : Bool
  payload : List Byte
  deriving DecidableEq, Repr

/-- The keys of one direction of a port (R295, R383): the extracted exchange secret, the key index, and the counter of the next record. -/
structure LinkKey where
  prk : List Byte := []
  index : Nat := 0
  counter : Nat := 0
  deriving DecidableEq, Repr

/-- A Glony port (R285 to R296, Tables 13-10, 13-11). `credits` are those the sender holds per channel, `seenTotals` the returns it has
seen, `freed` those this port has made, `share` the flits of each channel in the frame, `outQ` the records that wait, `unacked`
the replay buffer, `rx` the receive buffer, `sent` the flits that have left. `rxOld` holds the receiver's key from before a retrain or
rotation, `newPrk` what a new exchange has given, `restart` is set by what loses link state on this side, `toModule` is the electrical class of the last training (R285), `trainFail` how training
failed and as the how-manieth port, `rotateTx` and `rotateRx` that a rotation has been asked for (DEDUCED, log entry 53). -/
structure Port where
  state : PortState := .down
  lanes : Nat := 0
  failedLanes : List Nat := []
  toModule : Bool := false
  peerRank : Nat := 0xFF
  peerPort : Nat := 0xFF
  peerId : List Byte := []
  peerEpoch : Option Nat := none
  phase : Nat := 0
  retrains : Nat := 0
  retrainDue : Bool := false
  tx : LinkKey := {}
  rxKey : LinkKey := {}
  rxOld : Option LinkKey := none
  newPrk : Option (List Byte) := none
  rotateTx : Bool := false
  rotateRx : Bool := false
  outQ : SMap (List TxRec) := []
  sendSeq : Nat := 0
  unacked : List TxFlit := []
  sent : List (List Byte) := []
  share : SMap Nat := []
  crTurn : Nat := 0
  recvSeq : Nat := 0
  rx : List RxFlit := []
  nakPending : Bool := false
  flitReplays : Nat := 0
  msgErrors : Nat := 0
  fec : Nat := 0
  fecUe : Nat := 0
  auth : Nat := 0
  discarded : Nat := 0
  reconciled : Nat := 0
  credits : SMap Nat := []
  seenTotals : SMap Nat := []
  freed : SMap Nat := []
  tagFailedOnce : Bool := false
  narrowAsk : Bool := false
  narrowPeer : Bool := false
  narrowPermitted : Bool := false
  weights : SMap Nat := []
  everUp : Bool := false
  restart : Bool := false
  trainCmd : Bool := false
  trainFail : Option (Nat × Nat) := none
  progress : Nat := 0
  deriving DecidableEq, Repr

def Port.reset : Port := {}

/-- A collective operation (R307 to R310): its record, the step and the frame that issued it, whether its wait has joined its queue and
been granted, whether it has started, whether the gathering half of an ALL_REDUCE has begun, whether its post has been applied, and how
it went. A fence holds the acknowledgements it awaits (rank, port, sequence) and the operations (engine, number) that it waits for. -/
structure CollOp where
  raw : List Byte
  context : Nat
  step : Nat
  opId : Nat
  startFrame : Nat
  joined : Bool
  granted : Bool
  started : Bool
  gathering : Bool
  posted : Bool
  timedOut : Bool
  failedOnce : Bool
  fence : List (Nat × Nat × Nat)
  after : List (Nat × Nat)
  waitAt : WaitRec
  deriving DecidableEq, Repr

/-- A collective engine (R307, R311, R312): `sent` lists the messages it has sent, each with its type (Table 13-5); `got`
counts the performed messages, by operation, kind and source rank; `held` are messages that have arrived and wait to be performed
(R253, R254, R309), each with its type. -/
structure Coll where
  ops : List CollOp := []
  nextId : Nat := 0
  ledger : Ledger := {}
  errs : SMap ErrRec := []
  errTotal : Nat := 0
  overwritten : Nat := 0
  got : SMap Nat := []
  held : List (Nat × Msg) := []
  fenceSeq : Nat := 0
  sent : List (Nat × Msg) := []
  progress : Nat := 0
  deriving DecidableEq, Repr

def Coll.reset : Coll := {}

/-- The group states of Table 13-12. -/
inductive GroupState where
  | standalone | joining | member | keystone | lost
  deriving DecidableEq, Repr

/-- A change the keystone has announced: the frame at whose tick it applies, and its TICK entry bytes (Table 13-15). -/
structure Announced where
  frame : Nat
  kind : Nat
  entry : List Byte
  deriving DecidableEq, Repr

/-- What a TICK message says of the frame that its tick begins (Table 13-14). -/
structure TickInfo where
  frame : Nat
  stretch : Nat
  overflow : Nat
  ends : Bool
  deriving DecidableEq, Repr

/-- The group (R300 to R306, R446, Tables 13-10, 13-12, 19-9); `sent` lists the control messages sent, each with its type. `reach` holds
the reach mask that each rank sent, `overrunRanks` the consecutive frames that each rank reported in overrun, `beat` the ranks
heard since the last tick, `missed` the ticks without a heartbeat, `abortAsk` the aborts asked for (context, step_seq, cause),
`abortSent` the contexts whose abort this member has asked for, `runNow` the group context whose rows run, `grantHdr` the gated
command that a grant lets start (DESIGN CHOICE, log entry 1). -/
structure Group where
  state : GroupState := .standalone
  size : Nat := 1
  rank : Nat := 0
  keystoneRank : Nat := 0
  epoch : Nat := 0
  treeDepth : Nat := 0
  members : List Nat := [0]
  lost : List Nat := []
  excluded : List Nat := []
  form : Option GroupFormParams := none
  formHdr : Option CmdHdr := none
  formAccepted : Nat := 0
  reach : SMap Nat := []
  lateRanks : List Nat := []
  overrunRanks : SMap Nat := []
  missed : SMap Nat := []
  beat : SMap Bool := []
  runnable : SMap Nat := []
  overflow : SMap Nat := []
  announced : List Announced := []
  abortAsk : List (Nat × Nat × Nat) := []
  abortSent : List Nat := []
  tickInfo : Option TickInfo := none
  tickMore : Bool := false
  runNow : Option Nat := none
  sent : List (Nat × Msg) := []
  gateEnabled : Bool := false
  gateNext : Option Bool := none
  grantsLeft : Nat := 0
  waiting : List Nat := []
  gateMember : Bool := false
  grantHdr : Option CmdHdr := none
  linkEpoch : Nat := 0
  startFrame : Option Nat := none
  deriving DecidableEq, Repr

/-! ### Power, thermal, health, observability and management (chapters 17 to 20) -/

/-- Power and thermal state (Tables 17-8 to 17-10, R397 to R408). `order` is byte 0, 1, 2 of the priority; `calEst` and
`calShare` are the energy estimated since the last calibration, and each context's part of it (DESIGN CHOICE, log entries 1 and 2). -/
structure Power where
  cap : Nat := 3600
  order0 : Nat := 2
  order1 : Nat := 1
  order2 : Nat := 0
  permitted : Nat := 2
  linkPoint : Nat := 0
  dutyEighths : Nat := 8
  droopHalf0 : Bool := false
  droopHalf1 : Bool := false
  diePoint0 : Nat := 2
  diePoint1 : Nat := 2
  gainPpm : Int := 0
  energyMj : Nat := 0
  ctxEnergyMj : Nat := 0
  calEst : Nat := 0
  calShare : SMap Nat := []
  inputW : Nat := 0
  inputCentiV : Nat := 6400
  est : SMap Nat := []
  ceilings : SMap Nat := []
  capLimiting : Bool := false
  caplimCnt : Nat := 0
  brakePin : Bool := false
  brakeUv : Bool := false
  toggle : Bool := false
  lastAssert : Option Nat := none
  lineLow : Bool := false
  brakeCnt : Nat := 0
  disagree0 : Bool := false
  disagree1 : Bool := false
  disagreeCnt : Nat := 0
  agree0 : Nat := 0
  agree1 : Nat := 0
  alarmStuck : Bool := false
  alarmDisagree : Bool := false
  alarmThermal : Bool := false
  alarmBrake : Bool := false
  dieTemps : List Int := []
  stackTemps : List Int := []
  thermalPoint : Nat := 0
  thermalMem : Nat := 0
  dieThrottle0 : Bool := false
  dieThrottle1 : Bool := false
  dieLimit0 : Bool := false
  dieLimit1 : Bool := false
  throttleCnt : Nat := 0
  admissionPct : Nat := 100
  activity : SMap Nat := []
  lastBudget : Nat := 0
  shutdown : Bool := false
  thrmLatched : Bool := false
  deriving DecidableEq, Repr

/-- A node of the wait-for graph (Table 19-12). -/
structure GNode where
  kind : Nat
  state : Nat
  id : Nat
  index : Nat
  outstanding : Nat
  value : Nat
  progress : Nat
  deriving DecidableEq, Repr

/-- The wait-for graph of the most recent hang (R442). -/
structure Graph where
  verdict : Nat := 0
  context : Nat := 0xFFFF
  frame : Nat := 0
  nodes : List GNode := []
  edges : List (Nat × Nat × Nat) := []
  root : Nat := 0
  targetCls : Nat := 0xFF
  targetNum : Nat := 0
  deriving DecidableEq, Repr

def Graph.reset : Graph := {}

/-- A part of a hang dump (Table 16-7) with the sample's pieces as they were wrapped. -/
structure DumpPart where
  partition : Nat
  withheld : Bool
  wrapped : Bool
  context : Nat
  regions : Nat
  frame : Nat
  cipher : List Byte
  deriving DecidableEq, Repr

/-- A dump (R423, R444). -/
structure Dump where
  id : Nat
  hold : Bool
  frame : Nat
  cls : Nat
  number : Nat
  verdict : Nat
  parts : List DumpPart
  deriving DecidableEq, Repr

/-- Health and recovery (Tables 18-11 to 18-13, R419 to R432). `watch` holds, for each unit of Table 18-5 with work, its
progress counter plus one and the tick since which it has stood; `hangAt` is the detection tick of a hang that waits for its
abort, `retiring` lists the cells that a cluster reset retires. -/
structure Health where
  resets : SMap Nat := []
  escalations : Nat := 0
  hangs : Nat := 0
  rstGlitch : Nat := 0
  coreRestarts : Nat := 0
  guardFaults : SMap Nat := []
  lastCause : Nat := 0
  verdict : Nat := 0
  dieState : SMap Nat := []
  hold : Option Domain := none
  sampling : Bool := false
  recovering : Bool := false
  resetting : List Domain := []
  policy : Nat := 0
  coresDie0 : Nat := 0xF
  coresDie1 : Nat := 0xF
  coreMiss : SMap Nat := []
  coreRestarting : List Nat := []
  lastHangFrame : Nat := 0
  lastHang : Domain := ⟨0, 0⟩
  starvation : Nat := 0
  starvationRank : Nat := 0
  lastDump : Nat := 0
  dumps : List Dump := []
  graph : Graph := {}
  target : Option Domain := none
  spareMapSeq : Nat := 0
  moduleResetCause : Nat := 0
  watch : SMap (Nat × Nat) := []
  hangAt : Option Nat := none
  retiring : List Nat := []
  deriving DecidableEq, Repr

/-- Observability (Tables 19-7 to 19-10). `gate` fields stand in Group. `hostBytes` counts as bytes move, of which `hostSent`
left the module; `hostShown` and `errSeen` are what the last tick published. -/
structure Observe where
  cellFrames : Nat := 0
  arrayCycles : Nat := 0
  macs : Nat := 0
  stackBytes : Nat := 0
  glonyBytes : Nat := 0
  hostBytes : Nat := 0
  hostSent : Nat := 0
  hostShown : Nat := 0
  runFrames : Nat := 0
  errSum : SMap Nat := []
  errSeen : SMap Nat := []
  traceOn : Bool := false
  sameRowOn : Bool := false
  traceRing : Nat := 0
  traceLog2 : Nat := 0
  traceHead : Nat := 0
  traceSecond : Nat := 0
  traceRate : Nat := 0
  traceTail : Nat := 0
  traceLost : Nat := 0
  traceShort : Nat := 0
  baseline : SMap Nat := []
  deriving DecidableEq, Repr

/-- The power states of HX_MC_STATE (Table 20-8). -/
inductive PowerState where
  | off | rising | on | falling | latched
  deriving DecidableEq, Repr

/-- The management microcontroller and the pins (Tables 17-1, 20-6, 20-8, R448, R462) (DESIGN CHOICE, log entries 1 and 2 and 65). -/
structure Mgmt where
  powerState : PowerState := .on
  railsUp : Nat := 10
  auxOk : Bool := true
  mainInRange : Bool := true
  inReset : Bool := false
  alert : BitVec 32 := 0
  alertHold : BitVec 32 := 0
  faultRail : Nat := 0
  busErr : Nat := 0
  dynAddr : Option Nat := none
  temp : Option (Int × Int) := none
  mbox : Nat := 0
  rstIn : Bool := false
  jtagIr : Nat := 0
  bypassBit : Bool := false
  boundary : BitVec 16 := 0
  pinsDriven : Bool := false
  tdo : BitVec 32 := 0
  syncOutPulses : Nat := 0
  auxCentiV : Nat := 1200
  auxDeciW : Nat := 0
  coolantOut : Int := 0
  coolantIn : Int := 0
  interrupts : List Byte := []
  deriving DecidableEq, Repr

/-! ### Frames (chapter 02) and the whole -/

/-- The configured settings of HX_FRAME_CFG (Table 2-10); `lateLead` in units of 100 ns. -/
structure FrameCfg where
  lateLead : Nat := 10
  periodUs : Nat := 20
  quantumUs : Nat := 2
  maxQuanta : Nat := 4
  syncOutEn : Bool := false
  source : Nat := 0
  deriving DecidableEq, Repr

/-- A row as fetched (Table 2-5): its header fields, its entries, and the descriptor lists fetched with it, main part and
prefetch part. The tiles fetched with it stand in the cells. -/
structure RowImg where
  context : Nat
  index : Nat
  budget : Nat
  flags : Nat
  entries : List Nat
  lists : List (Engine × List QDesc × List QDesc) := []
  windows : List (Nat × List Byte) := []
  deriving DecidableEq, Repr

/-- Frame state (Tables 2-9 to 2-11, R44 to R58). `ticks` counts the applied ticks without wrapping; `lateMark` is the
tick count of the last frame that was stretched or in overrun (R49). `fetchBad` marks a fetch that failed for a step that has
not begun, `checked` that the current plan's check point has passed, `freeRun` that the last tick applied was an internal one of R55, `overflowOwn` is this module's overflow count (R277). Times are in ns (DEDUCED, log entry 32). -/
structure Frames where
  counter : BitVec 48 := 0
  ticks : Nat := 0
  cfg : FrameCfg := {}
  announced : Option (FrameCfg × Nat) := none
  lastTick : Nat := 0
  planned : Nat := 20000
  stretch : Nat := 0
  overrunRun : Nat := 0
  applied : Nat := 2
  required : Nat := 2
  catchUp : Bool := false
  overrun : Bool := false
  late : Bool := false
  syncLost : Bool := false
  droopStep : Bool := false
  checks : Nat := 0
  lateCnt : Nat := 0
  stretchCnt : Nat := 0
  overrunCnt : Nat := 0
  syncOverrunCnt : Nat := 0
  syncLostCnt : Nat := 0
  droopCnt : Nat := 0
  rowFetchErrors : Nat := 0
  lateMark : Option Nat := none
  running : Option RowImg := none
  fetched : Option RowImg := none
  fetchBad : Bool := false
  checked : Bool := false
  freeRun : Bool := false
  overflowOwn : Nat := 0
  deriving DecidableEq, Repr

/-- The residency manager (R261 to R267): the running context, the switch in progress with its step of Table 12-5, the
grace period and stall timers: `graceFor` is the context for whose sake the period has elapsed (R264). `holder` is the partition whose contents the cells hold (R168). -/
structure Residency where
  current : Option Nat := none
  outgoing : Option Nat := none
  incoming : Option Nat := none
  switchStep : Nat := 0
  graceFor : Option Nat := none
  graceRunning : Bool := false
  stallMs : SMap Nat := []
  holder : Option Nat := none
  deriving DecidableEq, Repr

/-- What the last access that reads answered to its requester: the data, whether it is marked poisoned, and a status code
of Table 14-14 where the access was refused or failed (0 otherwise). It is the module's output port, the model's own (DESIGN CHOICE, log entry 64). -/
structure Resp where
  data : List Byte := []
  poison : Bool := false
  status : Nat := 0
  deriving DecidableEq, Repr

/-- The whole module, the queue of commands that wait, and the model's own counter of free values (log entry 3). -/
structure State where
  pending : List Instr := []
  freeCount : Nat := 0
  now : Nat := 0
  resp : Resp := {}
  ready : Bool := false
  faultFlag : Bool := false
  frames : Frames := {}
  residency : Residency := {}
  ctxs : SMap (Option Ctx) := []
  cells : SMap Cell := []
  clusters : SMap Cluster := []
  mem : Memory := {}
  codec : CodecCounts := {}
  host : HostIf := {}
  parts : SMap Part := []
  rot : Rot := {}
  flash : Flash := {}
  ports : SMap Port := []
  colls : SMap Coll := []
  grp : Group := {}
  power : Power := {}
  health : Health := {}
  obs : Observe := {}
  mgmt : Mgmt := {}
  deriving DecidableEq, Repr

/-- The module right after a module reset, before the boot has run: the Reset column of every register (R6), the frame
counter zero (R34), every partition and key gone (R364), the ports DOWN, memory with nothing listed (R470). The values
that the spec does not give are named in log entries 1 and 2. -/
def State.reset : State := {}

end Sys2Proof.Machine
end

