-- ==== Sys2Proof/Machine/Flags.lean ====
section
/-! DEFINITION. Machine/Flags.lean: the sticky arithmetic flags of a cell (R82, R124) and how an operation sets them. -/

namespace Sys2Proof.Machine

open Sys2Proof

/-- No flag raised. -/
def quiet : Raised := {}

/-- The flags raised by either of two operations. -/
def raiseBoth (x y : Raised) : Raised :=
  { nv := x.nv || y.nv, ofl := x.ofl || y.ofl, cancel := x.cancel || y.cancel, empty := x.empty || y.empty }

/-- The flags raised by any operation of a list. -/
def raiseAll (l : List Raised) : Raised := l.foldl raiseBoth quiet

/-- Sets the sticky flags of a cell and the marks of the frame from what an operation raised; a flag that is set stays set
(R82: flags are cleared only by the status read). -/
def setFlags (c : Cell) (r : Raised) : Cell :=
  { c with
    nv := c.nv || r.nv, ofl := c.ofl || r.ofl, cancel := c.cancel || r.cancel, empty := c.empty || r.empty
    nvF := c.nvF || r.nv, oflF := c.oflF || r.ofl, cancelF := c.cancelF || r.cancel, emptyF := c.emptyF || r.empty }

end Sys2Proof.Machine
end

