-- ==== Sys2Proof/Machine/Operands.lean ====
section
/-! DEFINITION. Machine/Operands.lean: the number formats (chapter 03): what every code of an element means, exact
products, group sums, the conversions on the drain, and the arithmetic of the vector unit. -/

namespace Sys2Proof.Machine

open Sys2Proof

/-- An exact value: a NaN, an infinity, or (−1)^neg × m × 2^e. -/
inductive FVal where
  | nan
  | inf (neg : Bool)
  | fin (neg : Bool) (m : Nat) (e : Int)
  deriving DecidableEq, Repr

/-- The element types of Table 3-1 that have a sign. -/
inductive Elem where
  | fp32 | bf16 | fp16 | e4m3 | e5m2 | e2m1 | int8
  deriving DecidableEq, Repr

/-! ### Layouts (Table 3-1) -/

/-- Mantissa bits, bias and width in bits of a floating-point element type (Table 3-1). -/
def mantBits : Elem → Nat
  | .fp32 => 23 | .bf16 => 7 | .fp16 => 10 | .e4m3 => 3 | .e5m2 => 2 | .e2m1 => 1 | .int8 => 0
def expBias : Elem → Nat
  | .fp32 => 127 | .bf16 => 127 | .fp16 => 15 | .e4m3 => 7 | .e5m2 => 15 | .e2m1 => 1 | .int8 => 0
def elemWidth : Elem → Nat
  | .fp32 => 32 | .bf16 => 16 | .fp16 => 16 | .e4m3 => 8 | .e5m2 => 8 | .e2m1 => 4 | .int8 => 8

/-- The code of the largest finite magnitude (Table 3-1): the code below the infinity, 0x7E for E4M3, 0x7 for E2M1. -/
def maxCode : Elem → Nat
  | .fp32 => 0x7F7FFFFF | .bf16 => 0x7F7F | .fp16 => 0x7BFF | .e4m3 => 0x7E | .e5m2 => 0x7B | .e2m1 => 7 | .int8 => 127

/-- The code of +∞, for the types that have one. -/
def infCode : Elem → Option Nat
  | .fp32 => some 0x7F800000 | .bf16 => some 0x7F80 | .fp16 => some 0x7C00 | .e5m2 => some 0x7C | _ => none

/-- The canonical NaN of Table 3-4. -/
def nanCode : Elem → Nat
  | .fp32 => 0x7FC00000 | .bf16 => 0x7FC0 | .fp16 => 0x7E00 | .e4m3 => 0x7F | .e5m2 => 0x7E | _ => 0

/-- The value of an element's code (R62). The INT8 element here is the integer; a block format scales it by 2^-6. -/
def elemValue (t : Elem) (x : Nat) : FVal :=
  match t with
  | .int8 => let i := signed 8 x; .fin (decide (i < 0)) i.natAbs 0
  | t =>
    let w := elemWidth t
    let mb := mantBits t
    let neg := bit x (w - 1)
    let mag := x % 2 ^ (w - 1)
    if infCode t = some mag then .inf neg
    else if t ≠ .e2m1 ∧ mag > maxCode t then .nan
    else
      let ex := mag / 2 ^ mb
      let man := mag % 2 ^ mb
      if ex = 0 then .fin neg man (1 - (expBias t : Int) - mb)
      else .fin neg (man + 2 ^ mb) ((ex : Int) - expBias t - mb)

/-- The FP32 value of a pattern. -/
def f32Value (x : F32) : FVal := elemValue .fp32 x.toNat

def isNaN32 (x : F32) : Bool := decide (x.toNat % 2 ^ 31 > 0x7F800000)

/-- The canonical FP32 NaN and the two infinities and zeros (Table 3-1, R72). -/
def nan32 : F32 := 0x7FC00000
def inf32 (neg : Bool) : F32 := if neg then 0xFF800000 else 0x7F800000
def zero32 (neg : Bool) : F32 := if neg then 0x80000000 else 0

/-! ### Rounding -/

/-- m × 2^k rounded to an integer, to nearest with ties to even. -/
def roundShift (m : Nat) (k : Int) : Nat :=
  match k with
  | .ofNat s => m <<< s
  | .negSucc n =>
    let d := n + 1
    let q := m >>> d
    let r := m % 2 ^ d
    let h := 2 ^ n
    if r > h ∨ (r = h ∧ q % 2 = 1) then q + 1 else q

/-- m × 2^k truncated toward zero to an integer. -/
def truncShift (m : Nat) (k : Int) : Nat :=
  match k with
  | .ofNat s => m <<< s
  | .negSucc n => m >>> (n + 1)

/-- floor(log2 (m × 2^e)) of a non-zero magnitude. -/
def floorLog2 (m : Nat) (e : Int) : Int := (Nat.log2 m : Int) + e

/-- The magnitude code of m × 2^e in a floating-point type, rounded to nearest even with an unbounded exponent
(R75: it lies above `maxCode` exactly when the value rounds above the largest finite). -/
def magCode (t : Elem) (m : Nat) (e : Int) : Nat :=
  if m = 0 then 0
  else
    let mb := mantBits t
    let qmin : Int := 1 - (expBias t : Int) - mb
    let q := max (floorLog2 m e - mb) qmin
    (q - qmin).toNat * 2 ^ mb + roundShift m (e - q)

/-- Puts a sign in front of a magnitude code. -/
def signed32 (neg : Bool) (mag : Nat) : F32 := BitVec.ofNat 32 (mag + (if neg then 2 ^ 31 else 0))

/-- A finite exact value rounded once to FP32; above the largest finite it is an infinity and OF is raised (R72, R80). -/
def roundF32 (neg : Bool) (m : Nat) (e : Int) : F32 × Raised :=
  let c := magCode .fp32 m e
  if c > maxCode .fp32 then (inf32 neg, { ofl := true }) else (signed32 neg c, quiet)

/-! ### Format codes (Table 3-2) -/

/-- The element type of a format code; none for the codes that are no arithmetic format (0xE, 0xF and above). -/
def fmtElem (c : Nat) : Option Elem :=
  match c with
  | 0 => some .fp32 | 1 => some .bf16 | 2 => some .fp16
  | 3 => some .e4m3 | 4 => some .e5m2 | 5 => some .int8
  | 6 => some .e4m3 | 7 => some .e5m2 | 8 => some .e2m1 | 9 => some .int8
  | 10 => some .e4m3 | 11 => some .e5m2 | 12 => some .e2m1 | 13 => some .int8
  | _ => none

/-- Elements per scale: 32 for the MX formats, 16 for the HB16 formats, none for the plain ones. -/
def fmtBlock (c : Nat) : Option Nat :=
  if 6 ≤ c ∧ c ≤ 9 then some 32 else if 10 ≤ c ∧ c ≤ 13 then some 16 else none

/-- Bits per element of a format code. -/
def fmtBits (c : Nat) : Nat := match fmtElem c with | some t => elemWidth t | none => 8

/-- The group size of a multiply class (R66): 32 for the 8-bit class, 16 for BF16, 8 for FP16; none for no operand. -/
def fmtGroup (c : Nat) : Option Nat :=
  if c = 1 then some 16 else if c = 2 then some 8 else if 3 ≤ c ∧ c ≤ 13 then some 32 else none

/-- E2M1 to E4M3 (R68, Table 3-3). -/
def widen (x : Nat) : Nat :=
  let s := b2n (bit x 3) * 0x80
  let e := bits x 1 2
  let m := x % 2
  s + (if e = 0 then (if m = 0 then 0 else 0x30) else (e + 6) * 8 + m * 4)

/-- Multiplies an exact value by a power of two. -/
def scaleBy (v : FVal) (k : Int) : FVal :=
  match v with | .fin n m e => .fin n m (e + k) | v => v

/-- The value of element code `x` under scale byte `sc` in a format (R63, R65). In a plain format the scale is not read. -/
def fmtValue (c x sc : Nat) : FVal :=
  match fmtElem c with
  | none => .nan
  | some t =>
    match fmtBlock c with
    | none => elemValue t x
    | some _ =>
      if sc = 0xFF then .nan
      else
        let v := if t = .e2m1 then elemValue .e4m3 (widen x) else elemValue t x
        scaleBy v ((sc : Int) - 127 - (if t = .int8 then 6 else 0))

/-! ### Products and group sums -/

/-- The exact product of two operands (R69, R70). -/
def product (a b : FVal) : FVal × Raised :=
  match a, b with
  | .nan, _ => (.nan, quiet)
  | _, .nan => (.nan, quiet)
  | .inf x, .inf y => (.inf (x != y), quiet)
  | .inf x, .fin y m _ => if m = 0 then (.nan, { nv := true }) else (.inf (x != y), quiet)
  | .fin x m _, .inf y => if m = 0 then (.nan, { nv := true }) else (.inf (x != y), quiet)
  | .fin x m e, .fin y m' e' => (.fin (x != y) (m * m') (e + e'), quiet)

def isNaN (v : FVal) : Bool := match v with | .nan => true | _ => false
def isInf (n : Bool) (v : FVal) : Bool := match v with | .inf x => x == n | _ => false
def isNegZero (v : FVal) : Bool := match v with | .fin true 0 _ => true | _ => false

/-- The floor of log2 of a non-zero finite value; none otherwise. -/
def expOf (v : FVal) : Option Int :=
  match v with | .fin _ m e => if m = 0 then none else some (floorLog2 m e) | _ => none

/-- The largest of the exponents that are there. -/
def maxExp (l : List FVal) : Option Int :=
  l.foldl (fun a v => match a, expOf v with
    | none, x => x | some y, none => some y | some y, some x => some (max x y)) none

/-- A finite value truncated toward zero to a multiple of 2^q, in units of 2^q. -/
def truncUnits (q : Int) (v : FVal) : Int :=
  match v with
  | .fin n m e => let t := (truncShift m (e - q) : Int); if n then -t else t
  | _ => 0

/-- The result of one group: its products, with the accumulator when there is one (R72). -/
def groupSum (terms : List FVal) : F32 × Raised :=
  if terms.any isNaN then (nan32, quiet)
  else if terms.any (isInf false) && terms.any (isInf true) then (nan32, { nv := true })
  else if terms.any (isInf false) then (inf32 false, quiet)
  else if terms.any (isInf true) then (inf32 true, quiet)
  else
    match maxExp terms with
    | none => (zero32 (terms.all isNegZero), quiet)
    | some e =>
      let s := terms.foldl (fun a v => a + truncUnits (e - 48) v) (0 : Int)
      if s = 0 then (zero32 false, quiet) else roundF32 (decide (s < 0)) s.natAbs (e - 48)

/-! ### Conversions (R75 to R79) -/

/-- Conversion from FP32 to a plain floating-point type or plain INT8 (R75, R76, Table 3-4): the element code. -/
def convertPlain (t : Elem) (sat : Bool) (v : FVal) : Nat × Raised :=
  let sgn (n : Bool) : Nat := if n then 2 ^ (elemWidth t - 1) else 0
  match t with
  | .int8 =>
    match v with
    | .nan => (0, { nv := true })
    | .inf n => (if n then 0x80 else 127, { ofl := true })
    | .fin n m e =>
      let r := roundShift m e
      if n then (if r > 128 then (0x80, { ofl := true }) else ((256 - r) % 256, quiet))
      else (if r > 127 then (127, { ofl := true }) else (r, quiet))
  | t =>
    match v with
    | .nan => (nanCode t, quiet)
    | .inf n =>
      match infCode t with
      | some c => (c + sgn n, quiet)
      | none => if sat then (maxCode t + sgn n, quiet) else (nanCode t, { nv := true })
    | .fin n m e =>
      let c := magCode t m e
      if c ≤ maxCode t then (c + sgn n, quiet)
      else if sat then (maxCode t + sgn n, { ofl := true })
      else match infCode t with
        | some i => (i + sgn n, { ofl := true })
        | none => (nanCode t, { ofl := true })

/-- The exponent emax of R77. -/
def blockEmax : Elem → Int
  | .e4m3 => 8 | .e5m2 => 15 | .e2m1 => 2 | _ => 0

/-- One element of a block quantized under exponent X: always saturating, raising nothing (R77 step 4). -/
def quantElem (t : Elem) (x : Int) (v : FVal) : Nat :=
  match t with
  | .int8 =>
    match v with
    | .fin n m e => let r := min (roundShift m (e + 6 - x)) 127; if n then (256 - r) % 256 else r
    | _ => 0
  | t =>
    match v with
    | .fin n m e => min (magCode t m (e - x)) (maxCode t) + (if n then 2 ^ (elemWidth t - 1) else 0)
    | _ => 0

/-- Conversion of one block of FP32 values to a block format: the scale byte and the element codes (R77). -/
def quantBlock (t : Elem) (vs : List FVal) : Nat × List Nat × Raised :=
  if vs.any (fun v => isNaN v || isInf false v || isInf true v) then
    (0xFF, vs.map (fun _ => 0), { nv := true })
  else
    match maxExp vs with
    | none => (0x7F, vs.map (fun v => quantElem t 0 v), quiet)
    | some m =>
      let x := max (-127) (min 127 (m - blockEmax t))
      ((x + 127).toNat, vs.map (quantElem t x), quiet)

/-- Expansion of an element to FP32: exact, but a value above the largest finite becomes an infinity and raises OF (R79). -/
def expand (v : FVal) : F32 × Raised :=
  match v with
  | .nan => (nan32, quiet)
  | .inf n => (inf32 n, quiet)
  | .fin n m e => roundF32 n m e

/-! ### The vector unit (R80, R81) -/

/-- The exact sum of two finite values: sign, magnitude and exponent, with the sign of a zero sum by IEEE 754 to nearest. -/
def exactAdd (n : Bool) (m : Nat) (e : Int) (n' : Bool) (m' : Nat) (e' : Int) : Bool × Nat × Int :=
  if m = 0 ∧ m' = 0 then (n && n', 0, 0)
  else
    let q := if m = 0 then e' else if m' = 0 then e else min e e'
    let a : Int := (truncShift m (e - q) : Nat)
    let b : Int := (truncShift m' (e' - q) : Nat)
    let s := (if n then -a else a) + (if n' then -b else b)
    (decide (s < 0), s.natAbs, q)

/-- The sum of two exact values, rounded once (R80). -/
def sumRound (x y : FVal) : F32 × Raised :=
  match x, y with
  | .nan, _ => (nan32, quiet)
  | _, .nan => (nan32, quiet)
  | .inf a, .inf b => if a = b then (inf32 a, quiet) else (nan32, { nv := true })
  | .inf a, _ => (inf32 a, quiet)
  | _, .inf b => (inf32 b, quiet)
  | .fin n m e, .fin n' m' e' =>
    let (r, k, q) := exactAdd n m e n' m' e'
    roundF32 r k q

/-- The opposite of a value. -/
def negVal (v : FVal) : FVal :=
  match v with | .nan => .nan | .inf n => .inf (!n) | .fin n m e => .fin (!n) m e

def f32Add (x y : F32) : F32 × Raised := sumRound (f32Value x) (f32Value y)
/-- The exact sum of two BF16 values, rounded once to BF16 (Table 9-8, R75). -/
def sumBf16 (x y : FVal) : Nat :=
  match x, y with
  | .nan, _ => nanCode .bf16
  | _, .nan => nanCode .bf16
  | .inf a, .inf b => if a = b then (convertPlain .bf16 false (.inf a)).1 else nanCode .bf16
  | .inf a, _ => (convertPlain .bf16 false (.inf a)).1
  | _, .inf b => (convertPlain .bf16 false (.inf b)).1
  | .fin n m e, .fin n' m' e' =>
    let (r, k, q) := exactAdd n m e n' m' e'
    (convertPlain .bf16 false (.fin r k q)).1

def f32Sub (x y : F32) : F32 × Raised := sumRound (f32Value x) (negVal (f32Value y))

/-- Product rounded once (R80). -/
def f32Mul (x y : F32) : F32 × Raised :=
  match product (f32Value x) (f32Value y) with
  | (.nan, r) => (nan32, r)
  | (.inf n, r) => (inf32 n, r)
  | (.fin n m e, _) => roundF32 n m e

/-- Fused multiply-add x × y + z, rounded once; a product of zero and infinity raises NV whatever the addend (R80). -/
def f32Fma (x y z : F32) : F32 × Raised :=
  let (p, r) := product (f32Value x) (f32Value y)
  let (v, r') := sumRound p (f32Value z)
  (v, raiseBoth r r')

/-- Whether a value lies strictly below another; both are not NaN. −0 lies below +0 (R81). -/
def f32Key (x : F32) : Int :=
  let m := (x.toNat % 2 ^ 31 : Nat)
  if x.toNat < 2 ^ 31 then (m : Int) else -(m : Int) - 1

/-- Maximum and minimum of R81. -/
def f32Max (x y : F32) : F32 :=
  if isNaN32 x || isNaN32 y then nan32 else if f32Key x < f32Key y then y else x
def f32Min (x y : F32) : F32 :=
  if isNaN32 x || isNaN32 y then nan32 else if f32Key y < f32Key x then y else x

end Sys2Proof.Machine
end

