-- ==== Sys2Proof/Machine/Status.lean ====
section
/-! DEFINITION. Machine/Status.lean: the status codes (Table 14-14). -/

namespace Sys2Proof.Machine

def stDone : Nat := 0x0000
def stDoneLate : Nat := 0x0001
def stBadOpcode : Nat := 0x0101
def stBadLength : Nat := 0x0102
def stBadCrc : Nat := 0x0103
def stAliveRepeat : Nat := 0x0104
def stAliveGap : Nat := 0x0105
def stParamRange : Nat := 0x0201
def stParamAlign : Nat := 0x0202
def stParamConflict : Nat := 0x0203
def stNotPermitted : Nat := 0x0301
def stWrongState : Nat := 0x0302
def stNoSpace : Nat := 0x0401
def stBusy : Nat := 0x0402
def stUncorrectable : Nat := 0x0501
def stOverlong : Nat := 0x0502
def stShort : Nat := 0x0503
def stCheck : Nat := 0x0504
def stPoison : Nat := 0x0505
def stMemberLost : Nat := 0x0601
def stLinkAuth : Nat := 0x0602
def stAborted : Nat := 0x0603
def stSigRsa : Nat := 0x0701
def stSigSlh : Nat := 0x0702
def stRollback : Nat := 0x0703
def stDivergent : Nat := 0x0704
def stBraked : Nat := 0x0801
def stThermal : Nat := 0x0802
def stTimeout : Nat := 0x0901

end Sys2Proof.Machine
end

