-- ==== Sys2Proof/Machine/Codec.lean ====
section
/-! DEFINITION. Machine/Codec.lean: codec blocks as bytes (R224 to R231, R234, R238): headers, code tables, the three
modes, the checks of Table 10-6 and the packer's choice of candidate. Nothing here touches the state. -/

namespace Sys2Proof.Machine

open Sys2Proof

/-! ### The header (Table 10-1) -/

structure Blk where
  magic : Nat
  mode : Nat
  pad : Bool
  format : Nat
  slot : Nat
  tableGen : Nat
  decUnits : Nat
  storedLines : Nat
  encBytes : Nat
  seq : Nat
  expBytes : Nat
  crc : Nat
  deriving DecidableEq, Repr

def blkOf (h : List Byte) : Blk :=
  { magic := fieldAt h 0 2, mode := bits (fieldAt h 2 1) 0 2, pad := bit (fieldAt h 2 1) 2, format := bits (fieldAt h 3 1) 0 4
    slot := bits (fieldAt h 3 1) 4 4, tableGen := fieldAt h 4 2, decUnits := fieldAt h 6 1, storedLines := fieldAt h 7 1
    encBytes := fieldAt h 8 2, seq := fieldAt h 0xA 2, expBytes := fieldAt h 0xC 2, crc := fieldAt h 0x1C 4 }

/-- The header of a block with its check value over the payload (R226). -/
def blkHeader (b : Blk) (payload : List Byte) : List Byte :=
  let h := leBytes b.magic 2 ++ leBytes (b.mode + 4 * b2n b.pad) 1 ++ leBytes (b.format + 16 * b.slot) 1 ++ leBytes b.tableGen 2
    ++ leBytes b.decUnits 1 ++ leBytes b.storedLines 1 ++ leBytes b.encBytes 2 ++ leBytes b.seq 2 ++ leBytes b.expBytes 2
    ++ leBytes 0 14
  h ++ leBytes (crc32c (h ++ payload)) 4

/-- stored_lines (R225). -/
def linesFor (encBytes decUnits : Nat) : Nat := max (ceilDiv (32 + encBytes) 128) (ceilDiv decUnits 4)

/-- Exponent bits, mantissa bits and group of a format in PLANE (Table 10-2). -/
def planeParams (fmt : Nat) : Option (Nat × Nat × Nat) :=
  match fmtElem fmt with
  | some .fp32 => some (8, 23, 1)
  | some .bf16 => some (8, 7, 1)
  | some .fp16 => some (5, 10, 2)
  | some .e4m3 => some (4, 3, 3)
  | some .e5m2 => some (5, 2, 2)
  | some .e2m1 => some (2, 1, 6)
  | _ => none

/-- The alphabet of a table with exponent width w (Table 10-2). -/
def alphabetOf (w : Nat) : Nat := match w with | 2 => 4096 | 4 => 4096 | 5 => 1024 | 8 => 256 | _ => 0

/-- Elements of a block of D bytes (R228); none where D does not hold a whole number of the format's blocks. -/
def planeCount (fmt d : Nat) : Option Nat :=
  let b := match fmtBlock fmt with | some k => k | none => 1
  let sz := match fmtBlock fmt with | some k => k * fmtBits fmt / 8 + 1 | none => fmtBits fmt / 8
  if d % sz = 0 then some (d / sz * b) else none

def align16 (x : Nat) : Nat := ceilDiv x 16 * 16

/-- Starts of the sign plane, mantissa plane and scale array, and the whole payload length (Table 10-3). -/
def planeParts (fmt n m expBytes : Nat) : Nat × Nat × Nat × Nat :=
  let p1 := align16 expBytes
  let p2 := p1 + align16 (ceilDiv n 8)
  let p3 := p2 + align16 (ceilDiv (n * m) 8)
  (p1, p2, p3, p3 + (match fmtBlock fmt with | some k => n / k | none => 0))

/-- The bank of a slot that holds a generation (R231): the active one first. -/
def bankFor (t : TableSlot) (gen : Nat) : Option CodeTable :=
  let has (o : Option CodeTable) : Option CodeTable := match o with | some c => if c.generation = gen then some c else none | none => none
  match has (if t.active then t.bank1 else t.bank0) with
  | some c => some c
  | none => has (if t.active then t.bank0 else t.bank1)

/-- Order 2 of Table 10-6: the header and the conditions of R225. -/
def headerOk (tabs : SMap TableSlot) (h : List Byte) : Bool :=
  let b := blkOf h
  let t := mget TableSlot.reset tabs b.slot
  decide (b.magic = 0xC0DB) && decide (b.mode < 3) && decide (fieldAt h 2 1 < 8) && decide (fieldAt h 0xE 14 = 0)
    && decide (1 ≤ b.decUnits) && decide (b.decUnits ≤ 64) && decide (b.storedLines = linesFor b.encBytes b.decUnits)
    && (b.mode == 0 || decide (b.encBytes ≤ 4064)) && decide (b.format ≠ 0xE) && !(b.pad && b.mode == 1)
    && (if b.mode = 1 then
          match planeParams b.format with
          | none => false
          | some (w, _, _) => (planeCount b.format (128 * b.decUnits)).isSome
              && (match bankFor t b.tableGen with | some c => decide (c.expBits = w) | none => true)
        else decide (b.slot = 0) && decide (b.tableGen = 0) && decide (b.expBytes = 0))

/-! ### Code tables (R230) -/

/-- The symbols of each length 1 to 12 in ascending order, with the first code of that length (R230). -/
def canonical (lengths : List Nat) : List (Nat × Nat × List Nat) :=
  let syms (l : Nat) : List Nat := (lengths.zipIdx.filter (fun e => e.1 == l)).map (·.2)
  ((upto 1 12).foldl (fun (acc : Nat × List (Nat × Nat × List Nat)) l =>
    let s := syms l
    ((acc.1 + s.length) * 2, acc.2 ++ [(l, acc.1, s)])) (0, [])).2

/-- The code of a symbol: length and value; none where it is absent. -/
def codeOf (can : List (Nat × Nat × List Nat)) (sym : Nat) : Option (Nat × Nat) :=
  can.findSome? (fun e => (e.2.2.findIdx? (fun x => x == sym)).map (fun i => (e.1, e.2.1 + i)))

/-- The sum of 2^(12 − length) over present symbols; the limit of R230 is 4,095. -/
def codeSum (lengths : List Nat) : Nat := lengths.foldl (fun a l => if l = 0 then a else a + 2 ^ (12 - l)) 0

/-- The lengths in a code table record. -/
def recordLengths (r : List Byte) (n : Nat) : List Nat :=
  (List.range n).map (fun k => bits (fieldAt r (0x10 + k / 2) 1) (4 * (k % 2)) 4)

/-- The first defect of a record by itself (R230), its status and the offset of the field that fails. -/
def recordDefect (r : List Byte) : Option (Nat × Nat) :=
  let all := recordLengths r 4096
  let a := alphabetOf (fieldAt r 1 1)
  if crc32c (bytesAt r 0 12 ++ bytesAt r 0x10 2048) ≠ fieldAt r 0xC 4 then some (stBadCrc, 0xC)
  else if 15 < fieldAt r 0 1 then some (stParamRange, 0)
  else if a = 0 then some (stParamRange, 1)
  else if fieldAt r 4 8 ≠ 0 then some (stParamRange, 4)
  else if all.any (fun l => decide (12 < l)) || (all.drop a).any (fun l => decide (l ≠ 0)) then some (stParamRange, 0x10)
  else if codeSum (all.take a) = 0 ∨ 4095 < codeSum (all.take a) then some (stParamRange, 0x10)
  else none

/-- The slot that a record names, and the table that it holds. -/
def recordSlot (r : List Byte) : Nat := fieldAt r 0 1
def recordTable (r : List Byte) : CodeTable :=
  { generation := fieldAt r 2 2, expBits := fieldAt r 1 1, lengths := recordLengths r (alphabetOf (fieldAt r 1 1)) }

/-! ### Bit streams -/

/-- The bits of a byte string, bit i being bit i mod 8 of byte i ÷ 8. -/
def bitsOf (bs : List Byte) : List Bool := bs.flatMap (fun b => (List.range 8).map (fun i => b.toNat.testBit i))

/-- A byte string from bits; the last byte is filled with `fill`. -/
def bytesOfBits (fill : Bool) : Nat → List Bool → List Byte
  | 0, _ => []
  | fuel + 1, l =>
    if l.isEmpty then []
    else
      let c := l.take 8 ++ List.replicate (8 - l.length) fill
      BitVec.ofNat 8 (c.zipIdx.foldl (fun a e => a + b2n e.1 * 2 ^ e.2) 0) :: bytesOfBits fill fuel (l.drop 8)

def natOfBits (l : List Bool) : Nat := l.zipIdx.foldl (fun a e => a + b2n e.1 * 2 ^ e.2) 0

/-- How reading a code ends (R228). -/
inductive CodeRead where
  | sym (s : Nat) (rest : List Bool) | noCode | short
  deriving DecidableEq, Repr

/-- Whether a value of `len` bits is a proper prefix of some code. -/
def isPrefix (can : List (Nat × Nat × List Nat)) (len v : Nat) : Bool :=
  can.any (fun e => decide (len < e.1) && !e.2.2.isEmpty
    && decide (e.2.1 / 2 ^ (e.1 - len) ≤ v) && decide (v ≤ (e.2.1 + e.2.2.length - 1) / 2 ^ (e.1 - len)))

/-- Reads one code: the most significant code bit comes first. -/
def nextCode (can : List (Nat × Nat × List Nat)) : Nat → Nat → List Bool → CodeRead
  | _, _, [] => .short
  | len, v, b :: t =>
    let v' := 2 * v + b2n b
    match can.findSome? (fun e => if e.1 = len + 1 ∧ e.2.1 ≤ v' then e.2.2[v' - e.2.1]? else none) with
    | some s => .sym s t
    | none => if isPrefix can (len + 1) v' then nextCode can (len + 1) v' t else .noCode

/-- The symbols of an exponent stream: a status, 0 when all `s` symbols were read and only padding is left. -/
def readSyms (can : List (Nat × Nat × List Nat)) : Nat → List Bool → Nat × List Nat
  | 0, l => (if 7 < l.length || l.any (fun b => !b) then stOverlong else 0, [])
  | s + 1, l =>
    match nextCode can 0 0 l with
    | .noCode => (stCheck, [])
    | .short => (stShort, [])
    | .sym x t => let (st, r) := readSyms can s t; (st, x :: r)

/-! ### The modes -/

/-- ZRUN (R229): tokens until the payload ends; the decoded bytes so far, or a status. -/
def zrunDecode : Nat → List Byte → Nat → Nat × List Byte
  | 0, _, _ => (0, [])
  | fuel + 1, l, room =>
    match l with
    | [] => (0, [])
    | c :: t =>
      let n := 2 * (bits c.toNat 0 7 + 1)
      if room < n then (stOverlong, [])
      else if bit c.toNat 7 then
        let (st, r) := zrunDecode fuel t (room - n)
        (st, List.replicate n 0 ++ r)
      else if t.length < n then (stShort, [])
      else
        let (st, r) := zrunDecode fuel (t.drop n) (room - n)
        (st, t.take n ++ r)

/-- Element values packed little-endian: whole bytes, or two E2M1 elements to a byte (R64). -/
def packElems (width : Nat) (l : List Nat) : List Byte := bytesOfBits false (l.length * width) (l.flatMap (fun x => (List.range width).map (fun i => x.testBit i)))

/-- The elements of an element array. -/
def takeElems (width n : Nat) (bs : List Byte) : List Nat :=
  if width = 4 then (List.range n).map (fun i => bits (fieldAt bs (i / 2) 1) (4 * (i % 2)) 4)
  else (List.range n).map (fun i => fieldAt bs (i * (width / 8)) (width / 8))

/-- PLANE (R228): the decoded bytes, or a status. -/
def planeDecode (c : CodeTable) (b : Blk) (payload : List Byte) : Nat × List Byte :=
  match planeParams b.format, planeCount b.format (128 * b.decUnits) with
  | some (w, m, g), some n =>
    let (p1, p2, p3, whole) := planeParts b.format n m b.expBytes
    if whole < b.encBytes then (stOverlong, [])
    else if b.encBytes < whole then (stShort, [])
    else
      let (st, syms) := readSyms (canonical c.lengths) (ceilDiv n g) (bitsOf (payload.take b.expBytes))
      if st ≠ 0 then (st, [])
      else
        let es := (syms.flatMap (fun x => (List.range g).map (fun k => bits x (w * k) w))).take n
        let signs := bitsOf ((payload.drop p1).take (ceilDiv n 8))
        let ms := bitsOf ((payload.drop p2).take (ceilDiv (n * m) 8))
        let vals := es.zipIdx.map (fun e => b2n (signs.getD e.2 false) * 2 ^ (w + m) + e.1 * 2 ^ m + natOfBits ((ms.drop (e.2 * m)).take m))
        (0, packElems (1 + w + m) vals ++ payload.drop p3)
  | _, _ => (stCheck, [])

/-- Order 5 of Table 10-6: the decoded bytes, without what pad leaves out, or a status. -/
def decodePayload (tabs : SMap TableSlot) (b : Blk) (payload : List Byte) : Nat × List Byte :=
  let d := 128 * b.decUnits
  match b.mode with
  | 0 => if d < b.encBytes then (stOverlong, []) else if b.encBytes < d ∧ !b.pad then (stShort, []) else (0, payload)
  | 1 => match bankFor (mget TableSlot.reset tabs b.slot) b.tableGen with | some c => planeDecode c b payload | none => (stCheck, [])
  | _ =>
    let (st, bs) := zrunDecode (payload.length + 1) payload d
    if st ≠ 0 then (st, []) else if bs.length < d ∧ !b.pad then (stShort, []) else (0, bs)

/-- Order 4 of Table 10-6: the status of a sequence value that does not follow the one before. -/
def seqDefect (seq : Nat) : Option Nat → Option Nat
  | some p => if seq = p then some stAliveRepeat else if seq = (p + 1) % 65536 then none else some stAliveGap
  | none => none

/-- Whether a block passes order 6. -/
def crcHolds (h payload : List Byte) : Bool := decide (crc32c (h.take 0x1C ++ payload) = (blkOf h).crc)

/-- Whether a block is a table miss (R231). -/
def isMiss (tabs : SMap TableSlot) (h : List Byte) : Bool :=
  let b := blkOf h
  b.mode == 1 && (bankFor (mget TableSlot.reset tabs b.slot) b.tableGen).isNone

/-- Orders 3 to 6 of Table 10-6, order 4 where a previous sequence value is given: a status, 0 with the decoded bytes when
every check passes. -/
def decodeBody (tabs : SMap TableSlot) (h payload : List Byte) (prev : Option Nat) : Nat × List Byte :=
  let b := blkOf h
  if isMiss tabs h then (stCheck, [])
  else
    match seqDefect b.seq prev with
    | some st => (st, [])
    | none =>
      let (st, bs) := decodePayload tabs b payload
      if st ≠ 0 then (st, [])
      else if !crcHolds h payload then (stCheck, [])
      else (0, bytesAt bs 0 (128 * b.decUnits))

/-- What a lane may have written of a block before its check value failed (R232): nothing of a block that an earlier check stops. -/
def draftOf (tabs : SMap TableSlot) (h payload : List Byte) (prev : Option Nat) : List Byte :=
  let b := blkOf h
  let (st, bs) := decodePayload tabs b payload
  if isMiss tabs h || (seqDefect b.seq prev).isSome || decide (st ≠ 0) || crcHolds h payload then [] else bytesAt bs 0 (128 * b.decUnits)

/-- The payload of a whole block. -/
def payloadOf (bs : List Byte) : List Byte := (bs.drop 32).take (blkOf bs).encBytes

/-! ### The packer's candidates (R238) -/

/-- What the packer is asked for a block. -/
structure PackReq where
  modeReq : Nat
  format : Nat
  slot : Nat
  padOk : Bool
  decUnits : Nat
  seq : Nat
  deriving DecidableEq, Repr

/-- A candidate: mode, pad, payload, exponent bytes and table generation. -/
structure Cand where
  mode : Nat
  pad : Bool
  payload : List Byte
  expBytes : Nat
  gen : Nat
  deriving DecidableEq, Repr

def trailingZeros (bs : List Byte) : Nat := (bs.reverse.takeWhile (fun b => b == 0)).length

/-- RAW: always a candidate; with pad_ok trailing zero bytes go in whole 16 B units. -/
def rawCand (p : PackReq) (bs : List Byte) : Cand :=
  let cut := if p.padOk then trailingZeros bs / 16 * 16 else 0
  { mode := 0, pad := decide (cut ≠ 0), payload := bs.take (bs.length - cut), expBytes := 0, gen := 0 }

/-- The units of a byte string, and the longest run of zero or non-zero units at its head. -/
def headRun (zero : Bool) : List (Byte × Byte) → Nat
  | [] => 0
  | u :: t => if (u.1 == 0 && u.2 == 0) == zero then headRun zero t + 1 else 0

def unitsOf : List Byte → List (Byte × Byte)
  | a :: b :: t => (a, b) :: unitsOf t
  | _ => []

/-- The tokens of ZRUN: runs as long as possible, of at most 128 units; a final zero run may be left out. -/
def zrunTokens (omitLast : Bool) : Nat → List (Byte × Byte) → List Byte
  | 0, _ => []
  | fuel + 1, l =>
    if l.isEmpty then []
    else
      let z := headRun true l
      if z ≠ 0 then
        if omitLast && decide (z = l.length) then []
        else let n := min z 128; BitVec.ofNat 8 (0x80 + (n - 1)) :: zrunTokens omitLast fuel (l.drop n)
      else
        let n := min (headRun false l) 128
        BitVec.ofNat 8 (n - 1) :: ((l.take n).flatMap (fun u => [u.1, u.2]) ++ zrunTokens omitLast fuel (l.drop n))

def zrunCand (p : PackReq) (bs : List Byte) : Option Cand :=
  let us := unitsOf bs
  let last := p.padOk && decide ((us.reverse.takeWhile (fun u => u.1 == 0 && u.2 == 0)).length ≠ 0)
  let t := zrunTokens last (us.length + 1) us
  if (p.modeReq = 0 ∨ p.modeReq = 3) ∧ t.length ≤ 4064 then some { mode := 2, pad := last, payload := t, expBytes := 0, gen := 0 } else none

/-- Groups of exponents as symbols (R228). -/
def symbols (w g : Nat) : Nat → List Nat → List Nat
  | 0, _ => []
  | fuel + 1, l => if l.isEmpty then [] else ((l.take g).zipIdx.foldl (fun a e => a + e.1 * 2 ^ (w * e.2)) 0) :: symbols w g fuel (l.drop g)

def planeCand (p : PackReq) (table : Option CodeTable) (bs : List Byte) : Option Cand :=
  match planeParams p.format, planeCount p.format (128 * p.decUnits), table with
  | some (w, m, g), some n, some c =>
    if (p.modeReq = 0 ∨ p.modeReq = 2) ∧ c.expBits = w then
      let width := 1 + w + m
      let es := takeElems width n bs
      let can := canonical c.lengths
      let codes := (symbols w g (n + 1) (es.map (fun x => bits x m w))).map (codeOf can)
      if codes.any (fun o => o.isNone) then none
      else
        let stream := codes.flatMap (fun o => match o with | some (l, v) => (List.range l).map (fun i => v.testBit (l - 1 - i)) | none => [])
        let expB := bytesOfBits true (stream.length + 1) stream
        let (p1, p2, p3, whole) := planeParts p.format n m expB.length
        if whole ≤ 4064 then
          let signs := bytesOfBits false (n + 1) (es.map (fun x => x.testBit (w + m)))
          let mants := bytesOfBits false (n * m + 1) (es.flatMap (fun x => (List.range m).map (fun i => x.testBit i)))
          some { mode := 1, pad := false, expBytes := expB.length, gen := c.generation
                 payload := bytesAt expB 0 p1 ++ bytesAt signs 0 (p2 - p1) ++ bytesAt mants 0 (p3 - p2) ++ bs.drop (n * width / 8) }
        else none
    else none
  | _, _, _ => none

/-- The stored lines of a candidate. -/
def candLines (p : PackReq) (c : Cand) : Nat := linesFor c.payload.length p.decUnits

/-- The candidate with the fewest stored lines, ties to RAW, PLANE, ZRUN in this order. -/
def bestCand (p : PackReq) (table : Option CodeTable) (bs : List Byte) : Cand :=
  ([planeCand p table bs, zrunCand p bs].filterMap (fun o => o)).foldl
    (fun b c => if candLines p c < candLines p b then c else b) (rawCand p bs)

/-- The stored block of a candidate: header, payload and zero filler. -/
def blockBytes (p : PackReq) (c : Cand) : List Byte :=
  let b : Blk := { magic := 0xC0DB, mode := c.mode, pad := c.pad, format := p.format, slot := if c.mode = 1 then p.slot else 0
                   tableGen := c.gen, decUnits := p.decUnits, storedLines := candLines p c, encBytes := c.payload.length
                   seq := p.seq % 65536, expBytes := c.expBytes, crc := 0 }
  bytesAt (blkHeader b c.payload ++ c.payload) 0 (128 * candLines p c)

end Sys2Proof.Machine
end

