-- ==== Sys2Proof/Config.lean ====
section
/-! DEFINITION. Config.lean: the free values of the model. Each is a constant without a body: nothing can be proved of
its value, so a statement about a result that uses one holds for every value it may have (log entries named beside each). -/

namespace Sys2Proof.Config

open Sys2Proof

/-- The bits of exp2 inside the interval R112 allows, a fixed function of the input bits (R116). Log entry 10. -/
opaque exp2Pick : F32 → Nat
/-- The bits of log2 inside the interval R113 allows, a fixed function of the input bits (R116). Log entry 10. -/
opaque log2Pick : F32 → Nat
/-- Whether an operation in progress has yet to raise its flags when a MOVE FLAGS takes them (R101). Log entry 72. -/
opaque flagLater : Nat → Bool
/-- The byte found at a scratchpad offset that is neither live nor resident at switch-in (Table 7-11):
true keeps what the context left, false gives zero. Log entry 13. -/
opaque keepsOffset : Nat → Bool
/-- Which of the two outcomes of R212 a line takes that the caldera held dirty while class B wrote it:
true keeps the caldera's data. Log entry 14. -/
opaque dirtyWins : Nat → Bool
/-- The power estimate of a domain at one of its points, in watts, before the gain of R398.
Arguments: domain index of Table 17-2, point, activity counters, hottest temperature. Log entry 15. -/
opaque powerEst : Nat → Nat → List Nat → Int → Nat
/-- The ceiling of a domain in a frame (Table 17-8), of which only its upper bound is stated (R394).
Arguments: the use counter, domain index. Log entry 15. -/
opaque powerCeiling : Nat → Nat → Nat
/-- The two AES-256 keys of a memory key that the random source gave (R367). Argument: the number of the draw. Log entry 16. -/
opaque memoryKey : Nat → Nat × Nat
/-- RSA-3072 PSS signature bytes under the identity key (R379, R380). Log entry 16. -/
opaque rsaSigByte : List Byte → Nat → Byte
/-- SLH-DSA-SHA2-128s signature bytes under the identity key (R379, R381). Log entry 16. -/
opaque slhSigByte : List Byte → Nat → Byte
/-- The key that OAEP and GCM decoding of a key blob yields, or none when one of them fails (R368). Log entry 16. -/
opaque blobKey : List Byte → Option (Nat × Nat)
/-- Draws of the random source: memory keys, link epochs (R287, R367). Argument: the use counter. Log entry 16. -/
opaque randomDraw : Nat → Nat
/-- The certificate chains the responder returns (R380, R381). Arguments: chain 0 RSA or 1 SLH-DSA, byte index. Log entry 16. -/
opaque certByte : Nat → Nat → Byte
/-- Length in bytes of a certificate chain (R380, R381). Log entry 16. -/
opaque certLength : Nat → Nat
/-- Whether an image's RSA signature verifies (R375). Log entry 16. -/
opaque rsaVerifies : List Byte → Bool
/-- Whether an image's SLH-DSA signature verifies (R375). Log entry 16. -/
opaque slhVerifies : List Byte → Bool
/-- Byte i of the SHA-384 digest of the mask ROM (Table 16-11). Log entry 16. -/
opaque romDigest : Nat → Byte
/-- The responder's ephemeral exchange data of KEY_EXCHANGE (R380). Arguments: the use counter, byte index. Log entry 16. -/
opaque exchangeByte : Nat → Nat → Byte
/-- The rank to which a rank is attached in the relay tree of an epoch (R301). Arguments: epoch, members, what is known of their
reach (rank, mask), rank. Log entry 25. -/
opaque treeParent : Nat → List Nat → List (Nat × Nat) → Nat → Nat
/-- Whether the host answers an ATS request with a translation (R321). Arguments: the use counter, the time, the 4 KiB page. Log entry 69. -/
opaque atsAnswers : Nat → Nat → Nat → Bool
/-- What a link-control flit asks for: true the narrower width (R293). Argument: its payload. Log entry 24. -/
opaque narrowWish : List Byte → Bool
/-- The payload of a link-control flit that asks for a width (R293). Arguments: whether it is the narrower one, byte index. Log entry 24. -/
opaque narrowByte : Bool → Nat → Byte
/-- Whether an access of a transfer that need not wait is performed in a step (R251, R255): true performs it. Argument: the use counter.
Log entry 62. -/
opaque performed : Nat → Bool
/-- Module serial number and other identity fixed at manufacture (R352). Log entry 17. -/
opaque serialNumber : BitVec 64
/-- Byte i of the SHA-384 fingerprint of the module identity key (R352). Log entry 17. -/
opaque identityByte : Nat → Byte
/-- The firmware version of the management microcontroller (R463). Log entry 17. -/
opaque mcVersion : Byte
/-- Sewazel's MIPI manufacturer identifier (R463). Log entry 17. -/
opaque mipiManufacturer : Nat
/-- The number of fed rows that a READ without a fence reflects (R125). Log entry 11. -/
opaque drainPrefix : Nat → Nat
/-- The part class and the part number that a SPARE_USED event gives (Table 14-16): the row of Table 1-8, and the unit.
The spec does not code them. Log entry 19. -/
opaque partClass : Nat → Byte
opaque partNumber : Nat → Nat → Nat
/-- The KV pages of a page row of a session: every layer, head and kind of a model (R272). Argument: the model_id. Log entry 21. -/
opaque pagesPerRow : Nat → Nat
/-- Whether the page at a place of a page row holds V (Table 12-9). Arguments: the model_id, the place. Log entry 21. -/
opaque pageIsV : Nat → Nat → Bool
/-- Tokens that the gating tiles wrote to the overflow list of a row's layer, and the layer's place in section 5 (R277).
Argument: the use counter. Log entry 22. -/
opaque overflowTokens : Nat → Nat
opaque overflowLayer : Nat → Nat
/-- Whether a layer of a model is a known one (R276): the spec does not say where an image names its layers. Arguments: the model_id, the
layer. Log entry 60. -/
opaque layerKnown : Nat → Nat → Bool
/-- The outcome of a draw where the spec lists outcomes and gives no rule (use counter). Log entry 18. -/
opaque pick : Nat → Nat

end Sys2Proof.Config
end

