-- ==== Sys2Proof/Machine/Aes.lean ====
section
/-! DEFINITION. Machine/Aes.lean: AES-256, and its two modes that the spec names: XTS for memory lines (R198; IEEE Std 1619) and
GCM for dumps and link records (R294, R370) (PRESUMED, log entry 16). -/

namespace Sys2Proof.Machine

open Sys2Proof

/-! ### The block cipher (FIPS 197) -/

/-- The substitution and its inverse: byte x stands at bits [8 x + 7 : 8 x]. -/
def aesSubTable : Nat :=
  0x16BB54B00F2D99416842E6BF0D89A18CDF2855CEE9871E9B948ED9691198F8E19E1DC186B95735610EF6034866B53E708A8BBD4B1F74DDE8C6B4A61C2E2578BA08AE7A65EAF4566CA94ED58D6D37C8E779E4959162ACD3C25C2406490A3A32E0DB0B5EDE14B8EE4688902A22DC4F816073195D643D7EA7C41744975FEC130CCDD2F3FF1021DAB6BCF5389D928F40A351A89F3C507F02F94585334D43FBAAEFD0CF584C4A39BECB6A5BB1FC20ED00D153842FE329B3D63B52A05A6E1B1A2C830975B227EBE28012079A059618C323C7041531D871F1E5A534CCF73F362693FDB7C072A49CAFA2D4ADF04759FA7DC982CA76ABD7FE2B670130C56F6BF27B777C63
def aesInvTable : Nat :=
  0x7D0C2155631469E126D677BA7E042B17619953833CBBEBC8B0F52AAE4D3BE0A0EF9CC9939F7AE52D0D4AB519A97F51605FEC8027591012B131C7078833A8DD1FF45ACD78FEC0DB9A2079D2C64B3E56FC1BBE18AA0E62B76F89C5291D711AF1476EDF751CE837F9E28535ADE72274AC9673E6B4F0CECFF297EADC674F4111913A6B8A130103BDAFC1020F3FCA8F1E2CD00645B3B80558E4F70AD3BC8C00ABD890849D8DA75746155EDAB9EDFD5048706C92B6655DCC5CA4D41698688664F6F87225D18B6D49A25B76B224D92866A12E084EC3FA420B954CEE3D23C2A632947B54CBE9DEC444438E3487FF2F9B8239E37CFBD7F3819EA340BF38A53630D56A0952
def aesSub (x : Nat) : Nat := bits aesSubTable (8 * x) 8
def aesInv (x : Nat) : Nat := bits aesInvTable (8 * x) 8

/-- Multiplication by x, and by a small number, in the field of AES. -/
def aesTwice (x : Nat) : Nat := if x < 128 then 2 * x else (2 * x) ^^^ 0x11B
def aesTimes (k x : Nat) : Nat :=
  let x2 := aesTwice x
  let x4 := aesTwice x2
  (if bit k 0 then x else 0) ^^^ (if bit k 1 then x2 else 0) ^^^ (if bit k 2 then x4 else 0) ^^^ (if bit k 3 then aesTwice x4 else 0)

/-- A block is a list of sixteen bytes as numbers, column by column. -/
def aesShift (b : List Nat) : List Nat := (List.range 16).map (fun i => b.getD ((i + 4 * (i % 4)) % 16) 0)
def aesUnshift (b : List Nat) : List Nat := (List.range 16).map (fun i => b.getD ((i + 12 * (i % 4)) % 16) 0)

/-- A column mixed with the four factors of its first byte. -/
def aesMixCol (f : List Nat) (c : List Nat) : List Nat :=
  (List.range 4).map (fun i => (List.range 4).foldl (fun a j => a ^^^ aesTimes (f.getD ((j + 4 - i) % 4) 0) (c.getD j 0)) 0)
def aesMix (f : List Nat) (b : List Nat) : List Nat := (List.range 4).flatMap (fun k => aesMixCol f ((b.drop (4 * k)).take 4))

def aesXor (a b : List Nat) : List Nat := List.zipWith (· ^^^ ·) a b

/-- The next word of the key schedule: `ws` are the eight before it, `i` its number. -/
def aesNextWord (i : Nat) (ws : List (List Nat)) : List Nat :=
  let t := ws.getD 7 []
  let u :=
    if i % 8 = 0 then aesXor ((t.drop 1 ++ t.take 1).map aesSub) [2 ^ (i / 8 - 1), 0, 0, 0]
    else if i % 8 = 4 then t.map aesSub
    else t
  aesXor (ws.getD 0 []) u

/-- The words of the schedule after the key's eight. -/
def aesExpand : Nat → Nat → List (List Nat) → List (List Nat)
  | 0, _, _ => []
  | n + 1, i, ws => let w := aesNextWord i ws; w :: aesExpand n (i + 1) (ws.drop 1 ++ [w])

/-- The fifteen round keys of a key of 32 bytes. -/
def aesKeys (key : List Nat) : List (List Nat) :=
  let ws := (List.range 8).map (fun i => (key.drop (4 * i)).take 4)
  let all := ws ++ aesExpand 52 8 ws
  (List.range 15).map (fun r => ((all.drop (4 * r)).take 4).flatten)

/-- The rounds of encryption: the last one does not mix. -/
def aesRounds : List (List Nat) → List Nat → List Nat
  | [], b => b
  | [k], b => aesXor (aesShift (b.map aesSub)) k
  | k :: ks, b => aesRounds ks (aesXor (aesMix [2, 3, 1, 1] (aesShift (b.map aesSub))) k)

/-- The rounds of decryption, round keys last first. -/
def aesUnrounds : List (List Nat) → List Nat → List Nat
  | [], b => b
  | [k], b => aesXor ((aesUnshift b).map aesInv) k
  | k :: ks, b => aesUnrounds ks (aesMix [14, 11, 13, 9] (aesXor ((aesUnshift b).map aesInv) k))

/-- AES-256 of a block under round keys. -/
def aesEnc (ks : List (List Nat)) (b : List Nat) : List Nat := aesRounds (ks.drop 1) (aesXor b (ks.headD []))
def aesDec (ks : List (List Nat)) (b : List Nat) : List Nat :=
  let r := ks.reverse
  aesUnrounds (r.drop 1) (aesXor b (r.headD []))

/-- Byte strings and blocks. -/
def toBlock (bs : List Byte) : List Nat := bs.map (·.toNat)
def ofBlock (b : List Nat) : List Byte := b.map (BitVec.ofNat 8)
def aesKeyOf (k : Nat) : List (List Nat) := aesKeys (toBlock (leBytes k 32))

/-! ### XTS (R198) -/

/-- The tweaks of the blocks of a data unit: each is the one before it times α. -/
def xtsNext (t : Nat) : Nat := (2 * t) % 2 ^ 128 ^^^ (if bit t 127 then 0x87 else 0)

/-- The blocks of a line under a cipher and a first tweak, in ascending address order. -/
def xtsBlocks (f : List Nat → List Nat) : Nat → Nat → List Byte → List Byte
  | 0, _, _ => []
  | n + 1, t, bs =>
    let w := toBlock (leBytes t 16)
    ofBlock (aesXor (f (aesXor (toBlock (bytesAt bs 0 16)) w)) w) ++ xtsBlocks f n (xtsNext t) (bs.drop 16)

/-- The first tweak of a line: its address under the second key. -/
def xtsTweak (key2 addr : Nat) : Nat := leNat (ofBlock (aesEnc (aesKeyOf key2) (toBlock (leBytes addr 16))))

/-- XTS-AES-256 of a line of 128 bytes: the key is the cipher's key and the tweak's. -/
@[irreducible] def xtsEncrypt (key : Nat × Nat) (addr : Nat) (line : List Byte) : List Byte :=
  xtsBlocks (aesEnc (aesKeyOf key.1)) 8 (xtsTweak key.2 addr) line
@[irreducible] def xtsDecrypt (key : Nat × Nat) (addr : Nat) (line : List Byte) : List Byte :=
  xtsBlocks (aesDec (aesKeyOf key.1)) 8 (xtsTweak key.2 addr) line

/-! ### GCM (NIST SP 800-38D) -/

/-- The product in GCM's field, whose blocks hold the coefficient of x^0 in their first bit. -/
def gcmMulBit : Nat → Nat → Nat → Nat → Nat
  | 0, _, _, z => z
  | n + 1, x, v, z => gcmMulBit n x (v / 2 ^^^ (if v % 2 = 1 then 0xE1000000000000000000000000000000 else 0)) (if bit x n then z ^^^ v else z)
def gcmMul (x y : Nat) : Nat := gcmMulBit 128 x y 0

/-- A string in blocks of sixteen bytes, the last one filled with zeros. -/
def gcmPad (bs : List Byte) : List Nat := (List.range ((bs.length + 15) / 16)).map (fun i => beNat (bytesAt bs (16 * i) 16))

/-- The check of associated data and ciphertext under the hash key. -/
def gcmHash (h : Nat) (aad cipher : List Byte) : Nat :=
  (gcmPad aad ++ gcmPad cipher ++ [8 * aad.length * 2 ^ 64 + 8 * cipher.length]).foldl (fun y b => gcmMul (y ^^^ b) h) 0

/-- The key stream of a nonce of 12 bytes from block `i` on. -/
def gcmStream (ks : List (List Nat)) (nonce : List Byte) : Nat → Nat → List Byte
  | 0, _ => []
  | n + 1, i => ofBlock (aesEnc ks (toBlock (nonce ++ beBytes i 4))) ++ gcmStream ks nonce n (i + 1)

/-- The bytes of two strings added bit by bit. -/
def xorBytes (a b : List Byte) : List Byte := List.zipWith (· ^^^ ·) a b

/-- AES-256-GCM: the ciphertext, and the tag of 16 bytes. -/
@[irreducible] def gcmSeal (key : Nat) (nonce aad plain : List Byte) : List Byte × List Byte :=
  let ks := aesKeyOf key
  let cipher := xorBytes plain (gcmStream ks nonce ((plain.length + 15) / 16) 2)
  let h := beNat (ofBlock (aesEnc ks (List.replicate 16 0)))
  (cipher, xorBytes (beBytes (gcmHash h aad cipher) 16) (gcmStream ks nonce 1 1))

end Sys2Proof.Machine
end

