-- ==== Sys2Proof/Machine/Ecc.lean ====
section
/-! DEFINITION. Machine/Ecc.lean: the Reed–Solomon code of a stored line (R200) and its poison pattern (R201). The code
is linear, so a stored word is told apart from a codeword by the difference alone: a list of positions 0 to 143 with
the byte each differs by. -/

namespace Sys2Proof.Machine

open Sys2Proof

/-- Multiplication by α in GF(2^8) with field polynomial 0x11D (R200). -/
def gfTimesAlpha (x : Nat) : Nat := if x < 128 then 2 * x else (2 * x) ^^^ 0x11D

/-- x × α^n. -/
def gfShift (x : Nat) : Nat → Nat
  | 0 => x
  | n + 1 => gfTimesAlpha (gfShift x n)

/-- The syndromes of a difference: S_i = Σ e_k α^(i (143 − k)) for i from 0 to 15 (R200). -/
def syndromes (d : List (Nat × Byte)) : List Nat :=
  (List.range 16).map (fun i => d.foldl (fun a e => a ^^^ gfShift e.2.toNat ((i * (143 - e.1)) % 255)) 0)

/-- The poison pattern: 0x5A on each of the sixteen check bytes (R201). -/
def poisonPattern : List (Nat × Byte) := (List.range 16).map (fun k => (128 + k, 0x5A))

/-- Adds a difference to another, symbol by symbol; symbols that cancel are dropped. -/
def xorPattern (a b : List (Nat × Byte)) : List (Nat × Byte) :=
  b.foldl (fun m e => mmod 0 m e.1 (fun x => x ^^^ e.2)) a

/-! ### The decoder: the pattern of up to 4 symbols that has given syndromes -/

/-- The product in GF(2^8), and the inverse x^254. -/
def gfMulFrom : Nat → Nat → Nat → Nat
  | 0, _, _ => 0
  | n + 1, x, y => (if y % 2 = 1 then x else 0) ^^^ gfMulFrom n (gfTimesAlpha x) (y / 2)
def gfMul (x y : Nat) : Nat := gfMulFrom 8 x y
def gfPow (x : Nat) : Nat → Nat
  | 0 => 1
  | n + 1 => gfMul x (gfPow x n)
def gfInv (x : Nat) : Nat := gfPow x 254

/-- A polynomial, lowest coefficient first: its value, and the sum of one with another times x^m and a factor. -/
def polyAt (p : List Nat) (x : Nat) : Nat := p.foldr (fun c a => c ^^^ gfMul a x) 0
def polyAdd (p q : List Nat) (m f : Nat) : List Nat :=
  (List.range (max p.length (q.length + m))).map (fun i => p.getD i 0 ^^^ (if i < m then 0 else gfMul f (q.getD (i - m) 0)))

/-- The search for the shortest locator polynomial (Berlekamp and Massey): the locator, the last one that failed with its
discrepancy, the length, and the steps since. -/
structure Locator where
  c : List Nat := [1]
  b : List Nat := [1]
  l : Nat := 0
  m : Nat := 1
  d : Nat := 1

def locatorStep (syn : List Nat) (x : Locator) (n : Nat) : Locator :=
  let d := (List.range (x.l + 1)).foldl (fun a i => a ^^^ gfMul (x.c.getD i 0) (syn.getD (n - i) 0)) 0
  if d = 0 then { x with m := x.m + 1 }
  else
    let c := polyAdd x.c x.b x.m (gfMul d (gfInv x.d))
    if 2 * x.l ≤ n then { c := c, b := x.c, l := n + 1 - x.l, m := 1, d := d } else { x with c := c, m := x.m + 1 }

/-- The symbols that a locator names, each with the difference that the syndromes give it (Forney). -/
def locatorSymbols (syn : List Nat) (x : Locator) : List (Nat × Byte) :=
  let inv (k : Nat) : Nat := gfShift 1 (112 + k)
  let omega := (List.range 16).map (fun n => (List.range (n + 1)).foldl (fun a i => a ^^^ gfMul (x.c.getD i 0) (syn.getD (n - i) 0)) 0)
  let slope := (List.range x.c.length).map (fun i => if i % 2 = 0 then x.c.getD (i + 1) 0 else 0)
  ((List.range 144).filter (fun k => polyAt x.c (inv k) == 0)).map (fun k =>
    (k, BitVec.ofNat 8 (gfMul (gfShift 1 (143 - k)) (gfMul (polyAt omega (inv k)) (gfInv (polyAt slope (inv k)))))))

/-- The one pattern of up to 4 symbols with the given syndromes, if there is one. -/
def nearest (syn : List Nat) : Option (List (Nat × Byte)) :=
  let x := (List.range 16).foldl (locatorStep syn) {}
  let p := locatorSymbols syn x
  if x.l ≤ 4 ∧ p.length = x.l ∧ syndromes p = syn then some p else none

/-- What the decoder makes of a difference (R200, R201): how many symbols it corrects, none for a codeword, and the difference
that is left, which is none unless the line was miscorrected. -/
inductive EccResult where
  | poison | uncorrectable
  | decoded (symbols : Nat) (left : List (Nat × Byte))
  deriving DecidableEq, Repr

/-- The decoder: the poison test first, then up to 4 symbols corrected, 5 to 8 detected. A difference of more symbols is
taken for the nearest pattern of up to 4 where there is one, which makes of the line another codeword, and is detected where
there is none (R200) (DEDUCED, log entry 12). -/
def eccDecode (d : List (Nat × Byte)) : EccResult :=
  let s := syndromes d
  if s = syndromes poisonPattern then .poison
  else if d.length ≤ 4 then .decoded d.length []
  else if d.length ≤ 8 then .uncorrectable
  else match nearest s with
    | some p => .decoded p.length (xorPattern d p)
    | none => .uncorrectable

end Sys2Proof.Machine
end

