-- ==== Sys2Proof/Machine/Image.lean ====
section
/-! DEFINITION. Machine/Image.lean: reading a schedule image (R40, R43, R44, R89, R149): sections, layout block, buckets,
rows and tiles. Nothing here checks an image; the checks of SCHED_LOAD stand in Machine/ImageCheck.lean. -/

namespace Sys2Proof.Machine

open Sys2Proof

/-- Offset and length of section `n` in the directory (R40). -/
def secOff (img : List Byte) (n : Nat) : Nat := fieldAt img (0x28 + 16 * n) 6
def secLen (img : List Byte) (n : Nat) : Nat := fieldAt img (0x2E + 16 * n) 6
def secCrc (img : List Byte) (n : Nat) : Nat := fieldAt img (0x34 + 16 * n) 4

/-- The bytes of section `n`. -/
def section_ (img : List Byte) (n : Nat) : List Byte := (img.drop (secOff img n)).take (secLen img n)

/-- Header fields (Table 2-2). -/
def imgBytes (img : List Byte) : Nat := fieldAt img 0x08 8
def imgMinPeriod (img : List Byte) : Nat := fieldAt img 0x10 1
def imgPoint (img : List Byte) : Nat := fieldAt img 0x11 1
def imgBuckets (img : List Byte) : Nat := fieldAt img 0x12 2
def imgFlags (img : List Byte) : Nat := fieldAt img 0x14 4
def imgModel (img : List Byte) : Nat := fieldAt img 0x18 8
def imgGeneration (img : List Byte) : Nat := fieldAt img 0x20 2

/-- Region `r` of a layout block (Table 7-2); `lay` starts at the layout block. -/
def regionAt (lay : List Byte) (r : Nat) : Region :=
  let e := lay.drop (32 * r)
  let f := fieldAt e 8 2
  { valid := bit f 0, double := bit f 1, live := bit f 2, resident := bit f 3, scrub := bit f 4
    winWrite := bit f 5, winRead := bit f 6, base := fieldAt e 0 4, halfBytes := fieldAt e 4 4, source := fieldAt e 0x10 8 }

/-- The sixteen regions of an image's layout block (Table 7-1). -/
def regions (img : List Byte) : List Region :=
  let lay := (img.drop (secOff img 0)).take 0x200
  (List.range 16).map (regionAt lay)

/-- Initial value of semaphore `j` and of credit counter `j` (Table 7-1). -/
def semInit (img : List Byte) (j : Nat) : Nat := fieldAt img (secOff img 0 + 0x200 + 2 * j) 2
def creditInit (img : List Byte) (j : Nat) : Nat := fieldAt img (secOff img 0 + 0x280 + 2 * j) 2

/-- The bytes a region spans (R150). -/
def regionSpan (r : Region) : Nat := if r.double then 2 * r.halfBytes else r.halfBytes

/-! ### Buckets (Table 2-4) -/

/-- Bucket record `i` of section 3. -/
def bucketRec (img : List Byte) (i : Nat) : List Byte := ((img.drop (secOff img 3)).drop (24 * i)).take 24

/-- The record whose bucket_id is `b`. -/
def findBucket (img : List Byte) (b : Nat) : Option (List Byte) :=
  ((List.range (imgBuckets img)).map (bucketRec img)).find? (fun r => fieldAt r 0 1 == b)

def bucketPhase (r : List Byte) : Nat := fieldAt r 1 1
def bucketMaxSessions (r : List Byte) : Nat := fieldAt r 2 2
def bucketMaxNew (r : List Byte) : Nat := fieldAt r 4 4
def bucketMaxKv (r : List Byte) : Nat := fieldAt r 8 4
def bucketFirstRow (r : List Byte) : Nat := fieldAt r 0xC 4
def bucketRowCount (r : List Byte) : Nat := fieldAt r 0x10 4

/-! ### Rows (Tables 2-5, 2-6) -/

/-- The bytes of section 1 from row `i` on, walking over the rows before it. -/
def rowsFrom (sec : List Byte) : Nat → List Byte
  | 0 => sec
  | i + 1 => let t := rowsFrom sec i; t.drop (32 + 8 * fieldAt t 8 2)

/-- The entries of the row at the head of a byte string. -/
def rowEntries (row : List Byte) : List Nat :=
  (List.range (fieldAt row 8 2)).map (fun j => fieldAt row (32 + 8 * j) 8)

/-- Row `i` of an image for a context; none where section 1 ends before it. -/
def rowOf (img : List Byte) (context i : Nat) : Option RowImg :=
  let row := rowsFrom (section_ img 1) i
  if row.length < 32 ∨ row.length < 32 + 8 * fieldAt row 8 2 then none
  else some { context := context, index := i, budget := fieldAt row 4 4, flags := fieldAt row 0xA 2, entries := rowEntries row }

/-- Whether the row_crc of row `i` holds (Table 2-5). -/
def rowCrcBytes (row : List Byte) : List Byte := row.take 0x1C ++ (row.drop 32).take (8 * fieldAt row 8 2)

/-- Fields of a slot-table entry (Table 2-6). -/
def entKind (e : Nat) : Nat := bits e 60 4
def entTarget (e : Nat) : Nat := bits e 48 12
def entPhase (e : Nat) : Nat := bits e 40 8
def entOffset (e : Nat) : Nat := bits e 0 40

/-! ### Tiles (Table 4-3) -/

/-- The 64-bit operation words of the tile at an offset of section 0. -/
def tileWords (img : List Byte) (off : Nat) : List (BitVec 64) :=
  let t := (section_ img 0).drop off
  (List.range (fieldAt t 0 2)).map (fun j => BitVec.ofNat 64 (fieldAt t (0x10 + 8 * j) 8))

/-! ### The context that runs -/

/-- A context by identifier. -/
def ctxOf (s : State) (c : Nat) : Option Ctx := mget none s.ctxs c
def setCtx (s : State) (c : Nat) (x : Ctx) : State := { s with ctxs := mset none s.ctxs c (some x) }
def modCtx (s : State) (c : Nat) (f : Ctx → Ctx) : State :=
  match ctxOf s c with | some x => setCtx s c (f x) | none => s

/-- The image of a context's active bank. -/
def activeBank (x : Ctx) : Option Bank := if x.imageActive then (if x.activeB then x.bankB else x.bankA) else none
def activeImage (x : Ctx) : List Byte := match activeBank x with | some b => b.image | none => []

/-- The context whose rows the cells run now (R261). -/
def runningCtx (s : State) : Option Ctx := match s.residency.current with | some c => ctxOf s c | none => none

/-- The partition of the running context. -/
def runningPart (s : State) : Option Nat := (runningCtx s).map (·.partition)

/-- The regions in force: those of the running context's image (R149). -/
def layoutOf (s : State) : List Region :=
  match runningCtx s with | some x => if x.imageActive then regions (activeImage x) else [] | none => []

end Sys2Proof.Machine
end

