-- ==== Sys2Proof/Machine/HostMem.lean ====
section
/-! DEFINITION. Machine/HostMem.lean: host windows (R330 to R332), what the module reads and writes in host memory
(R319, R320), and the synchronisation trace written there (R439 to R441). -/

namespace Sys2Proof.Machine

open Sys2Proof

/-- Whether a device address is a host window address (R26, R350). -/
def isHostAddr (a : Nat) : Bool := decide (0x400000000000 ≤ a)

/-- Whether CXL.cache and CXL.mem are in operation: IDE in force where it is required, and no integrity failure (R325). -/
def cachememOn (s : State) : Bool :=
  s.host.linkUp && !s.host.ideMemFailed && (!s.host.ideRequired || (s.host.ideIo && s.host.ideMem))

/-- Whether CXL.io is in operation: no integrity failure has stopped it (R325). -/
def ioOn (s : State) : Bool := s.host.linkUp && !s.host.ideIoFailed

/-- Whether the protocol that carries an access is in operation: CXL.io for writes and for UIO reads, CXL.cache for the other reads
(R319, R320, R324, R325). A request it cannot carry ends as a guard failure does (DESIGN CHOICE, log entry 69). -/
def carried (s : State) (kind : Nat) (write : Bool) : Bool := if write || kind == 2 then ioOn s else cachememOn s

/-- The 4 KiB pages of host memory that an access touches behind a window. -/
def atsPages (w : HostWin) (addr n : Nat) : List Nat :=
  let a := w.hostAddr.toNat + (addr - w.devBase.toNat)
  upto (a / 4096) ((a + max n 1 - 1) / 4096 + 1 - a / 4096)

/-- Whether every page of an access through a kind 0 window has its translation: a cached one, or one that the host gives now; a
failed translation is a guard failure (R321). -/
def atsOk (s : State) (w : HostWin) (addr n : Nat) : Bool :=
  decide (w.kind.toNat ≠ 0)
    || (atsPages w addr n).all (fun g => s.host.ats.any (fun e => e.1 == g) || Config.atsAnswers s.freeCount s.now g)

/-- The window entry in force that covers every byte of an access made for `owner` in a permitted direction (R332),
while its protocol runs and its pages have their translations. -/
def windowFor (s : State) (owner addr n : Nat) (write : Bool) : Option HostWin :=
  let ok (w : HostWin) : Bool :=
    bit w.flags.toNat 0 && decide (w.devBase.toNat ≤ addr) && decide (addr + n ≤ w.devBase.toNat + w.size.toNat)
      && decide (w.owner.toNat = owner) && bit w.flags.toNat (if write then 2 else 1)
      && !(write && decide (w.kind.toNat = 2)) && carried s w.kind.toNat write && atsOk s w addr n
  (s.host.winNow.map (·.2)).find? ok

/-- The host address behind a device address, where the access is permitted (R332). -/
def hostTarget (s : State) (owner addr n : Nat) (write : Bool) : Option Nat :=
  (windowFor s owner addr n write).map (fun w => w.hostAddr.toNat + (addr - w.devBase.toNat))

/-- The 4 KiB pages whose ATS translation the device caches once it has used them (R321) (DEDUCED, log entry 69). -/
def cacheTranslation (s : State) (owner addr n : Nat) (write : Bool) : State :=
  match windowFor s owner addr n write with
  | some w =>
    if w.kind = 0 then
      let fresh := (atsPages w addr n).filter (fun g => !s.host.ats.any (fun e => e.1 == g))
      { s with host := { s.host with ats := (fresh.map (fun g => (g, g)) ++ s.host.ats).take 8192 } }
    else s
  | none => s

/-- The bytes the module reads at a host address (DESIGN CHOICE, log entry 28). -/
def hostRead (s : State) (a n : Nat) : List Byte := readBytes s.host.mem a n

/-- Writes bytes at a host address and counts them on the host link (R438) (DESIGN CHOICE, log entry 28). -/
def hostWrite (s : State) (a : Nat) (bs : List Byte) : State :=
  { s with host := { s.host with mem := writeBytes s.host.mem a bs }
           obs := { s.obs with hostBytes := s.obs.hostBytes + bs.length, hostSent := s.obs.hostSent + bs.length } }

/-- Counts payload bytes on the host link, to the host or from it (R438, Table 19-5). -/
def countHost (s : State) (sent : Bool) (n : Nat) : State :=
  { s with obs := { s.obs with hostBytes := s.obs.hostBytes + n, hostSent := s.obs.hostSent + (if sent then n else 0) } }

/-- Writes bytes through a host window for an owner; unchanged where the window does not permit it. -/
def hostWriteDev (s : State) (owner addr : Nat) (bs : List Byte) : State :=
  match hostTarget s owner addr bs.length true with
  | some a => hostWrite (cacheTranslation s owner addr bs.length true) a bs
  | none => s

/-! ### The synchronisation trace -/

/-- What is remembered of a wait at its start (Table 19-10) (DEDUCED, log entry 68). -/
def beginWait (s : State) (value : Nat) : WaitRec :=
  { since := s.now, frame := s.frames.counter.toNat, startNs := s.now - s.frames.lastTick
    context := s.residency.current.getD 0xFFFF, value := value }

/-- The 32 bytes of a trace record (Table 19-10). -/
def traceRecord (s : State) (waiterKind objectKind waiter objCell objIndex wanted : Nat) (isOpen : Bool) (w : WaitRec) : List Byte :=
  leBytes waiterKind 1 ++ leBytes objectKind 1 ++ leBytes waiter 2 ++ leBytes objCell 2 ++ leBytes objIndex 1
    ++ leBytes ((runningPart s).getD 8 + 16 * b2n isOpen) 1 ++ leBytes (w.frame + w.context * 2 ^ 48) 8
    ++ leBytes w.startNs 4 ++ leBytes (min (s.now - w.since) 0xFFFFFFFF) 4 ++ leBytes wanted 2 ++ leBytes w.value 2
    ++ leBytes 0 4

/-- Whether the trace takes another record: its ring has room, its window still permits it, and fewer than 32 × 10^6 records have been
written in the second that runs (R441) (DESIGN CHOICE, log entry 68). -/
def traceTakes (s : State) : Bool :=
  let o := s.obs
  decide ((o.traceHead + 32) % 2 ^ o.traceLog2 ≠ o.traceTail) && (hostTarget s 8 (o.traceRing + o.traceHead) 32 true).isSome
    && !(decide (o.traceSecond = s.now / 1000000000) && decide (32000000 ≤ o.traceRate))

/-- The end of a wait: recorded where it lasted 1 µs or longer, counted where it was shorter (R439, R441) (DEDUCED, log entry 68). -/
def endWait (s : State) (waiterKind objectKind waiter objCell objIndex wanted : Nat) (isOpen : Bool) (w : WaitRec) : State :=
  if !s.obs.traceOn then s
  else if s.now - w.since < 1000 then { s with obs := { s.obs with traceShort := s.obs.traceShort + 1 } }
  else if !traceTakes s then { s with obs := { s.obs with traceLost := s.obs.traceLost + 1 } }
  else
    let o := s.obs
    let sec := s.now / 1000000000
    let s' := hostWriteDev s 8 (o.traceRing + o.traceHead) (traceRecord s waiterKind objectKind waiter objCell objIndex wanted isOpen w)
    { s' with obs := { s'.obs with
        traceHead := (o.traceHead + 32) % 2 ^ o.traceLog2, traceSecond := sec, traceRate := (if o.traceSecond = sec then o.traceRate else 0) + 1 } }

end Sys2Proof.Machine
end

