-- ==== Sys2Proof/Machine/Events.lean ====
section
/-! DEFINITION. Machine/Events.lean: writes to host bus addresses (R320), MSI-X messages, event records (R342), and the
sinter journal (R384, R385). -/

namespace Sys2Proof.Machine

open Sys2Proof

def fnOf (s : State) (f : Nat) : Fn := mget Fn.reset s.host.fns f
def setFn (s : State) (f : Nat) (x : Fn) : State := { s with host := { s.host with fns := mset Fn.reset s.host.fns f x } }
def modFn (s : State) (f : Nat) (g : Fn → Fn) : State := setFn s f (g (fnOf s f))

/-- Writes bytes at a bus address of the host; while CXL.io is stopped nothing is written (R325). -/
def busWrite (s : State) (a : Nat) (bs : List Byte) : State := if s.host.ideIoFailed then s else hostWrite s a bs

/-- Sends an MSI-X message (R320) (DESIGN CHOICE, log entry 64). -/
def msix (s : State) (fn vector : Nat) : State :=
  if s.host.ideIoFailed then s else { s with host := { s.host with msix := s.host.msix ++ [(fn, vector)] } }

/-- The frame counter as a number. -/
def frameNow (s : State) : Nat := s.frames.counter.toNat

/-- An event record with its crc (Table 14-15). -/
def eventRecord (s : State) (phase lost : Bool) (code part ctx : Nat) (data : List Byte) : List Byte :=
  let b := leBytes code 2 ++ leBytes (b2n phase + 2 * b2n lost) 1 ++ leBytes part 1 ++ leBytes ctx 2 ++ leBytes 0 2
    ++ leBytes (frameNow s) 8 ++ bytesAt data 0 12
  b ++ leBytes (crc32c b) 4

/-- Raises an event at a function (R342): written to its event ring with a message, or discarded and counted when the
ring is full or not in use. -/
def raiseEvent (s : State) (fn code part ctx : Nat) (data : List Byte) : State :=
  let f := fnOf s fn
  let size := 2 ^ f.evqLog2
  if !f.evqEnabled || decide ((f.evqTail + 1) % size = f.evqHead % size) then
    setFn s fn { f with evtLost := f.evtLost + 1, lostBefore := true }
  else
    let s1 := busWrite s (f.evqBase.toNat + 32 * f.evqTail) (eventRecord s f.evqPhase f.lostBefore code part ctx data)
    let tail := (f.evqTail + 1) % size
    let s2 := setFn s1 fn { f with evqTail := tail, evqPhase := (if tail = 0 then !f.evqPhase else f.evqPhase), lostBefore := false }
    msix s2 fn f.evqVector

/-! ### The sinter journal -/

/-- The next record sequence number: one above the last record of either copy (Table 16-13). -/
def nextSeq (s : State) : Nat := ((s.flash.copyA ++ s.flash.copyB).foldl (fun m r => max m r.seq) 0) + 1

/-- Appends a record: the stamp counter rises, the record goes to copy A and then identically to copy B (R385). -/
def journalWrite (s : State) (key : Nat) (value : List Byte) : State :=
  let r : JRec := { key := key, seq := nextSeq s, stamp := s.flash.stamp + 1, value := value, good := true }
  { s with flash := { s.flash with stamp := s.flash.stamp + 1, copyA := s.flash.copyA ++ [r], copyB := s.flash.copyB ++ [r] } }

/-! #### Reading it -/

/-- The range and the default of a key; none for a key that the table does not hold. -/
def cfgKey (k : Nat) : Option (Nat × Nat × Nat) :=
  if k = 1 then some (4, 168, 24)
  else if k = 2 then some (20, 10000, 200)
  else if 0x10 ≤ k ∧ k < 0x1E then some (0, 1, 0)
  else if k = 0x20 then some (0, 1, 0)
  else none

def cfgDefault (k : Nat) : Nat := match cfgKey k with | some (_, _, d) => d | none => 0

/-- The latest record of a key in a copy. -/
def latestRec (l : List JRec) (k : Nat) : Option JRec := (l.filter (fun r => r.key == k)).getLast?

/-- The value of a key in the journal and the sequence number of its record: its default and 0 where it has none. -/
def cfgStored (s : State) (k : Nat) : Nat × Nat :=
  match latestRec s.flash.copyA k with | some r => (fieldAt r.value 0 8, r.seq) | none => (cfgDefault k, 0)

/-- The value of a key that is in force. -/
def cfgValue (s : State) (k : Nat) : Nat := match s.rot.cfg.find? (fun e => e.1 == k) with | some e => e.2 | none => cfgDefault k

/-! #### Compacting it (R387, R388) -/

def isCompact : Instr → Bool | .cfgCompact _ _ => true | _ => false

/-- The latest record of every key but the marker's, in ascending sequence. -/
def compacted (l : List JRec) : List JRec := l.filter (fun r => r.key != 0x8005 && latestRec l r.key == some r)

/-- A copy's records up to its first failing record. -/
def goodPrefix (l : List JRec) : List JRec := l.takeWhile (·.good)

/-- The k-th of the two compaction markers (R388). -/
def marker (s : State) (k : Nat) : JRec := { key := 0x8005, seq := nextSeq s - 1 + k, stamp := s.flash.stamp + k, value := [], good := true }

/-- What a compaction that is cut off leaves, after the part of its four steps that `k` gives and, in steps 2 and 4, `n` records: nothing
begun; the first marker torn; the first marker written; copy B being written; copy B whole, then copy A being written. -/
def cutCompaction (s : State) (k n : Nat) : Flash :=
  let f := s.flash
  let l := compacted f.copyA ++ [marker s 2]
  let a := f.copyA ++ [marker s 1]
  match k with
  | 0 => f
  | 1 => { f with copyA := f.copyA ++ [{ marker s 1 with good := false }], stamp := f.stamp + 1 }
  | 2 => { f with copyA := a, stamp := f.stamp + 1 }
  | 3 => { f with copyA := a, stamp := f.stamp + 1, copyB := l.take (n % l.length), headerBOk := decide (n % l.length ≠ 0) }
  | _ => { f with copyB := l, stamp := f.stamp + 2, copyA := l.take (n % (l.length + 1)), headerAOk := decide (n % (l.length + 1) ≠ 0) }

/-- What a rewriting of both copies from a chosen one that is cut off leaves: nothing begun, or the other copy erased. -/
def cutRewrite (f : Flash) (select k : Nat) : Flash :=
  if k = 0 then f else if select = 1 then { f with copyB := [], headerBOk := false } else { f with copyA := [], headerAOk := false }

/-- The flash when the module stops: a CFG_COMPACT that was at work has come to some point of its steps (DESIGN CHOICE, log entry 36). -/
def stoppedFlash (s : State) : Flash :=
  match s.host.long.find? (fun l => isCompact l.op && l.reply.isNone) with
  | some l =>
    match l.op with
    | .cfgCompact _ 0 => cutCompaction s (Config.pick s.freeCount % 5) (Config.pick (s.freeCount + 1))
    | .cfgCompact _ k => cutRewrite s.flash k (Config.pick s.freeCount % 2)
    | _ => s.flash
  | none => s.flash

/-! ### Measurement registers (R378) -/

def zeroMeasure : List Byte := List.replicate 48 0
def measureOf (s : State) (r : Nat) : List Byte := mget zeroMeasure s.rot.measures r

/-- Extends a register with the digest of a byte string (DEDUCED, log entry 37). -/
def extendReg (s : State) (r : Nat) (bs : List Byte) : State :=
  { s with rot := { s.rot with measures := mset zeroMeasure s.rot.measures r (sha384 (measureOf s r ++ sha384 bs)) } }

end Sys2Proof.Machine
end

