-- ==== Sys2Proof/Machine/StackMem.lean ====
section
/-! DEFINITION. Machine/StackMem.lean: below the caldera (R191 to R206, R470): the range table, the memory agents with
their keys, the stack feet with ECC and poison, and class B traffic. A line is named by its address divided by 128. -/

namespace Sys2Proof.Machine

open Sys2Proof

/-! ### Addresses (R26, R196, R204, R208) -/

def stackSize : Nat := 0x1000000000
def inStacks (a n : Nat) : Bool := decide (a + n ≤ 24 * stackSize)
def stackNo (a : Nat) : Nat := a / stackSize

/-- The die of a stack address. -/
def dieOf (a : Nat) : Nat := stackNo a / 12

/-- The pseudo-channel, bank and row of an address (R196). -/
def pseudoChannel (a : Nat) : Nat := let o := a % stackSize; bits o 7 6 ^^^ bits o 22 6 ^^^ bits o 28 6
def bankOf (a : Nat) : Nat := let o := a % stackSize; bits o 16 6 ^^^ bits o 30 6
def dramRow (a : Nat) : Nat := bits (a % stackSize) 22 14

/-- A row of a stack as one number: (pc × 64 + bank) × 16,384 + row. -/
def rowKey (a : Nat) : Nat := (pseudoChannel a * 64 + bankOf a) * 16384 + dramRow a

/-- The aligned 64 KiB block of an address (R197, R204). -/
def blockOf (a : Nat) : Nat := a / 65536

/-- The 2 MiB granule of an address, and the size of a granule. -/
def granule : Nat := 0x200000
def granuleOf (a : Nat) : Nat := a / granule

/-! ### The range table (Table 9-6) -/

def noRange : RangeEntry :=
  { base := 0, size := 0, owner := 0xFF, hint := 0, landing := false, plain := false, prewarm := false, reserved := none, context := 0xFFFF }

def rangeOf (s : State) (i : Nat) : RangeEntry := mget noRange s.mem.ranges i
def setRange (s : State) (i : Nat) (r : RangeEntry) : State :=
  { s with mem := { s.mem with ranges := mset noRange s.mem.ranges i r } }

/-- The valid entry that covers an address. -/
def rangeAt (s : State) (a : Nat) : Option RangeEntry :=
  (s.mem.ranges.map (·.2)).find? (fun r => r.owner != 0xFF && decide (r.base ≤ a) && decide (a < r.base + r.size))

/-- The owner of a stack address: uncovered addresses belong to the firmware domain (R215). -/
def ownerAt (s : State) (a : Nat) : Nat := match rangeAt s a with | some r => r.owner | none => 8

/-- The hint of an address (Table 9-5). -/
def hintAt (s : State) (a : Nat) : Nat := match rangeAt s a with | some r => r.hint | none => 0

def partOf (s : State) (p : Nat) : Part := mget Part.reset s.parts p
def setPart (s : State) (p : Nat) (x : Part) : State := { s with parts := mset Part.reset s.parts p x }
def modPart (s : State) (p : Nat) (f : Part → Part) : State := setPart s p (f (partOf s p))

/-- The number of the memory key of an owner (R198): 0 is the firmware domain's key of this boot. A partition that does not exist has no
key: a range that names it is under a number that no draw and no blob gives (DESIGN CHOICE, log entry 16). -/
def ownerKey (s : State) (owner : Nat) : Nat :=
  if owner = 8 then 0 else if (partOf s owner).memKey = 0 then 2 * (2 ^ 64 + owner) else (partOf s owner).memKey

/-- The two AES-256 keys behind a key number: the firmware domain's of this boot, an installed one (odd numbers), or a drawn one
(R367, R368) (DESIGN CHOICE, log entry 16). -/
def keyBits (s : State) (k : Nat) : Nat × Nat :=
  if k = 0 then Config.memoryKey s.rot.fwKey
  else if k % 2 = 1 then (k / 2 % 2 ^ 256, k / 2 / 2 ^ 256)
  else Config.memoryKey (k / 2)

/-- Counts a guard fault of a partition (R27, R366). -/
def guardFault (s : State) (owner : Nat) : State :=
  { s with health := { s.health with guardFaults := madd s.health.guardFaults owner 1 } }

/-! ### The viaduct (R14, R18) -/

/-- Adds to field `f` of a link's record (Table 19-5, offset divided by 8; link numbers of Table 19-1). -/
def countLink (s : State) (link f n : Nat) : State := { s with mem := { s.mem with linkCounts := madd s.mem.linkCounts (link * 8 + f) n } }

/-- The DATA plane of a packet to a stack address, and of one to a window (R14): the quarter that it crosses the viaduct in. -/
def stackPlane (a : Nat) : Nat := bits a 7 2
def cellPlane (cluster cell : Nat) : Nat := (cluster + cell / 16) % 4

/-- Payload bytes on their way from a die to a die: counted in a quarter where they cross the viaduct, as sent or received as die 0
sees it (R18). -/
def crossing (s : State) (quarter fromDie toDie n : Nat) : State :=
  if fromDie = toDie then s else countLink s (14 + quarter) (if fromDie = 0 then 0 else 1) n

/-! ### Stacks -/

def stackOf (s : State) (k : Nat) : Stack := mget Stack.reset s.mem.stackUnits k
def setStack (s : State) (k : Nat) (x : Stack) : State := { s with mem := { s.mem with stackUnits := mset Stack.reset s.mem.stackUnits k x } }
def modStack (s : State) (k : Nat) (f : Stack → Stack) : State := setStack s k (f (stackOf s k))

/-- Adds to field `i` of the stack record (Table 19-5, offset divided by 8). -/
def countStack (s : State) (k i n : Nat) : State := modStack s k (fun x => { x with bytes := madd x.bytes i n })

def metaOf (s : State) (line : Nat) : LineMeta := mget LineMeta.reset s.mem.lines line
def setMeta (s : State) (line : Nat) (m : LineMeta) : State := { s with mem := { s.mem with lines := mset LineMeta.reset s.mem.lines line m } }

/-- Whether the line's place does not hold data: its stack is out of service or being margined, or its block is retired. -/
def lineGone (s : State) (line : Nat) : Bool :=
  let a := 128 * line
  let k := stackOf s (stackNo a)
  k.state == .outOfService || k.state == .margining || k.retired.contains (blockOf a)

/-- Marks a row for repair (R203). -/
def markRow (k : Stack) (row : Nat) : Stack := if k.marked.contains row then k else { k with marked := k.marked ++ [row] }

/-- A line as a read delivers it. -/
structure LineData where
  data : List Byte
  poison : Bool
  deriving DecidableEq, Repr

def zeroLine : List Byte := List.replicate 128 0
def poisonLine : LineData := { data := zeroLine, poison := true }

/-- The ciphertext of a line as it was written: zeros for a line stored as poison (R201). -/
def cipherOf (s : State) (line : Nat) : List Byte :=
  if (metaOf s line).poison then zeroLine
  else xtsEncrypt (keyBits s (metaOf s line).key) (128 * line) (readBytes s.mem.bytes (128 * line) 128)

/-- A stored line as the decoder has left it, under the reader's key (R24, R198, R470): the bytes that were written where the key
is the one that wrote them and nothing is left wrong, the decryption of what stands there otherwise (DEDUCED, log entry 12). -/
def decrypted (s : State) (line key : Nat) (left : List (Nat × Byte)) : List Byte :=
  let m := metaOf s line
  if m.key = key ∧ m.poison = false ∧ left = [] then readBytes s.mem.bytes (128 * line) 128
  else xtsDecrypt (keyBits s key) (128 * line) ((cipherOf s line).zipIdx.map (fun p => p.1 ^^^ mget 0 left p.2))

/-- The difference of a stored line from its codeword, and the wrong symbols that leave a given difference. -/
def lineDiff (m : LineMeta) : List (Nat × Byte) := if m.poison then xorPattern poisonPattern m.errs else m.errs
def errsFor (m : LineMeta) (left : List (Nat × Byte)) : List (Nat × Byte) := if m.poison then xorPattern left poisonPattern else left

/-- A read of a line at the stack foot, with new wrong symbols `errs` found in it, under a key (Table 9-4, R195, R204). A line
with 3 or 4 symbols corrected is written back as it was decoded, in the same step (DEDUCED, log entry 12). -/
def footRead (s : State) (line key : Nat) (errs : List (Nat × Byte)) : State × LineData :=
  let a := 128 * line
  let k := stackNo a
  if lineGone s line then (s, poisonLine)
  else
    let m : LineMeta := { metaOf s line with errs := xorPattern (metaOf s line).errs errs }
    let s0 := setMeta s line m
    match eccDecode (lineDiff m) with
    | .poison => (modStack s0 k (fun x => { x with poisonReads := x.poisonReads + 1 }), poisonLine)
    | .uncorrectable => (modStack s0 k (fun x => markRow { x with ue := x.ue + 1, errorLog := x.errorLog ++ [a] } (rowKey a)), poisonLine)
    | .decoded n left =>
      let d : LineData := { data := decrypted s0 line key left, poison := false }
      if n = 0 then (s0, d)
      else
        let s1 := modStack s0 k (fun x => { x with ce := x.ce + 1 })
        (if n ≤ 2 then s1 else setMeta (modStack s1 k (fun x => markRow x (rowKey a))) line { m with errs := errsFor m left }, d)

/-- A write of a whole line (R198, R201): stored under a key, or as poison; discarded and counted where the stack is out
of service or the block retired (R195, R204). -/
def footWrite (s : State) (line key : Nat) (data : List Byte) (poison : Bool) : State :=
  let a := 128 * line
  if lineGone s line then modStack s (stackNo a) (fun x => { x with discards := x.discards + 1 })
  else
    let m : LineMeta := { key := key, poison := poison, errs := [] }
    let s1 := setMeta s line m
    { s1 with mem := { s1.mem with bytes := writeBytes s1.mem.bytes a (if poison then zeroLine else bytesAt data 0 128) } }

/-- A class A read below the caldera: the key is that of the address's owner (R198), and the bytes are counted. -/
def agentRead (s : State) (line : Nat) (errs : List (Nat × Byte)) : State × LineData :=
  let a := 128 * line
  footRead (if lineGone s line then s else countStack (countStack s (stackNo a) 0 128) (stackNo a) 4 1) line (ownerKey s (ownerAt s a)) errs

/-- A class A write below the caldera. -/
def agentWrite (s : State) (line : Nat) (data : List Byte) (poison : Bool) : State :=
  let a := 128 * line
  footWrite (if lineGone s line then s else countStack s (stackNo a) 1 128) line (ownerKey s (ownerAt s a)) data poison

/-! ### Class B (R199, R212, R250) -/

/-- A class B read of one line: DRAM contents. The CXL port sits on die 0 (R18, R25). -/
def classBRead (s : State) (line : Nat) : State × LineData :=
  let a := 128 * line
  footRead (countStack (crossing s (stackPlane a) (dieOf a) 0 128) (stackNo a) 2 128) line (ownerKey s (ownerAt s a)) []

/-- A class B write of `bs` within one line: a part of a line is merged by read-modify-write, and a merge over poison
stores poison and counts an uncorrectable line (R199). -/
def classBWrite (s : State) (a : Nat) (bs : List Byte) : State :=
  let line := a / 128
  let k := stackNo a
  let key := ownerKey s (ownerAt s a)
  let s0 := countStack (crossing s (stackPlane a) 0 (dieOf a) bs.length) k 3 bs.length
  if bs.length = 128 then footWrite s0 line key bs false
  else
    let (s1, d) := footRead (countStack s0 k 6 1) line key []
    if d.poison then
      footWrite (modStack s1 k (fun x => { x with ue := x.ue + 1 })) line key zeroLine true
    else footWrite s1 line key (d.data.take (a % 128) ++ bs ++ d.data.drop (a % 128 + bs.length)) false

end Sys2Proof.Machine
end

