-- ==== Sys2Proof/Machine/Caldera.lean ====
section
/-! DEFINITION. Machine/Caldera.lean: the home slices (R207 to R214): hits, fills, replacement, write-back and zeroing,
and the class A accesses that reach them under the partition guard (R215, R366). A set's lines stand most recent first. -/

namespace Sys2Proof.Machine

open Sys2Proof

/-- The home slice and the set of an address (R208). -/
def sliceOf (a : Nat) : Nat :=
  bits a 7 4 ^^^ bits a 11 4 ^^^ bits a 15 4 ^^^ bits a 19 4 ^^^ bits a 23 4 ^^^ bits a 27 4 ^^^ bits a 31 4
    ^^^ bits a 35 4 ^^^ bits a 39 2
def setOf (a : Nat) : Nat := bits a 11 11 + 2048 * (bits a 22 19 % 3)

/-- The slice of a stack address numbered over both dies, and its set numbered over all slices. -/
def sliceKey (a : Nat) : Nat := 16 * dieOf a + sliceOf a
def setKey (a : Nat) : Nat := sliceKey a * 6144 + setOf a

def calSetOf (s : State) (k : Nat) : CalSet := mget CalSet.reset s.mem.sets k
def setCalSet (s : State) (k : Nat) (x : CalSet) : State := { s with mem := { s.mem with sets := mset CalSet.reset s.mem.sets k x } }

/-- The caldera's copy of a line, if it holds one. -/
def calFind (s : State) (line : Nat) : Option CalLine := (calSetOf s (setKey (128 * line))).lines.find? (fun l => l.line == line)

/-- Adds to field `i` of a slice's record (Table 19-5, offset divided by 8). -/
def countSlice (s : State) (a i n : Nat) : State :=
  { s with mem := { s.mem with sliceCounts := madd s.mem.sliceCounts (sliceKey a * 8 + i) n } }
def countMiss (s : State) (a : Nat) : State := { s with mem := { s.mem with calMiss := madd s.mem.calMiss (dieOf a) 1 } }

/-- Removes a line from its set. -/
def calDrop (s : State) (line : Nat) : State :=
  let k := setKey (128 * line)
  let x := calSetOf s k
  setCalSet s k { x with lines := x.lines.filter (fun l => l.line != line) }

/-- Puts a changed line back in its set, as most recent or in its place. -/
def calPut (s : State) (l : CalLine) (recent : Bool) : State :=
  let k := setKey (128 * l.line)
  let x := calSetOf s k
  let ls := if recent then l :: x.lines.filter (fun y => y.line != l.line)
    else x.lines.map (fun y => if y.line = l.line then l else y)
  setCalSet s k { x with lines := ls }

/-- Writes a dirty line back through the memory agent and counts it (R209). -/
def writeBack (s : State) (l : CalLine) : State :=
  let a := 128 * l.line
  let s1 := agentWrite s l.line l.data l.poison
  countSlice { s1 with mem := { s1.mem with calWb := madd s1.mem.calWb (dieOf a) 1 } } a 4 1

/-- Writes a line back where it is dirty. -/
def cleanLine (s : State) (l : CalLine) : State := if l.dirty then writeBack s l else s

/-! ### Fills (R211) -/

/-- The allocation mask of an owner on a die, and its keep_ways: all ways and 8 for the firmware domain. -/
def maskOf (s : State) (owner die : Nat) : Nat :=
  if owner = 8 then 0xFFFF else if die = 0 then (partOf s owner).mask0 else (partOf s owner).mask1
def keepWaysOf (s : State) (owner : Nat) : Nat := if owner = 8 then 8 else (partOf s owner).keepWays

/-- The ways of a set that can be used: the first retired way is served by the spare, the others are lost (Table 1-8). -/
def usableWays (x : CalSet) (mask : Nat) : List Nat := (List.range 16).filter (fun w => bit mask w && !(x.retired.drop 1).contains w)

/-- The way a fill takes, with the line it replaces: the owner's least recent KEEP line where the fill would exceed
keep_ways, else an invalid way of the mask, else its least recent line without KEEP, else its least recent line (DEDUCED, log entry 70). -/
def victim (x : CalSet) (ways : List Nat) (owner keepWays : Nat) (keep : Bool) : Option (Nat × Option CalLine) :=
  let keeps := x.lines.filter (fun l => l.keep && l.owner == owner)
  match (if keep && decide (keepWays ≤ keeps.length) then keeps.getLast? else none) with
  | some l => some (l.way, some l)
  | none =>
    match ways.find? (fun w => x.lines.all (fun l => l.way != w)) with
    | some w => some (w, none)
    | none =>
      let inMask := x.lines.filter (fun l => ways.contains l.way)
      match (inMask.filter (fun l => !l.keep)).getLast? with
      | some l => some (l.way, some l)
      | none => inMask.getLast?.map (fun l => (l.way, some l))

/-- Fills a line into its owner's allocation mask, replacing a victim that is written back when dirty. Nothing is
allocated where the mask leaves no usable way (DEDUCED, log entry 70). -/
def calFill (s : State) (line owner : Nat) (keep dirty : Bool) (d : LineData) (recent : Bool) : State × Bool :=
  let a := 128 * line
  let k := setKey a
  let x := calSetOf s k
  let kw := keepWaysOf s owner
  match victim x (usableWays x (maskOf s owner (dieOf a))) owner kw keep with
  | none => (s, false)
  | some (w, old) =>
    let s1 := match old with | some l => calDrop (cleanLine s l) l.line | none => s
    let y := calSetOf s1 k
    let l : CalLine := { way := w, line := line, owner := owner, dirty := dirty, poison := d.poison, keep := keep && decide (0 < kw), data := d.data }
    let ls := if recent then l :: y.lines else y.lines ++ [l]
    (setCalSet s1 k { y with lines := ls }, true)

/-! ### Reads and writes at the home slice (R209, R210) -/

/-- What an SRAM error does to a held line (R209): a corrected error is counted; an uncorrectable one drops a clean line
and poisons a dirty one. -/
def sramError (s : State) (line : Nat) (err : BitErr) : State :=
  let die := dieOf (128 * line)
  match err, calFind s line with
  | .corrected, some _ => { s with mem := { s.mem with calCorrected := madd s.mem.calCorrected die 1 } }
  | .uncorrectable, some l =>
    let s1 := { s with mem := { s.mem with calUncorrected := madd s.mem.calUncorrected die 1 } }
    if l.dirty then calPut s1 { l with poison := true, data := zeroLine } false else calDrop s1 line
  | _, _ => s

/-- A line whose place does not hold data is not held either: it leaves the caldera, its dirty data discarded and counted (R195,
R204). -/
def dropGone (s : State) (line : Nat) : State :=
  match calFind s line with
  | some l =>
    let k := stackNo (128 * line)
    calDrop (if l.dirty then modStack s k (fun x => { x with discards := x.discards + 1 }) else s) line
  | none => s

/-- A read of a line at its home slice under a hint (Table 9-5). -/
def sliceRead (s : State) (line hint : Nat) (err : BitErr) : State × LineData :=
  let a := 128 * line
  if lineGone s line then (dropGone s line, poisonLine) else
  let s := sramError s line err
  match calFind s line with
  | some l =>
    let s1 := countSlice s a 0 1
    let d : LineData := { data := l.data, poison := l.poison }
    if hint = 1 then (s1, d)
    else if hint = 3 then (calDrop (cleanLine s1 l) line, d)
    else (calPut s1 l true, d)
  | none =>
    let (s1, d) := agentRead (countMiss (countSlice s a 1 1) a) line []
    if hint = 0 ∨ hint = 2 then ((calFill s1 line (ownerAt s1 a) (hint == 2) false d true).1, d) else (s1, d)

/-- Merges a write of `bs` at offset `o` into a line; a whole line without the mark clears poison (R146, R209). -/
def mergeLine (d : LineData) (o : Nat) (bs : List Byte) (poison : Bool) : LineData :=
  if o = 0 ∧ bs.length = 128 then { data := if poison then zeroLine else bs, poison := poison }
  else if d.poison || poison then poisonLine
  else { data := d.data.take o ++ bs ++ d.data.drop (o + bs.length), poison := false }

/-- Whether a write hit under the KEEP hint sets the KEEP bit: the line has it, or its owner may hold one more in the set (R210,
R211) (DESIGN CHOICE, log entry 70). -/
def mayKeep (s : State) (l : CalLine) : Bool :=
  l.keep || decide (((calSetOf s (setKey (128 * l.line))).lines.filter (fun y => y.keep && y.owner == l.owner)).length < keepWaysOf s l.owner)

/-- Puts a written line back where the hint of its range puts it (Table 9-5): last under STREAM, else first, with KEEP under KEEP. -/
def calPutWritten (s : State) (l : CalLine) (hint : Nat) : State :=
  let k := setKey (128 * l.line)
  let x := calSetOf s k
  let rest := x.lines.filter (fun y => y.line != l.line)
  let l' := if hint = 2 then { l with keep := mayKeep s l } else l
  setCalSet s k { x with lines := if hint = 1 then rest ++ [l'] else l' :: rest }

/-- A write at the home slice (R209, R210): a held line is changed in place; a missing line is fetched when the write is
partial, merged and allocated. Where nothing can be allocated the line goes to the memory agent. A write to a line whose place
does not hold data is discarded and counted (R195, R204). -/
def sliceWrite (s : State) (addr hint : Nat) (bs : List Byte) (poison : Bool) : State :=
  let line := addr / 128
  let a := 128 * line
  let o := addr % 128
  if lineGone s line then agentWrite (dropGone s line) line bs poison else
  match calFind s line with
  | some l =>
    let d := mergeLine { data := l.data, poison := l.poison } o bs poison
    calPutWritten (countSlice s a 2 1) { l with data := d.data, poison := d.poison, dirty := true } hint
  | none =>
    let s0 := countMiss (countSlice s a 3 1) a
    let (s1, old) := if bs.length = 128 then (s0, poisonLine) else agentRead s0 line []
    let d := mergeLine old o bs poison
    let (s2, ok) := calFill s1 line (ownerAt s1 a) (hint == 2) true d (hint != 1)
    if ok then s2 else agentWrite s2 line d.data d.poison

/-! ### The host's snoop filter (R323, R343) -/

/-- Base, size and partition of an exposure entry. -/
def expBase (e : Exposure) : Nat := bits e.word0.toNat 0 48
def expSize (e : Exposure) : Nat := bits e.word1.toNat 0 32 * granule
def expPart (e : Exposure) : Nat := bits e.word1.toNat 32 4
def expWrite (e : Exposure) : Bool := bit e.word1.toNat 36
def expCovers (e : Exposure) (a : Nat) : Bool := decide (expBase e ≤ a) && decide (a < expBase e + expSize e)

/-- Ends the closing of exposure entries none of whose lines is still recorded (R323). -/
def endClosing (s : State) : State :=
  let done (e : Exposure) : Bool := e.closing && s.host.snoop.all (fun l => !expCovers e (128 * l))
  { s with host := { s.host with
      exposures := s.host.exposures.foldl (fun m p =>
        if done p.2 then mset Exposure.reset m p.1 { p.2 with word0 := p.2.word0 &&& 0x7FFFFFFFFFFFFFFF, inForce := false, closing := false }
        else m) s.host.exposures } }

/-- A line leaves the filter: the writes held for it proceed in order, then closing entries are looked at (DEDUCED, log entry 69). -/
def snoopLeave (s : State) (line : Nat) : State :=
  let now := s.host.heldWrites.filter (fun w => w.addr / 128 == line)
  let s1 := { s with host := { s.host with
    snoop := s.host.snoop.filter (fun l => l != line), heldWrites := s.host.heldWrites.filter (fun w => w.addr / 128 != line) } }
  endClosing (now.foldl (fun s w => sliceWrite s w.addr (hintAt s w.addr) w.data w.poison) s1)

/-- An access that reaches a line's home slice behind a write that is held there is served after it (R22): the host has answered by
then (DEDUCED, log entry 69). -/
def behindHeld (s : State) (line : Nat) : State :=
  if s.host.heldWrites.any (fun w => w.addr / 128 == line) then snoopLeave s line else s

/-! ### Class A accesses under the guard -/

/-- Whether a class A access of a source to a stack address passes the guard (Table 16-2); a write into a landing range
is refused (R212). -/
def stackGuard (s : State) (src : Source) (addr n : Nat) (write : Bool) : Bool :=
  inStacks addr n && decide (ownerAt s addr = src.owner)
    && !(write && (match rangeAt s addr with | some r => r.landing | none => false))

/-- A class A read of one line: the data and a status, 0 when it was performed (R27: otherwise poisoned zeros) (DEDUCED, log entry 70). -/
def classARead (s : State) (src : Source) (addr : Nat) (err : BitErr) : State × LineData × Nat :=
  if !stackGuard s src addr 1 false then (guardFault s src.owner, poisonLine, stNotPermitted)
  else
    let (s1, d) := sliceRead (behindHeld s (addr / 128)) (addr / 128) (hintAt s addr) err
    let s2 := if src.cluster / 128 ≠ dieOf addr then countSlice s1 addr 7 128 else s1
    (crossing s2 (stackPlane addr) (dieOf addr) (src.cluster / 128) 128, d, if d.poison then stUncorrectable else 0)

/-- A class A write within one line. A line that the host holds in its snoop filter is back-invalidated first: the write
is held until the host's BIRsp (R323) (DEDUCED, log entry 70). -/
def classAWrite (s : State) (src : Source) (addr : Nat) (bs : List Byte) (poison : Bool) : State × Nat :=
  if !stackGuard s src addr bs.length true then (guardFault s src.owner, stNotPermitted)
  else if s.host.snoop.contains (addr / 128) then
    ({ s with host := { s.host with heldWrites := s.host.heldWrites ++ [{ addr := addr, owner := src.owner, cluster := src.cluster, data := bs, poison := poison }] } }, 0)
  else
    (crossing (sliceWrite s addr (hintAt s addr) bs poison) (stackPlane addr) (src.cluster / 128) (dieOf addr) bs.length, 0)

/-! ### Whole ranges -/

/-- The lines the calderas hold that satisfy a test. -/
def calLines (s : State) (p : CalLine → Bool) : List CalLine := s.mem.sets.flatMap (fun e => e.2.lines.filter p)

def lineIn (base size : Nat) (l : CalLine) : Bool := decide (base ≤ 128 * l.line) && decide (128 * l.line < base + size)

/-- Invalidates the lines that satisfy a test, writing dirty ones back when asked; gives how many were written back. -/
def calInvalidate (s : State) (p : CalLine → Bool) (back : Bool) : State × Nat :=
  (calLines s p).foldl (fun (acc : State × Nat) l =>
    let s1 := if back then cleanLine acc.1 l else acc.1
    (calDrop s1 l.line, acc.2 + b2n (back && l.dirty))) (s, 0)

/-- Writes the dirty lines that satisfy a test back and leaves them clean; KEEP is cleared where asked (R214). -/
def calClean (s : State) (p : CalLine → Bool) (dropKeep : Bool) : State :=
  (calLines s p).foldl (fun s l =>
    calPut (cleanLine s l) { l with dirty := false, keep := l.keep && !dropKeep } false) s

/-- Zeroes and invalidates lines (R213): dirty data is discarded, and each line is counted for its die. -/
def calZeroLines (s : State) (p : CalLine → Bool) : State :=
  (calLines s p).foldl (fun s l =>
    let s1 := calDrop s l.line
    { s1 with mem := { s1.mem with calZero := madd s1.mem.calZero (dieOf (128 * l.line)) 1 } }) s

/-- The caldera lines of a stack that goes out of service: dirty ones count as discarded writes (R195). -/
def calLoseStack (s : State) (k : Nat) : State :=
  (calLines s (lineIn (k * stackSize) stackSize)).foldl (fun s l =>
    let s1 := if l.dirty then modStack s k (fun x => { x with discards := x.discards + 1 }) else s
    calDrop s1 l.line) s

end Sys2Proof.Machine
end

