-- ==== Sys2Proof/Machine/Contexts.lean ====
section
/-! DEFINITION. Machine/Contexts.lean: what happens to a context's pages, sessions and entries (R272 to R274, R278 to
R282): states of KV pages, lost sessions, poison over a whole stack, and the accounting counters of Table 12-10. -/

namespace Sys2Proof.Machine

open Sys2Proof

/-- The contexts that exist, by identifier. -/
def allCtxs (s : State) : List (Nat × Ctx) := s.ctxs.filterMap (fun e => e.2.map (fun x => (e.1, x)))

/-- The contexts that hold a residency slot. -/
def residents (s : State) : List (Nat × Ctx) := (allCtxs s).filter (fun e => e.2.residentSlot)

/-! ### Accounting (Table 12-10) -/

/-- Indices of the counters of Table 12-10. Per-stack, per-quarter and per-port counters take 24, 4 and 14 indices. -/
def acCellFrames : Nat := 0
def acSwitchFrames : Nat := 1
def acStackRead : Nat := 2
def acStackWrite : Nat := 26
def acViaduct : Nat := 50
def acGlonyTx : Nat := 54
def acGlonyRx : Nat := 68
def acHost : Nat := 82
def acWindow : Nat := 83
def acEnergy : Nat := 84
def acDone : Nat := 85
def acAborted : Nat := 86
def acReplays : Nat := 87
def acOvTokens : Nat := 88
def acOvFrames : Nat := 89
def acSkipped : Nat := 90
def acReconciled : Nat := 91
def acEvictions : Nat := 92
def acAdmissions : Nat := 93
def acDegraded : Nat := 94

/-- Adds to a counter of a context and of its partition (R283). -/
def account (s : State) (c i n : Nat) : State :=
  match ctxOf s c with
  | some x =>
    let s1 := setCtx s c { x with acct := madd x.acct i n }
    modPart s1 x.partition (fun p => { p with acct := madd p.acct i n })
  | none => s

/-- Charges a context with the bytes that a step moved: at each stack, over each viaduct quarter and on the host link
(Table 12-10); `before` is the state before the step. -/
def charge (before s : State) (c : Nat) : State :=
  let d (f : State → Nat) : Nat := f s - f before
  let rd (k : Nat) (x : State) : Nat := mget 0 (stackOf x k).bytes 0 + mget 0 (stackOf x k).bytes 2
  let wr (k : Nat) (x : State) : Nat := mget 0 (stackOf x k).bytes 1 + mget 0 (stackOf x k).bytes 3
  let vq (q : Nat) (x : State) : Nat := mget 0 x.mem.linkCounts ((14 + q) * 8) + mget 0 x.mem.linkCounts ((14 + q) * 8 + 1)
  let add (i n : Nat) (x : State) : State := if n = 0 then x else account x c i n
  let s1 := (List.range 24).foldl (fun x k => add (acStackWrite + k) (d (wr k)) (add (acStackRead + k) (d (rd k)) x)) s
  let s2 := (List.range 4).foldl (fun x q => add (acViaduct + q) (d (vq q)) x) s1
  add acHost (d (fun x => x.obs.hostBytes)) s2

/-! ### Pages and sessions -/

def pageCount (x : Ctx) (p : PageState) : Nat := (x.pages.filter (fun g => g.mapped && g.state == p)).length

/-- A page that becomes FREE: owned by no slot and superseding nothing (Table 12-9). -/
def freePage (g : Page) : Page := { g with state := .free, slot := 0xFFFF, phaseSet := 0, supersedes := none, storedLines := 0, kindV := false, row := 0, place := 0 }

/-- The page at an index becomes QUARANTINED (R273). -/
def quarantinePage (x : Ctx) (p : Nat) : Ctx :=
  { x with pages := x.pages.zipIdx.map (fun e => if e.2 = p then { e.1 with state := .quarantined } else e.1) }

/-- A session slot is marked lost (R281). -/
def loseSession (x : Ctx) (slot : Nat) : Ctx :=
  if slot = 0xFFFF then x else { x with sessions := mmod Session.reset x.sessions slot (fun z => { z with lost := true }) }

/-- KV poison in a page: the page is quarantined and its session lost (R281). -/
def kvPoison (x : Ctx) (p : Nat) : Ctx :=
  match x.pages[p]? with
  | some g => loseSession (quarantinePage x p) g.slot
  | none => x

/-- Every TENTATIVE page becomes FREE (R273, abort). -/
def dropTentative (x : Ctx) : Ctx := { x with pages := x.pages.map (fun g => if g.state = .tentative then freePage g else g) }

/-! ### Poison over weights (R280) -/

/-- Marks granules as poisoned; the context enters DEGRADED at the next tick at which it is RESIDENT (R258, R280). -/
def degradeCtx (x : Ctx) (gs : List Nat) : Ctx :=
  { x with
    degradedGranules := x.degradedGranules ++ gs.filter (fun g => !x.degradedGranules.contains g)
    degradeDue := true }

/-- The granules of a source entry that lie on a stack. -/
def entryGranules (e : SourceEntry) : List Nat := upto (granuleOf e.base) (e.size / granule)

/-- What a stack that goes out of service means to one context (R282). -/
def ctxLosesStack (x : Ctx) (k : Nat) : Ctx :=
  let bad := x.sources.filter (fun e => e.kind == 0 && stackNo e.base == k)
  let x1 := if bad.isEmpty then x else degradeCtx x (bad.flatMap entryGranules)
  (x1.pages.zipIdx.filter (fun e => e.1.mapped && stackNo e.1.frame == k)).foldl (fun x e => kvPoison x e.2) x1

/-- A stack goes out of service (R195, R282). -/
def stackOutOfService (s : State) (k : Nat) : State :=
  let s1 := calLoseStack (modStack s k (fun x => { x with state := .outOfService })) k
  (residents s1).foldl (fun s e => setCtx s e.1 (ctxLosesStack e.2 k)) s1

/-! ### Reports of spares (R32) -/

/-- The SPARE_USED event of a row of Table 1-8 (DESIGN CHOICE, log entry 19). -/
def spareUsed (s : State) (row unit : Nat) : State :=
  raiseEvent s 0 0x8004 8 0xFFFF ([Config.partClass row] ++ leBytes (Config.partNumber row unit) 2)

end Sys2Proof.Machine
end

