-- ==== Sys2Proof/Machine/Scratch.lean ====
section
/-! DEFINITION. Machine/Scratch.lean: the scratchpad of a cell: rows and poison (R143 to R146), double-buffered regions
(R153), unordered reads (R93), semaphores (R162 to R165) and landing credits (R158 to R160). -/

namespace Sys2Proof.Machine

open Sys2Proof

/-- The size of a scratchpad in bytes and of a row (R143). -/
def spBytes : Nat := 0x40000
def rowBytes : Nat := 128

/-! ### Cells and clusters -/

def cellOf (s : State) (c : Nat) : Cell := mget Cell.reset s.cells c
def setCell (s : State) (c : Nat) (x : Cell) : State := { s with cells := mset Cell.reset s.cells c x }
def modCell (s : State) (c : Nat) (f : Cell → Cell) : State := setCell s c (f (cellOf s c))
def clusterOf (s : State) (n : Nat) : Cluster := mget Cluster.reset s.clusters n
def setCluster (s : State) (n : Nat) (x : Cluster) : State := { s with clusters := mset Cluster.reset s.clusters n x }
def modCluster (s : State) (n : Nat) (f : Cluster → Cluster) : State := setCluster s n (f (clusterOf s n))

/-- Adds to counter `i` of the cluster operation record (Table 19-3), of the cluster error record (Table 19-4), and of
the cell byte record (Table 19-2); fields are numbered by their offset divided by 8. -/
def countOp (s : State) (cluster i n : Nat) : State := modCluster s cluster (fun x => { x with ops := madd x.ops i n })
def countErr (s : State) (cluster i n : Nat) : State := modCluster s cluster (fun x => { x with errors := madd x.errors i n })
def countCell (s : State) (c i n : Nat) : State := modCell s c (fun x => { x with bytes := madd x.bytes i n })

/-! ### Rows -/

/-- A byte string cut at row boundaries: each piece with its offset. -/
def pieces : Nat → Nat → List Byte → List (Nat × List Byte)
  | 0, _, _ => []
  | fuel + 1, o, bs =>
    if bs.isEmpty then []
    else
      let k := rowBytes - o % rowBytes
      (o, bs.take k) :: pieces fuel (o + k) (bs.drop k)

/-- The physical offset of a tile offset: the two halves of a double-buffered region change places while the region's
current-half bit is set (R153). -/
def tileOffset (regs : List Region) (half : SMap Bool) (o : Nat) : Nat :=
  match regs.zipIdx.find? (fun e => e.1.valid && e.1.double && decide (e.1.base ≤ o) && decide (o < e.1.base + 2 * e.1.halfBytes)) with
  | some (r, i) =>
    if mget false half i then (if o < r.base + r.halfBytes then o + r.halfBytes else o - r.halfBytes) else o
  | none => o

/-- The physical row of a tile row. -/
def tileRow (regs : List Region) (half : SMap Bool) (row : Nat) : Nat := tileOffset regs half (row * rowBytes) / rowBytes

/-- The rows that `n` bytes from offset `o` touch. -/
def rowSpan (o n : Nat) : List Nat := if n = 0 then [] else upto (o / rowBytes) ((o + n - 1) / rowBytes - o / rowBytes + 1)

/-- Writes one piece that lies within a row: its bytes, and the row's poison bit (R146). -/
def writePiece (c : Cell) (o : Nat) (bs : List Byte) (poison : Bool) : Cell :=
  let row := o / rowBytes
  let p := mget false c.spPoison row
  { c with sp := writeBytes c.sp o bs
           spPoison := mset false c.spPoison row (if poison then true else if bs.length = rowBytes then false else p) }

/-- Writes a byte string at a physical offset, row by row. -/
def spWrite (c : Cell) (o : Nat) (bs : List Byte) (poison : Bool) : Cell :=
  (pieces (bs.length / rowBytes + 2) o bs).foldl (fun c e => writePiece c e.1 e.2 poison) c

/-- Whether any of the rows a physical span touches is poisoned. -/
def spPoisoned (c : Cell) (o n : Nat) : Bool := (rowSpan o n).any (fun r => mget false c.spPoison r)

/-! ### What a tile operation reads and writes -/

/-- Whether a piece lies in a row. -/
def inRow (row : Nat) (e : Nat × List Byte) : Bool := e.1 / rowBytes == row

/-- Performs the first `k` of an operation's writes to one row. -/
def performRow (c : Cell) (row k : Nat) (i : Issued) : Cell :=
  ((i.writes.filter (inRow row)).take k).foldl (fun c e => writePiece c e.1 e.2 false) c

/-- An operation without the first `k` of its writes to one row. -/
def dropRow (row : Nat) : Nat → List (Nat × List Byte) → List (Nat × List Byte)
  | 0, l => l
  | _, [] => []
  | k + 1, e :: t => if inRow row e then dropRow row k t else e :: dropRow row (k + 1) t

/-- Which of the writes to a row that unretired operations have not performed yet are performed before an access to it
(R93, R147, R249): all those of the access's own queue, in order, and of each other queue a free leading part; draw `n` on
decides. Each write is performed as a whole (R144). `behind` holds the queues one of whose writes stays behind. A write that
has been performed stays performed, so that every later access finds it (DESIGN CHOICE, log entry 11). -/
def settleList (own : Option CellQueue) (row : Nat) : List Issued → List CellQueue → Nat → Cell → List Issued × Cell × Nat
  | [], _, n, c => ([], c, n)
  | i :: t, behind, n, c =>
    let all := i.writes.countP (inRow row)
    let k := if own = some i.q then all else if behind.contains i.q then 0 else Config.pick n % (all + 1)
    let (t', c', n') := settleList own row t (if k < all then i.q :: behind else behind)
      (if all = 0 ∨ own = some i.q then n else n + 1) (performRow c row k i)
    ({ i with writes := dropRow row k i.writes } :: t', c', n')

/-- A cell as an access to one of its rows finds it: by one of its queues, or from outside. -/
def settleRow (own : Option CellQueue) (row n : Nat) (c : Cell) : Cell × Nat :=
  let (l, c', n') := settleList own row c.issued [] n c
  ({ c' with issued := l }, n')

/-- A cell as an access to several rows finds it. -/
def settleRows (own : Option CellQueue) (rows : List Nat) (n : Nat) (c : Cell) : Cell × Nat :=
  rows.foldl (fun a r => settleRow own r a.2 a.1) (c, n)

/-- What an operation's reads gave: the cell as they found it, the bytes, the physical rows read, whether one was poisoned,
and the free draws used. -/
structure OpRead where
  cell : Cell
  bytes : List Byte
  rows : List Nat
  poisoned : Bool
  draws : Nat
  deriving DecidableEq, Repr

/-- A tile read of `len` bytes at a tile offset, by an operation of queue `q` (R93, R144, R153). -/
def tileRead (regs : List Region) (c : Cell) (q : CellQueue) (n o len : Nat) : OpRead :=
  let rows := (rowSpan o len).map (tileRow regs c.half)
  let (c', n') := settleRows (some q) rows n c
  { cell := c', bytes := ((rows.flatMap (fun r => readBytes c'.sp (r * rowBytes) rowBytes)).drop (o % rowBytes)).take len
    rows := rows, poisoned := rows.any (fun r => mget false c'.spPoison r), draws := n' }

/-- The pieces of a tile write at a tile offset, by physical offset: none spans two rows. -/
def tilePieces (regs : List Region) (c : Cell) (o : Nat) (bs : List Byte) : List (Nat × List Byte) :=
  (pieces (bs.length / rowBytes + 2) o bs).map (fun e => (tileRow regs c.half (e.1 / rowBytes) * rowBytes + e.1 % rowBytes, e.2))

/-- Performs every write of an operation that is still to be performed, in order. -/
def performWrites (c : Cell) (ws : List (Nat × List Byte)) : Cell := ws.foldl (fun c e => writePiece c e.1 e.2 false) c

/-- An error in a scratchpad row as it is read (R146): corrected and counted, or the row becomes poisoned. -/
def rowError (s : State) (cell row : Nat) (err : BitErr) : State :=
  match err with
  | .clean => s
  | .corrected => countErr (modCell s cell (fun c => { c with spCorrected := c.spCorrected + 1 })) (cell / 16) 6 1
  | .uncorrectable => modCell s cell (fun c => { c with spPoison := mset false c.spPoison row true })

/-- The errors that strike rows of a cell as they are read: `errs` names each by logical cell × 2,048 + physical row. -/
def strikeRows (s : State) (cell : Nat) (rows : List Nat) (errs : RowErrs) : State :=
  (errs.filter (fun e => e.1 / 2048 == cell && rows.contains (e.1 % 2048))).foldl (fun s e => rowError s cell (e.1 % 2048) e.2) s

/-- A span of a cell's scratchpad as an access from outside the cell finds it (R145, R147). -/
def settleSpan (s : State) (cell o n : Nat) : State :=
  let (c, m) := settleRows none (rowSpan o n) s.freeCount (cellOf s cell)
  setCell { s with freeCount := m } cell c

/-! ### Semaphores and credits -/

def semOf (c : Cell) (j : Nat) : Sem := mget Sem.reset c.sem j

/-- A post of `inc` (R163): saturating, with ovf and the SEM_OVF counter; a post of zero has no effect (Table 7-8). -/
def postSem (c : Cell) (j inc : Nat) : Cell :=
  if inc = 0 then c
  else
    let x := semOf c j
    if x.value + inc > 65535 then
      { c with sem := mset Sem.reset c.sem j { value := 65535, ovf := true }, semOvf := c.semOvf + 1 }
    else { c with sem := mset Sem.reset c.sem j { x with value := x.value + inc } }

/-- Whether a post saturates. -/
def postOverflows (c : Cell) (j inc : Nat) : Bool := decide ((semOf c j).value + inc > 65535)

/-- Takes `n` from a semaphore (R103). -/
def takeSem (c : Cell) (j n : Nat) : Cell :=
  let x := semOf c j
  { c with sem := mset Sem.reset c.sem j { x with value := x.value - n } }

def creditOf (c : Cell) (j : Nat) : Credit := mget Credit.reset c.credit j

/-- A credit add (R160): refused above 2,047, with ovf and the CREDIT_OVF counter. -/
def addCredit (c : Cell) (j u : Nat) : Cell :=
  let x := creditOf c j
  if x.value + u > 2047 then
    { c with credit := mset Credit.reset c.credit j { x with ovf := true }, creditOvf := c.creditOvf + 1 }
  else { c with credit := mset Credit.reset c.credit j { x with value := x.value + u } }

/-- Takes landing credits (R159). -/
def takeCredit (c : Cell) (j u : Nat) : Cell :=
  let x := creditOf c j
  { c with credit := mset Credit.reset c.credit j { x with value := x.value - u } }

/-- Sets the synchronisation state of a cell from a layout block (R152): semaphores, credits and current-half bits. -/
def initSync (img : List Byte) (c : Cell) : Cell :=
  { c with
    sem := ((List.range 64).map (fun j => (j, { value := semInit img j : Sem }))).filter (fun e => decide (e.2 ≠ Sem.reset))
    credit := ((List.range 32).map (fun j => (j, { value := creditInit img j : Credit }))).filter (fun e => decide (e.2 ≠ Credit.reset))
    half := [] }

/-! ### Aborting the running step at the next tick -/

/-- Marks a context's step for abort at the next tick (R44, R110, R160, R163, R278). -/
def abortCtx (s : State) (c : Nat) (cause : AbortCause) : State :=
  modCtx s c (fun x => if x.inFlight.isSome && !x.abortNext.contains cause then { x with abortNext := x.abortNext ++ [cause] } else x)

/-- Marks the running context's step. -/
def abortRunning (s : State) (cause : AbortCause) : State :=
  match s.residency.current with | some c => abortCtx s c cause | none => s

/-- Applies a post to a semaphore of a cell: the count, and the abort of a saturating one (R163). -/
def applyPost (s : State) (cell j inc : Nat) : State :=
  let exceeds := postOverflows (cellOf s cell) j inc
  let s1 := modCell s cell (fun c => postSem c j inc)
  if exceeds && decide (inc ≠ 0) then abortRunning s1 .overflow else s1

/-- Applies a credit add to a counter of a cell (R160). -/
def applyCredit (s : State) (cell j u : Nat) : State :=
  let exceeds := decide ((creditOf (cellOf s cell) j).value + u > 2047)
  let s1 := modCell s cell (fun c => addCredit c j u)
  if exceeds then abortRunning s1 .overflow else s1

/-! ### Where poison came from (R278) -/

/-- The source entry of a context that holds an address. -/
def entryOf (x : Ctx) (a : Nat) : Option SourceEntry :=
  x.sources.find? (fun e => decide (e.base ≤ a) && decide (a < e.base + e.size))

/-- The page of a context's table whose frame holds an address: normal frames span frame_lines lines, spill frames 35. -/
def pageOf (x : Ctx) (a : Nat) : Option Nat :=
  x.pages.findIdx? (fun p => decide (p.frame ≤ a) && decide (a < p.frame + 128 * (if p.spill then 35 else x.params.frameLines)))

/-- The class of a poisoned address: weight, KV page (one that a session owns or a step has claimed), or transient (R278). -/
def poisonClass (x : Ctx) (a : Nat) : AbortCause :=
  match pageOf x a with
  | some p => if x.pages[p]?.any (fun g => g.mapped && (g.state == .owned || g.state == .tentative)) then .poisonKv p else .poisonTransient (some a)
  | none => match entryOf x a with
    | some e => if e.kind = 0 then .poisonWeight a else .poisonTransient (some a)
    | none => .poisonTransient none

/-- The addresses of the error records of an engine whose data came back poisoned in some frame from `since` on, newest first (R188). -/
def poisonRecords (since : Nat) (e : Eng) : List Nat :=
  let ord := (List.range 16).map (fun k => (e.errTotal + 31 - k) % 16)
  ord.filterMap (fun i =>
    (e.errs.find? (fun p => p.1 == i)).bind (fun p =>
      if decide (since ≤ p.2.frame) && (p.2.status == 0x0501 || p.2.status == 0x0502 || p.2.status == 0x0503 || p.2.status == 0x0504) && p.2.address != 0
      then some p.2.address else none))

/-- The cause that a poison consumption in a cell is traced to, among the records made since its step began: the newest of the cell's
mover, else of its cluster's gather engine, else of another engine, which may have written the cell's windows; without one, a
scratchpad row with no poisoned source, which is transient (DESIGN CHOICE, log entry 73). -/
def tracePoison (s : State) (cell : Nat) : AbortCause :=
  match runningCtx s with
  | none => .poisonTransient none
  | some x =>
    let since := match x.inFlight with | some t => t.startFrame | none => 0
    let others := s.cells.flatMap (fun e => poisonRecords since e.2.mover) ++ s.clusters.flatMap (fun e => poisonRecords since e.2.gather)
    match poisonRecords since (cellOf s cell).mover ++ poisonRecords since (clusterOf s (cell / 16)).gather ++ others with
    | a :: _ => poisonClass x a
    | [] => .poisonTransient none

end Sys2Proof.Machine
end

