-- ==== Sys2Proof/Machine/SpareMap.lean ====
section
/-! DEFINITION. Machine/SpareMap.lean: the spare map in the sinter journal (R32, R384): what its records hold, their writing when a part is
retired, and their application at boot. -/

namespace Sys2Proof.Machine

open Sys2Proof

/-! ### The parts that a record lists

Table 16-13 gives the record's keys and leaves the values open, and compaction keeps the latest record of each key alone (R388): each
record lists every part of its key, 8 bytes a part: the row of Table 1-8, three bytes and four bytes that name it (DESIGN CHOICE, log
entry 20). -/

def partEntry (row a b : Nat) : List Byte := leBytes row 1 ++ leBytes a 3 ++ leBytes b 4

/-- Key 0x8000: clusters, caldera ways, stacks out of service, control cores. -/
def sparedParts (s : State) : List Byte :=
  (s.clusters.filter (fun e => e.2.spareUsed || e.2.failed)).flatMap (fun e => partEntry 0 e.1 (e.2.spareSlot + 256 * b2n e.2.spareUsed + 512 * b2n e.2.failed))
    ++ s.mem.sets.flatMap (fun e => e.2.retired.flatMap (fun w => partEntry 1 e.1 w))
    ++ (s.mem.stackUnits.filter (fun e => e.2.state == .outOfService)).flatMap (fun e => partEntry 2 e.1 0)
    ++ (if s.health.coresDie0 = 0xF ∧ s.health.coresDie1 = 0xF then [] else partEntry 6 0 (s.health.coresDie0 + 16 * s.health.coresDie1))

/-- Key 0x8001: failed lanes of the stack links, the viaduct's counts, failed lanes of the ports. -/
def failedLaneParts (s : State) : List Byte :=
  s.mem.stackUnits.flatMap (fun e => e.2.txFailed.flatMap (fun l => partEntry 2 e.1 l) ++ e.2.rxFailed.flatMap (fun l => partEntry 2 (e.1 + 256) l))
    ++ s.mem.viaductLanes.flatMap (fun e => partEntry 3 e.1 e.2) ++ s.ports.flatMap (fun e => e.2.failedLanes.flatMap (fun l => partEntry 4 e.1 l))

/-- Keys 0x8002 and 0x8003: repaired rows and retired blocks of the stacks. -/
def repairedParts (s : State) : List Byte := s.mem.stackUnits.flatMap (fun e => e.2.repaired.flatMap (fun r => partEntry 5 e.1 r))
def retiredParts (s : State) : List Byte := s.mem.stackUnits.flatMap (fun e => e.2.retired.flatMap (fun b => partEntry 5 e.1 b))

def keyParts (s : State) (key : Nat) : List Byte :=
  match key with
  | 0x8000 => sparedParts s
  | 0x8001 => failedLaneParts s
  | 0x8002 => repairedParts s
  | _ => retiredParts s

/-! ### Writing (R32, R385) -/

/-- A record of the map as it stands; the place of the spare map's own record is noted (Table 18-14). -/
def journalMap (s : State) (key : Nat) : State :=
  let s1 := journalWrite s key (keyParts s key)
  if key = 0x8000 then { s1 with health := { s1.health with spareMapSeq := nextSeq s } } else s1

/-- A part is retired: the record, then the report (R32). -/
def spareRecord (s : State) (key row unit : Nat) : State := spareUsed (journalMap s key) row unit

/-- A failure of a stack's own: it goes out of service, and the map says so. -/
def retireStack (s : State) (k : Nat) : State := journalMap (stackOutOfService s k) 0x8000

/-! ### Application at boot (R32, Table 16-9 step 8) -/

/-- One part of a record. -/
def applyPart (key : Nat) (s : State) (e : List Byte) : State :=
  let a := fieldAt e 1 3
  let b := fieldAt e 4 4
  match key, fieldAt e 0 1 with
  | 0x8000, 0 => modCluster s a (fun x => { x with spareSlot := b % 256, spareUsed := bit b 8, failed := bit b 9 })
  | 0x8000, 1 => setCalSet s a { calSetOf s a with retired := (calSetOf s a).retired ++ [b] }
  | 0x8000, 2 => modStack s a (fun x => { x with state := .outOfService })
  | 0x8000, _ => { s with health := { s.health with coresDie0 := b % 16, coresDie1 := b / 16 % 16 } }
  | 0x8001, 2 => modStack s (a % 256) (fun x => if a < 256 then { x with txFailed := x.txFailed ++ [b] } else { x with rxFailed := x.rxFailed ++ [b] })
  | 0x8001, 3 => { s with mem := { s.mem with viaductLanes := mset 0 s.mem.viaductLanes a b } }
  | 0x8001, _ => { s with ports := mmod Port.reset s.ports a (fun x => { x with failedLanes := x.failedLanes ++ [b] }) }
  | 0x8002, _ => modStack s a (fun x => { x with repaired := x.repaired ++ [b], spareRows := madd x.spareRows (b / 16384) 1 })
  | _, _ => modStack s a (fun x => { x with retired := x.retired ++ [b] })

/-- A journal's latest record of a key, applied. -/
def applyRecord (l : List JRec) (s : State) (key : Nat) : State :=
  match (l.filter (fun r => r.key == key)).getLast? with
  | none => s
  | some r =>
    let s1 := ((List.range (r.value.length / 8)).map (fun i => (r.value.drop (8 * i)).take 8)).foldl (applyPart key) s
    if key = 0x8000 then { s1 with health := { s1.health with spareMapSeq := r.seq } } else s1

/-- The spare map of a journal. -/
def applySpareMap (l : List JRec) (s : State) : State := [0x8000, 0x8001, 0x8002, 0x8003].foldl (applyRecord l) s

end Sys2Proof.Machine
end

