-- ==== Sys2Proof/WellFormed.lean ====
section
/-! DEFINITION. WellFormed.lean: the ranges of the operands that the spec's encodings give (Tables 4-5 to 4-12, 13-3,
14-10 and the parameter tables of chapter 15). -/

namespace Sys2Proof

/-- A logical cell identifier, a cluster, an engine (R1, R26). -/
def cellOk (c : Nat) : Bool := decide (c < 4096)
def clusterOk (n : Nat) : Bool := decide (n < 256)
def Engine.ok : Engine → Bool
  | .mover c => cellOk c
  | .gather n => clusterOk n
  | .packer n => clusterOk n

def vOk (v : Nat) : Bool := decide (v < 8)
def aOk (a : Nat) : Bool := decide (a < 16)
def kOk (k : Nat) : Bool := decide (k < 4)

/-- Fields of MMA RUN (Table 4-5): their ranges, with the scale register of an operand that is in no block format zero. -/
def RunOp.inRange (f : RunOp) : Bool :=
  let block (c : Nat) : Bool := decide (6 ≤ c ∧ c ≤ 13)
  decide (f.fmtA ≠ 14) && decide (f.fmtA ≤ 15) && decide (f.fmtB ≠ 14) && decide (f.fmtB ≤ 15)
    && aOk f.raElem && aOk f.raScale && aOk f.rbElem && aOk f.rbScale
    && (block f.fmtA || decide (f.raScale = 0)) && (block f.fmtB || decide (f.rbScale = 0))
    && decide (f.mMinus1 < 128) && decide (f.bank < 2) && decide (f.accRow + f.mMinus1 + 1 ≤ 128)
    && decide (1 ≤ f.kUnits) && decide (f.kUnits < 65536)

/-- R66 and R87: both operands of one multiply class, neither FP32 nor UNTYPED, no block format on a transposed feed. -/
def RunOp.classOk (f : RunOp) : Bool :=
  decide (1 ≤ f.fmtA ∧ f.fmtA ≤ 13) && decide (1 ≤ f.fmtB ∧ f.fmtB ≤ 13)
    && (decide (3 ≤ f.fmtA ∧ 3 ≤ f.fmtB) || decide (f.fmtA = f.fmtB))
    && !(f.ta && decide (5 < f.fmtA)) && !(f.tb && decide (5 < f.fmtB))

/-- R67: K is a multiple of the block size of each block operand. -/
def RunOp.aligned (f : RunOp) : Bool :=
  let whole (c : Nat) : Bool := decide (c < 6) || decide (f.kUnits * 8 % (if c < 10 then 32 else 16) = 0)
  whole f.fmtA && whole f.fmtB

/-- A MMA RUN that SCHED_LOAD accepts. -/
def RunOp.ok (f : RunOp) : Bool := f.inRange && f.classOk && f.aligned

/-- The fusions that take an operand at rf (Table 4-7). -/
def fusionOperand (n : Nat) : Bool := decide (1 ≤ n ∧ n ≤ 4) || decide (n = 8 ∨ n = 9)

/-- Fields of MMA DRAIN (Table 4-6, Table 4-13): their ranges. -/
def DrainOp.inRange (f : DrainOp) : Bool :=
  decide (f.fmtOut ≤ 13) && aOk f.rdElem && aOk f.rdScale && (decide (6 ≤ f.fmtOut) || decide (f.rdScale = 0))
    && decide (f.fusion ≤ 9) && aOk f.rf && (fusionOperand f.fusion || decide (f.rf = 0))
    && decide (f.bank < 2) && decide (f.rowsMinus1 < 128) && decide (f.accRow + f.rowsMinus1 + 1 ≤ 128)
    && decide (f.statMode < 3) && decide (f.statSlot < 8) && (decide (f.statMode ≠ 0) || decide (f.statSlot = 0))
    && decide (1 ≤ f.outPitch) && decide (f.outPitch < 4096)

/-- The scale pitch of a block format is a whole number of bytes (R96, Table 4-13). -/
def DrainOp.aligned (f : DrainOp) : Bool :=
  decide (f.fmtOut < 6)
    || decide (16 * f.outPitch * 8 % ((if f.fmtOut = 8 ∨ f.fmtOut = 12 then 4 else 8) * (if f.fmtOut < 10 then 32 else 16)) = 0)

/-- A MMA DRAIN that SCHED_LOAD accepts. -/
def DrainOp.ok (f : DrainOp) : Bool := f.inRange && f.aligned

/-- The range of every field of a tile operation (Tables 4-4 to 4-13). -/
def TileOp.ok : TileOp → Bool
  | .run f => f.ok
  | .drain f => f.ok
  | .vld vd ra fmt _ => vOk vd && aOk ra && decide (fmt ≤ 13)
  | .vst v ra fmt _ _ => vOk v && aOk ra && decide (fmt ≤ 13)
  | .vadd a b c => vOk a && vOk b && vOk c
  | .vsub a b c => vOk a && vOk b && vOk c
  | .vmul a b c => vOk a && vOk b && vOk c
  | .vfma a b c d => vOk a && vOk b && vOk c && vOk d
  | .vmax a b c => vOk a && vOk b && vOk c
  | .vmin a b c => vOk a && vOk b && vOk c
  | .vmov a b => vOk a && vOk b
  | .vabs a b => vOk a && vOk b
  | .vneg a b => vOk a && vOk b
  | .vbcast a _ => vOk a
  | .vaddi a b _ => vOk a && vOk b
  | .vmuli a b _ => vOk a && vOk b
  | .vrsum a b => vOk a && vOk b
  | .vrmax a b => vOk a && vOk b
  | .vmsk a b ra _ => vOk a && vOk b && aOk ra
  | .exp2 a b => vOk a && vOk b
  | .log2 a b => vOk a && vOk b
  | .statClr _ => true
  | .statMax slot v lanes => vOk slot && vOk v && decide (1 ≤ lanes) && decide (lanes ≤ 64)
  | .statSum slot v lanes => vOk slot && vOk v && decide (1 ≤ lanes) && decide (lanes ≤ 64)
  | .statRead slot v => vOk slot && vOk v
  | .moveDesc ra => aOk ra
  | .moveFlags ra => aOk ra
  | .semWait sem n _ => decide (sem < 64) && decide (1 ≤ n) && decide (n < 65536)
  | .semPost sem inc remote cell => decide (sem < 64) && decide (1 ≤ inc) && decide (inc < 65536) && cellOk cell && (remote || decide (cell = 0))
  | .swap r => decide (r < 16)
  | .loopBegin k body => kOk k && decide (1 ≤ body) && decide (body ≤ 256)
  | .loopKset k v => kOk k && decide (v < 65536)
  | .loopAset a _ => aOk a
  | .loopAadd a _ => aOk a
  | .fence m => decide (m ≠ 0)

/-- A source of accesses (R365): an owner tag of a partition or of the firmware domain, and a cluster. -/
def Source.ok (x : Source) : Bool := decide (x.owner < 9) && clusterOk x.cluster

/-! ### Fields of packets, messages and registers -/

def u8 (n : Nat) : Bool := decide (n < 2 ^ 8)
def u16 (n : Nat) : Bool := decide (n < 2 ^ 16)
def u32 (n : Nat) : Bool := decide (n < 2 ^ 32)
def u48 (n : Nat) : Bool := decide (n < 2 ^ 48)
def u64 (n : Nat) : Bool := decide (n < 2 ^ 64)

def fnOk (fn : Nat) : Bool := decide (fn < 9)
def portOk (p : Nat) : Bool := decide (p < 14)
def stackOk (k : Nat) : Bool := decide (k < 24)

/-- What a packet header can hold (Table 14-10): nine functions, 256 queues, rings of at most 4,096 entries. -/
def CmdHdr.ok (h : CmdHdr) : Bool :=
  fnOk h.fn && u8 h.queue && decide (h.sqPos < 4096) && u32 h.tag && u16 h.alive && decide (h.partition < 9)

/-- What an entry of Table 9-6 can hold. -/
def RangeEntry.ok (e : RangeEntry) : Bool := u48 e.base && u64 e.size && u8 e.owner && decide (e.hint < 4) && u16 e.context

/-- What an entry of Table 12-3 can hold. -/
def SourceEntry.ok (e : SourceEntry) : Bool := u48 e.base && u64 e.size && u48 e.host && u8 e.kind && decide (e.hint < 4)

def CtxCreateParams.ok (p : CtxCreateParams) : Bool :=
  u8 p.requestedId && u8 p.priority && u8 p.frameLines && u32 p.pageEntries && u32 p.sessionSlots && u16 p.descUnits && u16 p.imageUnits && u16 p.dirUnits
    && u16 p.saveUnits && decide (p.sources.length < 256) && p.sources.all SourceEntry.ok

def GroupFormParams.ok (p : GroupFormParams) : Bool :=
  u32 p.groupId && u8 p.size && u8 p.rank && u8 p.source && decide (p.keystoneOrder.length = 4) && p.keystoneOrder.all u8
    && decide (p.portMap.length = 14) && p.portMap.all u8 && decide (p.identities.length = p.size) && p.identities.all (fun b => decide (b.length = 16))

def FrameParams.ok (p : FrameParams) : Bool := u8 p.periodUs && u8 p.quantumUs && u8 p.maxQuanta && u8 p.lateLead && u8 p.source

def EncodeParams.ok (p : EncodeParams) : Bool :=
  u8 p.context && u8 p.format && u8 p.modeReq && u8 p.slot && u8 p.decUnits && u16 p.seqBase && u32 p.count && u64 p.src && u64 p.dst && u64 p.dstBytes && u64 p.index

def CvRunParams.ok (p : CvRunParams) : Bool := u8 p.stream && u8 p.poly && u16 p.alive && u64 p.src && u64 p.bytes

/-- A message header (Table 13-5): at most 256 bytes of data. -/
def Msg.ok (m : Msg) : Bool :=
  portOk m.port && u8 m.srcRank && u8 m.dstRank && u8 m.partition && u16 m.context && u64 m.addr && u16 m.length && u32 m.opId && u48 m.frame
    && decide (m.body.length = 16) && decide (m.data.length ≤ 4096)

def PhaseEnd.ok : PhaseEnd → Bool
  | .passed bad epoch id port prk => bad.all (fun l => decide (l < 9)) && u32 epoch && decide (id.length = 16) && u8 port && decide (prk.length = 48)
  | .timedOut => true
  | .failed => true

def HangUnit.ok : HangUnit → Bool
  | .cell c => cellOk c
  | .mover c => cellOk c
  | .gather n => clusterOk n
  | .packer n => clusterOk n
  | .expander n => clusterOk n
  | .port p => portOk p

/-- The units of a reset domain class (Table 18-6). -/
def Domain.ok (d : Domain) : Bool :=
  match d.cls with
  | 0 => cellOk d.number
  | 1 => clusterOk d.number
  | 2 => decide (d.number < 770)
  | 3 => decide (d.number < 32)
  | 4 => decide (d.number < 2)
  | 5 => decide (d.number = 0)
  | _ => false

/-! ### Steps -/

/-- A command of the packet interface whose header and fields fit their packet. -/
def commandFits : Instr → Bool
  | .nop h => h.ok
  | .identify h dst => h.ok && u64 dst
  | .capRead h id dst => h.ok && u16 id && u64 dst
  | .queueCreate h a b c d v => h.ok && u64 a && u64 b && u8 c && u8 d && u8 v
  | .queueDelete h q => h.ok && u8 q
  | .partCreate h p k m0 m1 c q => h.ok && u8 p && u8 k && u16 m0 && u16 m1 && u8 c && u8 q
  | .partDestroy h p _ => h.ok && u8 p
  | .keyInstall h b => h.ok && u16 b.length
  | .dumpKeySet h b => h.ok && u16 b.length
  | .attestQuote h n m d l => h.ok && decide (n.length = 32) && u64 m && u64 d && u32 l
  | .fwStage h a n => h.ok && u64 a && u32 n
  | .fwActivate h _ => h.ok
  | .bulkLoad h a b n => h.ok && u64 a && u64 b && u64 n
  | .bulkStore h a b n => h.ok && u64 a && u64 b && u64 n
  | .calderaInval h a n => h.ok && u64 a && u64 n
  | .rangeAttr h k e => h.ok && u8 k && e.ok
  | .scrubRange h a n m => h.ok && u64 a && u64 n && u8 m
  | .kvPagesMap h c o p n l => h.ok && u8 c && u8 o && u8 p && u32 n && u64 l
  | .tableLoad h c r => h.ok && u8 c && decide (r.length = 2064)
  | .tableActivate h c k f => h.ok && u8 c && u8 k && u48 f
  | .encodeRange h p => h.ok && p.ok
  | .decodeCheck h c w u n a => h.ok && u8 c && u8 w && u8 u && u32 n && u64 a
  | .ctxCreate h p => h.ok && p.ok
  | .ctxDestroy h c _ => h.ok && u8 c
  | .ctxPin h c p => h.ok && u8 c && u8 p
  | .ctxEvict h c => h.ok && u8 c
  | .ctxQuery h c d => h.ok && u8 c && u64 d
  | .acctRead h k i d => h.ok && u8 k && u8 i && u64 d
  | .schedLoad h c a n => h.ok && u8 c && u64 a && u64 n
  | .schedUnload h c b => h.ok && u8 c && u8 b
  | .stepSubmit h c n a => h.ok && u8 c && u32 n && u64 a
  | .kernelLaunch h c b i o => h.ok && u8 c && u8 b && u64 i && u64 o
  | .stepAbort h c q => h.ok && u8 c && u32 q
  | .frameConfig h p => h.ok && p.ok
  | .groupForm h p => h.ok && p.ok
  | .groupLeave h => h.ok
  | .linkTrain h m o => h.ok && u16 m && u8 o
  | .linkKeyRotate h m _ => h.ok && u16 m
  | .memberExclude h r => h.ok && u8 r
  | .powerCapSet h c => h.ok && u16 c
  | .powerPrioritySet h a b c => h.ok && u8 a && u8 b && u8 c
  | .powerRead h d => h.ok && u64 d
  | .vfTableRead h d => h.ok && u64 d
  | .calibrate h => h.ok
  | .cvRun h p => h.ok && p.ok
  | .cvSave h k d => h.ok && u8 k && u64 d
  | .cvRestore h k a => h.ok && u8 k && u64 a
  | .resetDomain h c n => h.ok && u8 c && u16 n
  | .healthRead h d n => h.ok && u64 d && u32 n
  | .hangPolicySet h a => h.ok && u8 a
  | .spareMapRead h d => h.ok && u64 d
  | .marginRun h k i d => h.ok && u8 k && u8 i && u64 d
  | .traceConfig h e r n => h.ok && u32 e && u64 r && u32 n
  | .counterRead h c f n d => h.ok && u8 c && u16 f && u16 n && u64 d
  | .waitgraphRead h d n => h.ok && u64 d && u32 n
  | .dumpRead h k d n => h.ok && u16 k && u64 d && u32 n
  | .stepGate h o n => h.ok && u8 o && u16 n
  | .cfgRead h k => h.ok && u16 k
  | .cfgWrite h k v => h.ok && u16 k && u64 v
  | .cfgCompact h k => h.ok && u8 k
  | _ => true

/-- A step of a cell: its cell exists, and its fields are in range (Tables 4-4 to 4-13). -/
def cellStepFits : Instr → Bool
  | .mmaRun c f _ => cellOk c && f.ok
  | .mmaDrain c f _ => cellOk c && f.ok
  | .vld c vd ra fmt imm _ => cellOk c && (TileOp.vld vd ra fmt imm).ok
  | .vst c v ra fmt sat imm => cellOk c && (TileOp.vst v ra fmt sat imm).ok
  | .vadd c d a b => cellOk c && vOk d && vOk a && vOk b
  | .vsub c d a b => cellOk c && vOk d && vOk a && vOk b
  | .vmul c d a b => cellOk c && vOk d && vOk a && vOk b
  | .vfma c d a b e => cellOk c && vOk d && vOk a && vOk b && vOk e
  | .vmax c d a b => cellOk c && vOk d && vOk a && vOk b
  | .vmin c d a b => cellOk c && vOk d && vOk a && vOk b
  | .vmov c d a => cellOk c && vOk d && vOk a
  | .vabs c d a => cellOk c && vOk d && vOk a
  | .vneg c d a => cellOk c && vOk d && vOk a
  | .vbcast c d _ => cellOk c && vOk d
  | .vaddi c d a _ => cellOk c && vOk d && vOk a
  | .vmuli c d a _ => cellOk c && vOk d && vOk a
  | .vrsum c d a => cellOk c && vOk d && vOk a
  | .vrmax c d a => cellOk c && vOk d && vOk a
  | .vmsk c d a ra _ _ => cellOk c && vOk d && vOk a && aOk ra
  | .exp2 c d a => cellOk c && vOk d && vOk a
  | .log2 c d a => cellOk c && vOk d && vOk a
  | .statClr c _ => cellOk c
  | .statMax c k v n => cellOk c && (TileOp.statMax k v n).ok
  | .statSum c k v n => cellOk c && (TileOp.statSum k v n).ok
  | .statRead c k v => cellOk c && vOk k && vOk v
  | .moveDesc c ra _ => cellOk c && aOk ra
  | .moveFlags c ra => cellOk c && aOk ra
  | .semWait c m n p => cellOk c && (TileOp.semWait m n p).ok
  | .semWaitGrant c m => cellOk c && decide (m < 64)
  | .semPost c m n r t => cellOk c && (TileOp.semPost m n r t).ok
  | .swap c r => cellOk c && decide (r < 16)
  | .loopBegin c k b => cellOk c && (TileOp.loopBegin k b).ok
  | .loopKset c k v => cellOk c && (TileOp.loopKset k v).ok
  | .loopAset c a _ => cellOk c && aOk a
  | .loopAadd c a _ => cellOk c && aOk a
  | .fence c m => cellOk c && decide (m ≠ 0)
  | .sequencerWaitEnd c _ => cellOk c
  | .operationRetire c _ => cellOk c
  | _ => true

/-- A mesh error names a router of the module (R11). -/
def MeshErr.ok : MeshErr → Bool
  | .corrected r => decide (r < 288)
  | _ => true

/-- A message of a link, an engine's step, an access or a register step whose operands name what exists. -/
def unitStepFits : Instr → Bool
  | .windowWrite x a d _ m => x.ok && m.ok && u48 a && decide (0 < d.length)
  | .windowRead x a _ m => x.ok && m.ok && u48 a
  | .windowWriteAck e _ _ => e.ok
  | .put x a d _ => x.ok && u48 a && decide (0 < d.length)
  | .get x a n _ => x.ok && u48 a && decide (0 < n)
  | .semAdd x c m n => x.ok && cellOk c && decide (m < 64) && u16 n
  | .creditAdd x c k n => x.ok && cellOk c && decide (k < 32) && decide (n < 2048)
  | .descriptorAdmit e _ => e.ok
  | .transferIssue e _ _ => e.ok
  | .transferComplete e _ _ => e.ok
  | .farTierTimeout n _ => clusterOk n
  | .blockDecode e _ => e.ok
  | .blockPack n _ _ => clusterOk n
  | .calderaRead x a _ m => x.ok && m.ok && u48 a
  | .calderaWrite x a d _ m => x.ok && m.ok && u48 a && decide (0 < d.length)
  | .rowRepair k _ => stackOk k
  | .stackLinkFlitError k g _ => stackOk k && decide (g < 64)
  | .viaductFlitError q => decide (q < 4)
  | .stackLinkRetrain k _ _ => stackOk k
  | .atomic x _ _ a _ _ => x.ok && u48 a
  | .lineReduction x _ a d => x.ok && u48 a && decide (d.length = 128)
  | .calderaWayRetire d l m w => decide (d < 2) && decide (l < 16) && decide (m < 6144) && decide (w < 17)
  | .dieError d => decide (d < 2)
  | .droop d => decide (d < 2)
  | .hxDbell f q _ _ => fnOk f && u8 q
  | .hxCqdb f q _ => fnOk f && u8 q
  | .hxEvqHead f _ => fnOk f
  | .ringEnable f _ v c q => fnOk f && u8 v && decide (c < 16) && decide (q < 16)
  | .ringDisable f _ => fnOk f
  | .rcRegisterRead f _ => decide (f < 10)
  | .hxPwrAlarm f _ => fnOk f
  | .registerWrite f _ _ => decide (f < 10)
  | .packetFetch q => u8 q
  | .longCommandEnd q p => u8 q && decide (p < 4096)
  | .flr f => fnOk f
  | .flitReceive p raw _ => portOk p && decide (raw.length = 256)
  | .recordReceive p v => portOk p && decide (v < 4)
  | .write m => m.ok
  | .reduce m => m.ok
  | .readReq m => m.ok
  | .readResp m => m.ok
  | .post m => m.ok
  | .fenceReq m => m.ok
  | .fenceAck m => m.ok
  | .tickMessage _ m => m.ok
  | .plan _ m => m.ok
  | .late m => m.ok
  | .heartbeat m => m.ok
  | .abort m => m.ok
  | .group m => m.ok
  | .fecLockLoss p l => portOk p && decide (l < 16)
  | .laneErrorRate p l => portOk p && decide (l < 16)
  | .trainingPhase p n e => portOk p && decide (1 ≤ n ∧ n ≤ 5) && e.ok
  | .keyRotation p _ => portOk p
  | .hangDetect x => x.ok
  | .coreHeartbeatMiss d c _ => decide (d < 2) && decide (c < 4)
  | .resetComplete d _ => d.ok
  | .resetTimeout d => d.ok
  | .railFault k => decide (1 ≤ k ∧ k ≤ 10)
  | .setdasa a b => decide (a < 128) && decide (b < 128)
  | .entdaa b => decide (b < 128)
  | .sensorDisagree p _ _ => decide (p < 2)
  | .thermalSample d k => decide (d.length = 32) && decide (k.length = 24)
  | .challenge k n => u8 k && decide (n.length = 32)
  | .getMeasurements k _ n => u8 k && decide (n.length = 32 ∨ n = [])
  | .keyExchange k x => u8 k && decide (x.length = 96)
  | .getCertificate k o n => u8 k && u16 o && u16 n
  | .getSlhCert o n => u16 o && u16 n
  | _ => true

/-- A step whose operands fit what carries them. Steps without operands, or whose operands may have any value, are well
formed as they stand. -/
def Instr.ok (i : Instr) : Bool := commandFits i && cellStepFits i && unitStepFits i

end Sys2Proof
end

