-- ==== Sys2Proof/Machine/Memory.lean ====
section
/-! DEFINITION. Machine/Memory.lean: the steps of the caldera, the memory agents, the stack feet, the viaduct and the
CXL.mem port (chapter 09, R19, R31, R322, R323). What a reading step delivers stands in `State.resp`. -/

namespace Sys2Proof.Machine

open Sys2Proof

/-- The answer of a reading access. -/
def answer (s : State) (d : LineData) (status : Nat) : State := { s with resp := { data := d.data, poison := d.poison, status := status } }
def answerStatus (s : State) (status : Nat) : State := { s with resp := { data := [], poison := false, status := status } }

/-- A bit that a router corrects in a packet is counted there (R17). -/
def meshStrike (s : State) : MeshErr → State
  | .corrected r => { s with mem := { s.mem with routerCorrected := madd s.mem.routerCorrected r 1 } }
  | _ => s

/-- CALDERA_READ: a class A read of one line at its home slice (R22, R209, R210), under the guard (R366). `err` is an SRAM
error in the held line, `mesh` an error of the mesh that carries the line (R17). -/
def execCalderaRead (src : Source) (addr : Nat) (err : BitErr) (mesh : MeshErr) (s : State) : Host.Outcome State Fault Refusal :=
  if !src.ok || !mesh.ok then .refused (.noSuchUnit "source or router")
  else
    let (s1, d, st) := classARead s src addr err
    if st = stNotPermitted then .next (answer s1 d st)
    else .next (if mesh = .uncorrectable then answer s1 poisonLine stUncorrectable else answer (meshStrike s1 mesh) d st)

/-- CALDERA_WRITE: a class A write within one line (R209, R210, R212, R323); an uncorrectable mesh error poisons its data (R17). -/
def execCalderaWrite (src : Source) (addr : Nat) (data : List Byte) (poison : Bool) (mesh : MeshErr) (s : State) : Host.Outcome State Fault Refusal :=
  if !src.ok || !mesh.ok || data.isEmpty || decide (128 < addr % 128 + data.length) then .refused (.noSuchUnit "source, router or extent")
  else
    let (s1, st) := classAWrite (meshStrike s mesh) src addr data (poison || mesh == .uncorrectable)
    .next (answerStatus s1 st)

/-! ### Fills, stack reads and writes -/

/-- LINE_FILL (R211): a line fetched from DRAM goes into its owner's allocation mask under the hint of its range (DEDUCED, log entry 70). -/
def execLineFill (addr owner : Nat) (s : State) : Host.Outcome State Fault Refusal :=
  if 8 < owner then .refused (.noSuchUnit "owner")
  else if !inStacks addr 1 || decide (ownerAt s addr ≠ owner) then .next (guardFault s owner)
  else if (calFind s (addr / 128)).isSome then .next s
  else
    let (s1, d) := agentRead s (addr / 128) []
    let h := hintAt s addr
    .next (calFill s1 (addr / 128) owner (h == 2) false d (h != 1)).1

/-- Whether a pattern of wrong symbols lies within a codeword. -/
def errsOk (errs : List (Nat × Byte)) : Bool := errs.all (fun e => decide (e.1 < 144))

/-- STACK_READ (R195, R198, R202, R204, R470): a read of a line at its memory agent and stack foot; `errs` are the wrong
symbols it finds. -/
def execStackRead (addr owner : Nat) (errs : List (Nat × Byte)) (s : State) : Host.Outcome State Fault Refusal :=
  if 8 < owner || !errsOk errs then .refused (.noSuchUnit "owner or symbol")
  else if !inStacks addr 1 || decide (ownerAt s addr ≠ owner) then .next (answer (guardFault s owner) poisonLine stNotPermitted)
  else
    let (s1, d) := agentRead s (addr / 128) errs
    .next (answer s1 d (if d.poison then stUncorrectable else 0))

/-- STACK_WRITE (R195, R198, R201, R204): a write of a whole line. -/
def execStackWrite (addr owner : Nat) (data : List Byte) (poison : Bool) (s : State) : Host.Outcome State Fault Refusal :=
  if 8 < owner || decide (data.length ≠ 128) || decide (addr % 128 ≠ 0) then .refused (.noSuchUnit "owner or extent")
  else if !inStacks addr 1 || decide (ownerAt s addr ≠ owner) then .next (answerStatus (guardFault s owner) stNotPermitted)
  else .next (answerStatus (agentWrite s (addr / 128) data poison) 0)

/-! ### Repair, retirement and scrub -/

/-- The listed lines of a row of a stack. -/
def rowLines (s : State) (k row : Nat) : List Nat :=
  (s.mem.lines.map (·.1)).filter (fun l => stackNo (128 * l) == k && rowKey (128 * l) == row)

/-- Copies one line to the spare row: corrected where that is possible, as poison where it is not (R203). -/
def copyLine (s : State) (line : Nat) : State :=
  let m := metaOf s line
  match eccDecode (lineDiff m) with
  | .decoded _ left => setMeta s line { m with errs := errsFor m left }
  | _ =>
    let s1 := setMeta s line { m with poison := true, errs := [] }
    { s1 with mem := { s1.mem with bytes := zeroBytes s1.mem.bytes (128 * line) 128 } }

/-- The 64 KiB block that holds a row: the one address of the row whose hash gives its bank and pseudo-channel (R197). -/
def blockOfRow (k row : Nat) : Nat :=
  let bank := row / 16384 % 64
  let r := row % 16384
  let raw := bank ^^^ bits r 8 6
  blockOf (k * stackSize + r * 2 ^ 22 + raw * 2 ^ 16)

/-- ROW_REPAIR (R203, R204): a row marked for repair is copied to a spare row of its bank; with no spare row left its block
is retired. Either is journalled before it is reported (R32). A row that is not marked stays as it is (DEDUCED, log entry 71). -/
def execRowRepair (stack row : Nat) (s : State) : Host.Outcome State Fault Refusal :=
  if 24 ≤ stack || decide (2 ^ 26 ≤ row) then .refused (.noSuchUnit "row")
  else
    let k := stackOf s stack
    if !k.marked.contains row then .next s
    else
      let bank := row / 16384
      let used := mget 0 k.spareRows bank
      let k1 := { k with marked := k.marked.filter (fun r => r != row) }
      if used < 16 then
        let s1 := (rowLines s stack row).foldl copyLine s
        let s2 := setStack s1 stack { k1 with spareRows := mset 0 k1.spareRows bank (used + 1), repaired := k1.repaired ++ [row] }
        .next (spareRecord s2 0x8002 5 stack)
      else
        let b := blockOfRow stack row
        let s0 := setStack s stack { k1 with retired := if k1.retired.contains b then k1.retired else k1.retired ++ [b] }
        let s1 := (upto (512 * b) 512).foldl dropGone s0
        .next (journalMap s1 0x8003)

/-- Counts a corrected row of a scrub pass; in its third pass the row is marked for repair (R203). -/
def scrubCorrected (k : Stack) (row : Nat) : Stack :=
  if mget 0 k.scrubLast row = k.scrubPass + 1 then k
  else
    let n := mget 0 k.scrubHits row + 1
    let k1 := { k with scrubLast := mset 0 k.scrubLast row (k.scrubPass + 1), scrubHits := mset 0 k.scrubHits row n }
    if 3 ≤ n then markRow k1 row else k1

/-- One patrol read of a line (R202, R205): ciphertext only, retired blocks skipped. A line at or below the one before
begins a new pass (DEDUCED, log entry 71). -/
def scrubLine (s : State) (line : Nat) (errs : List (Nat × Byte)) : State :=
  let n := stackNo (128 * line)
  if lineGone s line then s
  else
    let k := stackOf s n
    let pass := if line ≤ k.scrubAt then k.scrubPass + 1 else k.scrubPass
    let s1 := setStack s n { k with scrubPass := pass, scrubAt := line, bytes := madd k.bytes 5 1 }
    let (s2, _) := footRead s1 line (metaOf s1 line).key errs
    if (stackOf s2 n).ce ≠ k.ce then modStack s2 n (fun x => scrubCorrected x (rowKey (128 * line))) else s2

/-- PATROL_SCRUB: the stack foot reads one line (DEDUCED, log entry 71). -/
def execPatrolScrub (addr : Nat) (errs : List (Nat × Byte)) (s : State) : Host.Outcome State Fault Refusal :=
  if !inStacks addr 1 || !errsOk errs then .refused (.noSuchUnit "line or symbol") else .next (scrubLine s (addr / 128) errs)

/-! ### Stack links and the viaduct -/

/-- A replay of a lane group (32 × direction + group): more than 1,000 within one second, and a retrain of the link is due (R193).
A second begins with the first replay that lies a second or more after the beginning of the last one (DESIGN CHOICE, log entry 71). -/
def noteReplay (k : Stack) (group now : Nat) : Stack :=
  let (t, n) := mget (0, 0) k.groupReplays group
  let x := if n = 0 ∨ t + 1000000000 ≤ now then (now, 1) else (t, n + 1)
  { k with replays := k.replays + 1, groupReplays := mset (0, 0) k.groupReplays group x, retrainDue := k.retrainDue || decide (1000 < x.2) }

/-- STACK_LINK_FLIT_ERROR (R193, R194): the flit is discarded and replayed in order; nothing is reordered or duplicated. -/
def execStackLinkFlitError (stack group at_ : Nat) (s : State) : Host.Outcome State Fault Refusal :=
  if 24 ≤ stack || decide (64 ≤ group) then .refused (.noSuchUnit "stack or lane group")
  else
    let s1 := { s with now := max s.now at_ }
    .next (modStack s1 stack (fun k => noteReplay k group s1.now))

/-- A tick begins the retrains that are due of stacks in service: they hold the stack's traffic until they end (R193). -/
def beginRetrains (s : State) : State :=
  (List.range 24).foldl (fun s k =>
    if (stackOf s k).retrainDue && (stackOf s k).state == .inService then modStack s k (fun x => { x with state := .retraining, retrainDue := false }) else s) s

/-- Retrains are scheduled for the links of a range of stacks (R193). -/
def scheduleRetrains (s : State) (ks : List Nat) : State := ks.foldl (fun s k => modStack s k (fun x => { x with retrainDue := true })) s

/-- The lane group of a lane: 17 lanes each (R193). -/
def laneGroup (lane : Nat) : Nat := lane / 17

/-- Whether some group has more than one failed lane. -/
def groupLost (failed : List Nat) : Bool := (List.range 32).any (fun g => decide (1 < (failed.filter (fun l => laneGroup l == g)).length))

/-- Adds failed lanes to those known. -/
def addLanes (old new : List Nat) : List Nat := new.foldl (fun l x => if l.contains x then l else l ++ [x]) old

/-- The end of a retrain of a stack link (R193): each newly failed lane is journalled and replaced by its group's spare;
a second failed lane in one group takes the stack out of service (DEDUCED, log entry 71). -/
def retrainLink (s : State) (stack : Nat) (failedTx failedRx : List Nat) : State :=
  let k := stackOf s stack
  let tx := addLanes k.txFailed failedTx
  let rx := addLanes k.rxFailed failedRx
  let fresh := (failedTx.filter (fun l => !k.txFailed.contains l)).map (fun l => (0, l)) ++ (failedRx.filter (fun l => !k.rxFailed.contains l)).map (fun l => (1, l))
  let s1 := setStack s stack { k with txFailed := tx, rxFailed := rx, state := if k.state = .retraining then .inService else k.state }
  let s2 := if fresh.isEmpty then s1 else journalMap s1 0x8001
  let s3 := if (groupLost tx || groupLost rx) && k.state != .outOfService then retireStack s2 stack else s2
  fresh.foldl (fun s _ => spareUsed s 2 stack) s3

/-- STACK_LINK_RETRAIN: a retrain ends; the operands name the lanes it finds failed in each direction (DEDUCED, log entry 71). -/
def execStackLinkRetrain (stack : Nat) (failedTx failedRx : List Nat) (s : State) : Host.Outcome State Fault Refusal :=
  if 24 ≤ stack || !failedTx.all (fun l => decide (l < 544)) || !failedRx.all (fun l => decide (l < 544)) then .refused (.noSuchUnit "stack or lane")
  else .next (retrainLink s stack failedTx failedRx)

/-- VIADUCT_FLIT_ERROR (R19): the flit of a quarter is discarded and replayed in order; the replay is counted (Table 19-5). -/
def execViaductFlitError (quarter : Nat) (s : State) : Host.Outcome State Fault Refusal :=
  if 4 ≤ quarter then .refused (.noSuchUnit "viaduct quarter") else .next (countLink s (14 + quarter) 4 1)

/-! ### Atomics and line reductions (R217, R218) -/

/-- The size of the operand and what an atomic stores (Table 9-7). -/
def atomicOk (op : AtomicOp) (size addr : Nat) : Bool :=
  (match op with | .cas => size == 8 | .fadd => size == 4 | _ => size == 4 || size == 8) && decide (addr % size = 0)

def atomicValue (op : AtomicOp) (size old operand compare : Nat) : Nat :=
  let w := 8 * size
  let x := operand % 2 ^ w
  match op with
  | .add => (old + x) % 2 ^ w
  | .and => Nat.land old x
  | .or => Nat.lor old x
  | .xor => old ^^^ x
  | .smin => if signed w x < signed w old then x else old
  | .smax => if signed w old < signed w x then x else old
  | .umin => min old x
  | .umax => max old x
  | .swap => x
  | .cas => if old = compare % 2 ^ w then x else old
  | .fadd => (f32Add (BitVec.ofNat 32 old) (BitVec.ofNat 32 x)).1.toNat

/-- The elements of a line reduction (Table 9-8): each 4 B or 2 B element of the line with that of the data. -/
def reduceLine (op : LineRed) (old new : List Byte) : List Byte :=
  match op with
  | .badd16 => (List.range 64).flatMap (fun i =>
      let x := elemValue .bf16 (fieldAt old (2 * i) 2)
      let y := elemValue .bf16 (fieldAt new (2 * i) 2)
      leBytes (sumBf16 x y) 2)
  | _ => (List.range 32).flatMap (fun i =>
      let x : F32 := BitVec.ofNat 32 (fieldAt old (4 * i) 4)
      let y : F32 := BitVec.ofNat 32 (fieldAt new (4 * i) 4)
      leBytes (match op with
        | .fadd32 => (f32Add x y).1
        | .fmax32 => f32Max x y
        | _ => x + y).toNat 4)

/-- Whether an issuer may act on a plain range at an address (R217). -/
def plainFor (s : State) (owner addr : Nat) : Bool :=
  match rangeAt s addr with | some r => decide (r.owner = owner) && r.plain | none => false

/-- A refusal of an atomic: NOT_PERMITTED, and a guard fault where the line is another owner's (R27, R366). -/
def refusePlain (s : State) (owner addr : Nat) : State :=
  if inStacks addr 1 && decide (ownerAt s addr = owner) then s else guardFault s owner

/-- A refusal for poison: the line stays as it is and the refusal is counted (R218). -/
def poisonRefused (s : State) (addr : Nat) : State × LineData × Nat :=
  ({ s with mem := { s.mem with calPoison := madd s.mem.calPoison (dieOf addr) 1 } }, poisonLine, stPoison)

/-- An operation on a line at its home slice: `f` gives the new line from the old; the old one is answered. A line in the
host's snoop filter has left it before (R323), and the writes held for it come first (R22). -/
def atLine (s : State) (addr counter : Nat) (f : List Byte → List Byte) : State × LineData × Nat :=
  let line := addr / 128
  let hint := hintAt s addr
  let s := if s.host.snoop.contains line then snoopLeave s line else s
  if lineGone s line then poisonRefused (dropGone s line) addr else
  match calFind s line with
  | some l =>
    if l.poison then poisonRefused s addr
    else (countSlice (calPutWritten s { l with data := f l.data, dirty := true } hint) addr counter 1, { data := l.data, poison := false }, 0)
  | none =>
    let (s1, d) := agentRead (countMiss s addr) line []
    if d.poison then poisonRefused s1 addr
    else
      let (s2, ok) := calFill s1 line (ownerAt s1 addr) (hint == 2) true { data := f d.data, poison := false } (hint != 1)
      (countSlice (if ok then s2 else agentWrite s2 line (f d.data) false) addr counter 1, d, 0)

/-- ATOMIC (R217, Table 9-7): performed at the home slice; the answer holds the old value. -/
def execAtomic (src : Source) (op : AtomicOp) (size addr operand compare : Nat) (s : State) : Host.Outcome State Fault Refusal :=
  if !src.ok || !atomicOk op size addr then .refused (.noSuchUnit "source, size or alignment")
  else if !inStacks addr size || !plainFor s src.owner addr then .next (answerStatus (refusePlain s src.owner addr) stNotPermitted)
  else
    let o := addr % 128
    let s0 := crossing s (stackPlane addr) (src.cluster / 128) (dieOf addr) size
    let (s1, d, st) := atLine (crossing s0 (stackPlane addr) (dieOf addr) (src.cluster / 128) size) addr 5 (fun l =>
      l.take o ++ leBytes (atomicValue op size (fieldAt l o size) operand compare) size ++ l.drop (o + size))
    if st ≠ 0 then .next (answerStatus s1 st) else .next { s1 with resp := { data := bytesAt d.data o size } }

/-- A line reduction at a home slice, shared with the REDUCE message (R309). -/
def lineReduce (s : State) (src : Source) (op : LineRed) (addr : Nat) (data : List Byte) : State × Nat :=
  if !inStacks addr 128 || !plainFor s src.owner addr then (refusePlain s src.owner addr, stNotPermitted)
  else
    let (s1, _, st) := atLine (crossing s (stackPlane addr) (src.cluster / 128) (dieOf addr) 128) addr 6 (fun l => reduceLine op l data)
    (s1, st)

/-- LINE_REDUCTION (R217, Table 9-8). -/
def execLineReduction (src : Source) (op : LineRed) (addr : Nat) (data : List Byte) (s : State) : Host.Outcome State Fault Refusal :=
  if !src.ok || decide (addr % 128 ≠ 0) || decide (data.length ≠ 128) then .refused (.noSuchUnit "source or extent")
  else
    let (s1, st) := lineReduce s src op addr data
    .next (answerStatus s1 st)

/-! ### Retired ways (R31) -/

/-- CALDERA_WAY_RETIRE: the way's line is invalidated when clean and written back when dirty, as poison when it is
poisoned; the retirement is journalled before it is reported (R32). A way retired before stays as it is (DEDUCED, log entry 70). -/
def execCalderaWayRetire (die slice set way : Nat) (s : State) : Host.Outcome State Fault Refusal :=
  if 2 ≤ die || decide (16 ≤ slice) || decide (6144 ≤ set) || decide (16 ≤ way) then .refused (.noSuchUnit "way")
  else
    let k := (16 * die + slice) * 6144 + set
    if (calSetOf s k).retired.contains way then .next s
    else
      let s1 := ((calSetOf s k).lines.filter (fun l => l.way == way)).foldl (fun s l => calDrop (cleanLine s l) l.line) s
      let x := calSetOf s1 k
      let s2 := setCalSet s1 k { x with retired := x.retired ++ [way] }
      .next (spareRecord s2 0x8000 1 k)

/-! ### CXL.mem (R322, R323, R325) -/

/-- Whether a die reset keeps the host from an address: that of die 0 from all of them, that of the stack's die from it (R427). -/
def dieResets (s : State) (a : Nat) : Bool :=
  decide (mget 0 s.health.dieState 0 = 1) || decide (mget 0 s.health.dieState (stackNo a / 12) = 1)

/-- The exposure entry that lets the host reach an address: it covers it, and the range's owner is its partition. -/
def exposedAt (s : State) (a : Nat) : Option Exposure :=
  if dieResets s a then none else (s.host.exposures.map (·.2)).find? (fun e => e.inForce && expCovers e a
    && (match rangeAt s a with | some r => decide (r.owner = expPart e) | none => false))

/-- Counts a refused CXL.mem access (R322). -/
def memRefused (s : State) : State := modFn s 0 (fun f => { f with memFault := f.memFault + 1 })

/-- A class B write of bytes within one line by the host or by BULK_LOAD (R212). Where the caldera holds the line dirty,
one of two outcomes follows: its data is written back over the host's later, or before it (DESIGN CHOICE, log entry 14). -/
def classBHost (s : State) (a : Nat) (bs : List Byte) : State :=
  match calFind s (a / 128) with
  | some l =>
    if l.dirty then
      let s0 := { s with freeCount := s.freeCount + 1 }
      if Config.dirtyWins s.freeCount then classBWrite s0 a bs
      else classBWrite (calPut (writeBack s0 l) { l with dirty := false } false) a bs
    else classBWrite s a bs
  | none => classBWrite s a bs

/-- CXL_MEM_WRITE: a host write within one line, performed as class B or dropped (R322). -/
def execCxlMemWrite (addr : Nat) (data : List Byte) (s : State) : Host.Outcome State Fault Refusal :=
  if data.isEmpty || decide (128 < addr % 128 + data.length) || !inStacks addr data.length then .refused (.noSuchUnit "extent")
  else if !cachememOn s then .next s
  else
    match exposedAt s addr with
    | some e => if expWrite e then .next (classBHost (countHost s false data.length) addr data) else .next (memRefused s)
    | none => .next (memRefused s)

/-- CXL_MEM_READ: DRAM contents of the line, which the snoop filter then records; a full filter first gives up its oldest
line (R323) (DEDUCED, log entry 69). -/
def execCxlMemRead (addr : Nat) (s : State) : Host.Outcome State Fault Refusal :=
  if !inStacks addr 1 then .refused (.noSuchUnit "line")
  else if !cachememOn s then .next s
  else
    match exposedAt s addr with
    | none => .next (answer (memRefused s) poisonLine stNotPermitted)
    | some _ =>
      let line := addr / 128
      let s0 := if s.host.snoop.length < 65536 || s.host.snoop.contains line then s
        else match s.host.snoop with | l :: _ => snoopLeave s l | [] => s
      let (s1, d) := classBRead s0 line
      let s2 := if s1.host.snoop.contains line then s1 else { s1 with host := { s1.host with snoop := s1.host.snoop ++ [line] } }
      .next (answer (countHost s2 true 128) d (if d.poison then stUncorrectable else 0))

end Sys2Proof.Machine
end

