-- ==== Sys2Proof/Machine/Sfu.lean ====
section
/-! DEFINITION. Machine/Sfu.lean: the special function unit (R112 to R116) and the composed functions of the drain
fusions (R117 to R119). Inside the bounds of R112 and R113 the returned pattern is a free value, fixed per input. -/

namespace Sys2Proof.Machine

open Sys2Proof

/-! ### Fixed-point enclosures: 100 fraction bits, each within 2^-90 of the exact value -/

/-- ln 2 in units of 2^-100. -/
def ln2Fix : Nat := 878668439483319573618263538048

/-- The terms of the exponential series from term `n` on: the sum of t^k / k!, with `a` the term before. -/
def expSeries : Nat → Nat → Nat → Nat → Nat
  | 0, _, _, _ => 0
  | fuel + 1, t, k, a =>
    let b := ((a * t) >>> 100) / k
    b + expSeries fuel t (k + 1) b

/-- 2^(f / 2^100) in units of 2^-100, for 0 ≤ f < 2^100. -/
def pow2Frac (f : Nat) : Nat :=
  let t := (f * ln2Fix) >>> 100
  2 ^ 100 + expSeries 36 t 1 (2 ^ 100)

/-- The series of atanh: z^k / k + z^(k+2) / (k+2) + ..., with `a` = z^k in units of 2^-100 and `z2` = z². -/
def atanhSeries : Nat → Nat → Nat → Nat → Nat
  | 0, _, _, _ => 0
  | fuel + 1, z2, k, a => a / k + atanhSeries fuel z2 (k + 2) ((a * z2) >>> 100)

/-- log2 (m / 2^23) in units of 2^-100, for 2^23 ≤ m < 2^24. -/
def log2Frac (m : Nat) : Nat :=
  let z := (m - 2 ^ 23) * 2 ^ 100 / (m + 2 ^ 23)
  let ln := 2 * atanhSeries 36 ((z * z) >>> 100) 1 z
  ln * 2 ^ 100 / ln2Fix

/-- The slack by which an enclosure is widened, in units of 2^-100: far above the error of the series (DESIGN CHOICE, log entry 10). -/
def sfuSlack : Int := 2 ^ 20

/-! ### Directed codes and picking inside an interval -/

/-- The FP32 code of a magnitude in units of 2^-200, truncated toward zero, and whether bits were lost. -/
def codeDown (m : Nat) : Nat × Bool :=
  if m = 0 then (0, false)
  else
    let q : Int := max ((Nat.log2 m : Int) - 200 - 23) (-149)
    let r := truncShift m (-200 - q)
    ((q + 149).toNat * 2 ^ 23 + r, decide (truncShift r (q + 200) ≠ m))

/-- The least key (`f32Key`) of a value at or above x × 2^-200, and the greatest at or below it. -/
def keyUp (x : Int) : Int :=
  let (c, lost) := codeDown x.natAbs
  if x ≥ 0 then (if lost then (c : Int) + 1 else c) else -(c : Int) - 1
def keyDown (x : Int) : Int :=
  let (c, lost) := codeDown x.natAbs
  if x ≥ 0 then (c : Int) else -(if lost then (c : Int) + 1 else c) - 1

/-- The FP32 pattern of a key. -/
def ofKey (k : Int) : F32 :=
  if k ≥ 0 then BitVec.ofNat 32 k.toNat else BitVec.ofNat 32 ((-k - 1).toNat + 2 ^ 31)

/-- The pattern that the free number `n` picks among those whose value lies in [lo, hi] × 2^-200 (DESIGN CHOICE, log entry 10). -/
def pickIn (lo hi : Int) (n : Nat) : F32 :=
  let a := keyUp lo
  let b := keyDown hi
  ofKey (a + ((n % ((b - a).toNat + 1) : Nat) : Int))

/-! ### exp2 and log2 -/

/-- Whether a finite value is an integer, and which. -/
def asInteger (neg : Bool) (m : Nat) (e : Int) : Option Int :=
  let r := truncShift m e
  if truncShift r (-e) = m then some (if neg then -(r : Int) else r) else none

/-- 2^n as an FP32 pattern, for n from −149 to 127. -/
def powerOfTwo (n : Int) : F32 := BitVec.ofNat 32 (magCode .fp32 1 n)

/-- exp2 of one value (R112, R114, R115, Table 5-1) (DESIGN CHOICE, log entry 10). -/
def sfuExp2 (x : F32) : F32 × Raised :=
  match f32Value x with
  | .nan => (nan32, quiet)
  | .inf n => if n then (zero32 false, quiet) else (inf32 false, quiet)
  | .fin neg m e =>
    if m = 0 then (0x3F800000, quiet)
    else if !neg ∧ floorLog2 m e ≥ 7 then (inf32 false, { ofl := true })
    else
      let fx : Int := let t := (truncShift m (e + 100) : Int); if neg then -t else t
      if fx < -150 * 2 ^ 100 ∨ (neg ∧ floorLog2 m e ≥ 8) then (zero32 false, quiet)
      else
        match asInteger neg m e with
        | some n => if n = -150 then (pickIn 0 (2 ^ 51) (Config.exp2Pick x), quiet) else (powerOfTwo n, quiet)
        | none =>
          let k : Int := fx / 2 ^ 100
          let f : Int := fx % 2 ^ 100
          let y : Int := pow2Frac f.toNat
          -- the exact value lies within the slack of y × 2^(k − 100); in units of 2^-200 it is y × 2^(k + 100)
          let sh (v : Int) : Int := v * 2 ^ (k + 150).toNat / 2 ^ 50
          if fx < -126 * 2 ^ 100 then
            (pickIn (max 0 (sh (y - sfuSlack) - 2 ^ 51)) (sh (y + sfuSlack) + 2 ^ 51) (Config.exp2Pick x), quiet)
          else
            (pickIn (sh (y - sfuSlack - y / 2 ^ 22)) (sh (y + sfuSlack + y / 2 ^ 22)) (Config.exp2Pick x), quiet)

/-- log2 of one value (R113, R114, R115, Table 5-1) (DESIGN CHOICE, log entry 10). -/
def sfuLog2 (x : F32) : F32 × Raised :=
  match f32Value x with
  | .nan => (nan32, quiet)
  | .inf n => if n then (nan32, { nv := true }) else (inf32 false, quiet)
  | .fin neg m e =>
    if m = 0 then (inf32 true, quiet)
    else if neg then (nan32, { nv := true })
    else
      let k := floorLog2 m e
      let man := truncShift m (23 - (Nat.log2 m : Int))
      if man = 2 ^ 23 then
        let c := magCode .fp32 k.natAbs 0
        (signed32 (decide (k < 0)) c, quiet)
      else
        let y : Int := k * 2 ^ 100 + log2Frac man
        let bound : Int := if k = 0 ∨ k = -1 then 2 ^ 78 else (y.natAbs : Int) / 2 ^ 22
        (pickIn ((y - bound - sfuSlack) * 2 ^ 100) ((y + bound + sfuSlack) * 2 ^ 100) (Config.log2Pick x), quiet)

/-! ### Composed functions, operation for operation (Table 5-2, R118) -/

def f32Abs (x : F32) : F32 := if isNaN32 x then nan32 else x &&& 0x7FFFFFFF
def f32Neg (x : F32) : F32 := if isNaN32 x then nan32 else x ^^^ 0x80000000

/-- recip(x). -/
def recip (x : F32) : F32 × Raised :=
  let (l, r1) := sfuLog2 (f32Abs x)
  let (r0, r2) := sfuExp2 (f32Neg l)
  let (p, r3) := f32Mul x r0
  let (r, r4) := f32Mul p r0
  let (e, r5) := f32Fma (f32Neg x) r 0x3F800000
  let (r', r6) := f32Fma r e r
  let (e', r7) := f32Fma (f32Neg x) r' 0x3F800000
  let (r'', r8) := f32Fma r' e' r'
  (r'', raiseAll [r1, r2, r3, r4, r5, r6, r7, r8])

/-- sigmoid(x), with L = 0x3FB8AA3B. -/
def sigmoid (x : F32) : F32 × Raised :=
  let (t, r1) := f32Mul (f32Neg x) 0x3FB8AA3B
  let t := f32Min (f32Max t 0xC2FC0000) 0x42FC0000
  let (u, r2) := sfuExp2 t
  let (v, r3) := f32Add 0x3F800000 u
  let (w, r4) := recip v
  (w, raiseAll [r1, r2, r3, r4])

/-- SiLU(x). -/
def silu (x : F32) : F32 × Raised :=
  let (s, r1) := sigmoid x
  let (y, r2) := f32Mul x s
  (y, raiseBoth r1 r2)

/-- GELU(x), with c1 = 1.5957691216 and c2 = 0.0713548163 to the nearest FP32. -/
def gelu (x : F32) : F32 × Raised :=
  let (u, r1) := f32Mul x x
  let (f, r2) := f32Fma 0x3D922279 u 0x3FCC422A
  let (z, r3) := f32Mul x f
  let (s, r4) := sigmoid z
  let (y, r5) := f32Mul x s
  (y, raiseAll [r1, r2, r3, r4, r5])

end Sys2Proof.Machine
end

