-- ==== Sys2Proof/Machine/Stats.lean ====
section
/-! DEFINITION. Machine/Stats.lean: the slots of the row statistics unit (R120 to R125): what MAX, SUM and READ do to a
slot. `s1` and `s2` count units of 2^(E − 70) and 2^(2E − 70) (Table 5-3). -/

namespace Sys2Proof.Machine

open Sys2Proof

/-- MAX over the valid lanes (R121). -/
def slotMax (c : StatSlot) (lanes : List F32) : StatSlot :=
  if lanes.isEmpty then c else { c with vmax := lanes.foldl f32Max c.vmax, maxSeen := true }

/-- One lane of step 4 of R122: its value and its square truncated to the slot's units. -/
def slotLane (e : Int) (acc : Int × Nat) (v : FVal) : Int × Nat :=
  match v with
  | .fin n m k =>
    let t : Int := (truncShift m (k - e + 70) : Nat)
    (acc.1 + (if n then -t else t), acc.2 + truncShift (m * m) (2 * k - 2 * e + 70))
  | _ => acc

/-- SUM over the valid lanes (R122). -/
def slotSum (c : StatSlot) (lanes : List F32) : StatSlot × Raised :=
  let vs := lanes.map f32Value
  if c.n + lanes.length > 16777215 then (c, { ofl := true })
  else if vs.any (fun v => isNaN v || isInf false v || isInf true v) then
    ({ c with bad := true, n := c.n + lanes.length }, { nv := vs.any (fun v => isInf false v || isInf true v) })
  else
    let c' : StatSlot :=
      match maxExp vs, c.e with
      | none, _ => c
      | some k, none => { c with e := some k }
      | some k, some e =>
        if k > e then
          let d := (k - e).toNat
          { c with e := some k, s1 := c.s1.tdiv (2 ^ d : Nat), s2 := c.s2 / 2 ^ (2 * d) }
        else c
    let (s1, s2) := vs.foldl (slotLane (c'.e.getD 0)) (c'.s1, c'.s2)
    ({ c' with s1 := s1, s2 := s2, n := c.n + lanes.length }, quiet)

/-- The exact quotient (−1)^neg × num / den × 2^e rounded once to FP32 (R123); a quotient of zero is +0. -/
def quotRound (neg : Bool) (num den : Nat) (e : Int) : F32 × Raised :=
  if num = 0 ∨ den = 0 then (zero32 false, quiet)
  else
    let k := 64 + Nat.log2 den
    let q := (num * 2 ^ k) / den
    let sticky := if (num * 2 ^ k) % den = 0 then 0 else 1
    roundF32 neg (2 * q + sticky) (e - k - 1)

/-- An integer as FP32. -/
def intF32 (i : Int) : F32 := (roundF32 (decide (i < 0)) i.natAbs 0).1

/-- The numerator of the variance, n × S2 − S1², in units of 2^(2E − 140) (Table 5-4). -/
def varNum (c : StatSlot) : Int := ((c.n * c.s2 * 2 ^ 70 : Nat) : Int) - c.s1 * c.s1

/-- The lanes and flags of READ (R123, R124, Table 5-4). -/
def slotRead (c : StatSlot) : List F32 × Raised :=
  let e := c.e.getD 0
  let empty := c.maxSeen && !isNaN32 c.vmax && decide (f32Key c.vmax ≤ f32Key 0xFE800000)
  let l6 := intF32 (match c.e with | none => -256 | some e => e)
  let rest := List.replicate 57 (zero32 false)
  if c.bad then
    ([c.vmax, nan32, intF32 c.n, nan32, nan32, nan32, l6] ++ rest, { empty := empty })
  else
    let neg := decide (c.s1 < 0)
    let (l1, r1) := quotRound neg c.s1.natAbs 1 (e - 70)
    let (l3, r3) := quotRound neg c.s1.natAbs c.n (e - 70)
    let v := varNum c
    let (l4, r4) := if v < 0 then (zero32 false, { cancel := true }) else quotRound false v.toNat (c.n * c.n) (2 * e - 140)
    let (l5, r5) := quotRound false c.s2 c.n (2 * e - 70)
    ([c.vmax, l1, intF32 c.n, l3, l4, l5, l6] ++ rest, raiseAll [r1, r3, r4, r5, { empty := empty }])

end Sys2Proof.Machine
end

