-- ==== Sys2Proof/Machine/CellOps.lean ====
section
/-! DEFINITION. Machine/CellOps.lean: what each tile operation does to its cell (R95 to R101), written as an effect that
`issueOp` in Machine/Sequencer.lean applies. -/

namespace Sys2Proof.Machine

open Sys2Proof

/-- What an operation does when it is performed: the cell after it (but for issue bookkeeping), the rows it reads, the
pieces it writes, the statistics rows still to be fed, a descriptor to hand over, the flags raised,
the free draws used, and the counts of Tables 19-2 and 19-3 (index, amount). -/
structure OpEffect where
  cell : Cell
  reads : List Nat := []
  writes : List (Nat × List Byte) := []
  feeds : List (Nat × Bool × List F32) := []
  desc : Option QDesc := none
  flagsAt : Option Nat := none
  raised : Raised := {}
  draws : Nat
  cellCounts : List (Nat × Nat) := []
  opCounts : List (Nat × Nat) := []

/-- An operation either faults with a fault_code of Table 4-11 or has its effect (R110). Where it meets more than one
condition of R110, the lowest fault_code is recorded: the spec gives no priority (DESIGN CHOICE, log entry 76). -/
inductive OpResult where
  | fault (code : Nat)
  | done (e : OpEffect)

/-! ### Registers of the cell -/

def zeroLanes : List F32 := List.replicate 64 0
def zeroAcc : List F32 := List.replicate 32 0

def aReg (c : Cell) (i : Nat) : Nat := (mget 0 c.a i).toNat
def vReg (c : Cell) (i : Nat) : List F32 := mget zeroLanes c.v i
def setV (c : Cell) (i : Nat) (x : List F32) : Cell := { c with v := mset zeroLanes c.v i x }
def accRowOf (c : Cell) (bank row : Nat) : List F32 := mget zeroAcc c.acc (bank * 128 + row)
def setAcc (c : Cell) (bank row : Nat) (x : List F32) : Cell := { c with acc := mset zeroAcc c.acc (bank * 128 + row) x }
def slotOf (c : Cell) (i : Nat) : StatSlot := mget StatSlot.reset c.slots i
def setSlot (c : Cell) (i : Nat) (x : StatSlot) : Cell := { c with slots := mset StatSlot.reset c.slots i x }

/-- Whether `n` bytes at a scratchpad address leave the scratchpad (R110, fault_code 1); an address taken from an a
register with a bit of [47:18] set leaves it already. -/
def outOfRange (o n : Nat) : Bool := decide (spBytes < o + n ∨ spBytes ≤ o)

/-! ### Elements -/

/-- The element codes of a byte string: bytes, 16- or 32-bit words, or two 4-bit codes to a byte (R64). -/
def elemCodes (w : Nat) : List Byte → List Nat
  | [] => []
  | b :: t =>
    if w = 4 then (b.toNat % 16) :: (b.toNat / 16) :: elemCodes w t
    else if w = 8 then b.toNat :: elemCodes w t
    else if w = 16 then
      match t with
      | b1 :: t' => (b.toNat + 256 * b1.toNat) :: elemCodes w t'
      | [] => [b.toNat]
    else
      match t with
      | b1 :: b2 :: b3 :: t' => (b.toNat + 256 * b1.toNat + 65536 * b2.toNat + 16777216 * b3.toNat) :: elemCodes w t'
      | _ => [b.toNat]

/-- Packs element codes into bytes (R64). -/
def packCodes (w : Nat) : List Nat → List Byte
  | [] => []
  | x :: t =>
    if w = 4 then
      match t with
      | y :: t' => BitVec.ofNat 8 (x % 16 + 16 * y) :: packCodes w t'
      | [] => [BitVec.ofNat 8 (x % 16)]
    else leBytes x (w / 8) ++ packCodes w t

/-- A list cut into chunks of `n`, at most `fuel` of them. -/
def chunks {α : Type} (n : Nat) : Nat → List α → List (List α)
  | 0, _ => []
  | fuel + 1, l => if l.isEmpty then [] else l.take n :: chunks n fuel (l.drop n)

/-- Bytes that `n` elements of a format take. -/
def elemBytes (fmt n : Nat) : Nat := n * fmtBits fmt / 8

/-! ### The tensor array -/

/-- The values of one operand of a RUN as rows of K values: `n` rows in the normal feed, or K rows of `n` elements in the
transposed feed (R86), each under the scale of its block. -/
def operandRows (fmt n k : Nat) (t : Bool) (elems scales : List Byte) : List (List FVal) :=
  let codes := elemCodes (fmtBits fmt) elems
  if t then
    let rows := chunks n k codes
    (List.range n).map (fun i => rows.map (fun r => fmtValue fmt (r.getD i 0) 0x7F))
  else
    let rows := chunks k n codes
    match fmtBlock fmt with
    | none => rows.map (fun r => r.map (fun x => fmtValue fmt x 0x7F))
    | some b =>
      let per := k / b
      rows.zipIdx.map (fun (r, i) => r.zipIdx.map (fun (x, j) => fmtValue fmt x ((scales.getD (i * per + j / b) 0).toNat)))

/-- Folds the groups of one output (R71): each group's products and the accumulator, if there is one, rounded once. -/
def foldGroups (g : Nat) : Nat → List (FVal × Raised) → Option F32 → F32 × Raised
  | 0, _, acc => (acc.getD 0, quiet)
  | fuel + 1, ps, acc =>
    if ps.isEmpty then (acc.getD 0, quiet)
    else
      let grp := ps.take g
      let terms := grp.map (·.1) ++ (match acc with | some a => [f32Value a] | none => [])
      let (r, f) := groupSum terms
      let (r', f') := foldGroups g fuel (ps.drop g) (some r)
      (r', raiseBoth (raiseBoth (raiseAll (grp.map (·.2))) f) f')

/-- One output of a multiply: row of A, column of B, and the accumulator where the operation continues (R95). -/
def outputOf (g : Nat) (a b : List FVal) (acc : Option F32) : F32 × Raised :=
  let ps := List.zipWith product a b
  foldGroups g (ps.length / g + 1) ps acc

/-- MMA RUN (R95, Table 4-5). -/
def effRun (regs : List Region) (c : Cell) (n : Nat) (f : RunOp) : OpResult :=
  let m := f.mMinus1 + 1
  let k := 8 * f.kUnits
  let ae := aReg c f.raElem
  let be := aReg c f.rbElem
  let aLen := elemBytes f.fmtA (m * k)
  let bLen := elemBytes f.fmtB (32 * k)
  let asc := aReg c f.raScale
  let bsc := aReg c f.rbScale
  let aSl := match fmtBlock f.fmtA with | some b => m * k / b | none => 0
  let bSl := match fmtBlock f.fmtB with | some b => 32 * k / b | none => 0
  if outOfRange ae aLen || outOfRange be bLen || (aSl != 0 && outOfRange asc aSl) || (bSl != 0 && outOfRange bsc bSl) then .fault 1
  else if ae % 32 ≠ 0 ∨ be % 32 ≠ 0 then .fault 2
  else
    let ra := tileRead regs c .run n ae aLen
    let rb := tileRead regs ra.cell .run ra.draws be bLen
    let sa := tileRead regs rb.cell .run rb.draws asc aSl
    let sb := tileRead regs sa.cell .run sa.draws bsc bSl
    if ra.poisoned || rb.poisoned || sa.poisoned || sb.poisoned then .fault 3
    else
      let g := (fmtGroup f.fmtA).getD 32
      let as_ := operandRows f.fmtA m k f.ta ra.bytes sa.bytes
      let bs := operandRows f.fmtB 32 k f.tb rb.bytes sb.bytes
      let outs := as_.zipIdx.map (fun (row, i) =>
        let old := accRowOf c f.bank (f.accRow + i)
        bs.zipIdx.map (fun (col, j) => outputOf g row col (if f.acc then some (old.getD j 0) else none)))
      let c' := outs.zipIdx.foldl (fun c (os, i) => setAcc c f.bank (f.accRow + i) (os.map (·.1))) sb.cell
      let steps := ceilDiv k g
      .done { cell := c', reads := ra.rows ++ rb.rows ++ sa.rows ++ sb.rows
              raised := raiseAll (outs.map (fun os => raiseAll (os.map (·.2)))), draws := sb.draws
              cellCounts := [(0, aLen + bLen + aSl + bSl)]
              opCounts := [(f.fmtA, m * k * 32), (30, steps * max m 4)] }

/-- The per-value arithmetic of a drain fusion (Table 4-7): accumulator and operand value. -/
def fuse (code : Nat) (acc opnd : F32) : F32 × Raised :=
  match code with
  | 0 => (acc, quiet)
  | 1 => f32Add acc opnd
  | 2 => f32Mul acc opnd
  | 3 => f32Mul acc opnd
  | 4 => f32Add acc opnd
  | 5 => (f32Max acc 0, quiet)
  | 6 => silu acc
  | 7 => gelu acc
  | 8 => f32Mul acc opnd
  | 9 => let (x, r) := f32Add acc opnd; let (y, r') := silu x; (y, raiseBoth r r')
  | _ => (acc, quiet)

/-- Bytes of the operand at rf (Table 4-7). -/
def fusionBytes (code rows : Nat) : Nat :=
  match code with
  | 1 => 128 | 3 => 128 | 9 => 128 | 2 => 4 * rows | 4 => 128 * rows | 8 => 128 * rows | _ => 0

/-- The operand value of row i, column j. -/
def fusionValue (code : Nat) (ws : List Nat) (i j : Nat) : F32 :=
  match code with
  | 1 => BitVec.ofNat 32 (ws.getD j 0) | 3 => BitVec.ofNat 32 (ws.getD j 0) | 9 => BitVec.ofNat 32 (ws.getD j 0)
  | 2 => BitVec.ofNat 32 (ws.getD i 0)
  | 4 => BitVec.ofNat 32 (ws.getD (32 * i + j) 0) | 8 => BitVec.ofNat 32 (ws.getD (32 * i + j) 0)
  | _ => 0

/-- Converts FP32 values to a format: the element bytes and the scale bytes (R75 to R77). -/
def convertRow (fmt : Nat) (sat : Bool) (vs : List F32) : List Byte × List Byte × Raised :=
  match fmtElem fmt with
  | none => ([], [], quiet)
  | some t =>
    let xs := vs.map f32Value
    match fmtBlock fmt with
    | none =>
      let r := xs.map (convertPlain t sat)
      (packCodes (elemWidth t) (r.map (·.1)), [], raiseAll (r.map (·.2)))
    | some b =>
      let r := (chunks b (xs.length / b + 1) xs).map (quantBlock t)
      (packCodes (elemWidth t) (r.flatMap (fun x => x.2.1)), r.map (fun x => BitVec.ofNat 8 x.1), raiseAll (r.map (fun x => x.2.2)))

/-- MMA DRAIN (R96, R97, Tables 4-6 and 4-7). -/
def effDrain (regs : List Region) (c : Cell) (n : Nat) (f : DrainOp) : OpResult :=
  let rows := f.rowsMinus1 + 1
  let pitch := 16 * f.outPitch
  let de := aReg c f.rdElem
  let ds := aReg c f.rdScale
  let rf := aReg c f.rf
  let rowLen := elemBytes f.fmtOut 32
  let (scLen, scPitch) := match fmtBlock f.fmtOut with
    | some b => (32 / b, pitch * 8 / (fmtBits f.fmtOut * b))
    | none => (0, 0)
  let fLen := fusionBytes f.fusion rows
  if outOfRange de ((rows - 1) * pitch + rowLen) || (scLen != 0 && outOfRange ds ((rows - 1) * scPitch + scLen))
    || (fLen != 0 && outOfRange rf fLen) then .fault 1
  else if de % 32 ≠ 0 then .fault 2
  else
    let fo := tileRead regs c .drain n rf fLen
    if fo.poisoned then .fault 3
    else
      let ws := elemCodes 32 fo.bytes
      let vals := (List.range rows).map (fun i =>
        (accRowOf c f.bank (f.accRow + i)).zipIdx.map (fun (a, j) => fuse f.fusion a (fusionValue f.fusion ws i j)))
      let out := vals.map (fun r => convertRow f.fmtOut f.sat (r.map (·.1)))
      let writes := out.zipIdx.flatMap (fun (o, i) =>
        tilePieces regs c (de + i * pitch) o.1 ++ (if scLen = 0 then [] else tilePieces regs c (ds + i * scPitch) o.2.1))
      let feeds := if f.statMode = 0 then []
        else vals.zipIdx.map (fun (r, i) => ((f.statSlot + i) % 8, decide (f.statMode = 2), r.map (·.1)))
      let slow := decide (f.fusion = 6 ∨ f.fusion = 7 ∨ f.fusion = 9)
      .done { cell := fo.cell, reads := fo.rows, writes := writes, feeds := feeds
              raised := raiseBoth (raiseAll (vals.map (fun r => raiseAll (r.map (·.2))))) (raiseAll (out.map (·.2.2)))
              draws := fo.draws, cellCounts := [(1, rows * (rowLen + scLen))]
              opCounts := [(20, 32 * rows), (21, if slow then 32 * rows else 0),
                (19, if f.statMode = 0 then 0 else 32 * rows), (17, if slow then 64 * rows else 0), (18, if slow then 32 * rows else 0)] }

/-! ### The vector unit -/

/-- The address a[ra] + imm of VLD and VST, or none where it falls outside the scratchpad's address range (Table 4-8). -/
def vecAddr (c : Cell) (ra : Nat) (imm : BitVec 32) : Option Nat :=
  let a := aReg c ra
  let x : Int := (a : Int) + signed 32 imm.toNat
  if spBytes ≤ a ∨ x < 0 then none else some x.toNat

/-- VLD (Table 4-9). -/
def effVld (regs : List Region) (c : Cell) (n vd ra fmt : Nat) (imm : BitVec 32) : OpResult :=
  let len := elemBytes fmt 64
  let sl := match fmtBlock fmt with | some b => 64 / b | none => 0
  let sa := aReg c ((ra + 1) % 16)
  match vecAddr c ra imm with
  | none => .fault 1
  | some o =>
    if outOfRange o len || (sl != 0 && outOfRange sa sl) then .fault 1
    else if o % max 1 (fmtBits fmt / 8) ≠ 0 then .fault 2
    else
      let r := tileRead regs c .vector n o len
      let sc := tileRead regs r.cell .vector r.draws sa sl
      if r.poisoned || sc.poisoned then .fault 3
      else
        let vs := (elemCodes (fmtBits fmt) r.bytes).zipIdx.map (fun (x, i) =>
          expand (fmtValue fmt x (match fmtBlock fmt with | some b => (sc.bytes.getD (i / b) 0).toNat | none => 0x7F)))
        .done { cell := setV sc.cell vd (vs.map (·.1)), reads := r.rows ++ sc.rows, raised := raiseAll (vs.map (·.2))
                draws := sc.draws, cellCounts := [(2, len + sl)], opCounts := [(16, 64)] }

/-- VST (Table 4-9). -/
def effVst (regs : List Region) (c : Cell) (n vs1 ra fmt : Nat) (sat : Bool) (imm : BitVec 32) : OpResult :=
  let len := elemBytes fmt 64
  let sl := match fmtBlock fmt with | some b => 64 / b | none => 0
  let sa := aReg c ((ra + 1) % 16)
  match vecAddr c ra imm with
  | none => .fault 1
  | some o =>
    if outOfRange o len || (sl != 0 && outOfRange sa sl) then .fault 1
    else if o % max 1 (fmtBits fmt / 8) ≠ 0 then .fault 2
    else
      let (el, sc, fl) := convertRow fmt sat (vReg c vs1)
      .done { cell := c, writes := tilePieces regs c o el ++ (if sl = 0 then [] else tilePieces regs c sa sc)
              raised := fl, draws := n, cellCounts := [(2, len + sl)], opCounts := [(16, 64)] }

/-- A vector operation on registers alone: each lane's result and flags go to vd. -/
def effLanes (c : Cell) (n vd : Nat) (lanes : List (F32 × Raised)) : OpResult :=
  .done { cell := setV c vd (lanes.map (·.1)), raised := raiseAll (lanes.map (·.2)), draws := n, opCounts := [(16, 64)] }

/-- Lane by lane, from one, two or three registers. -/
def lanes1 (f : F32 → F32 × Raised) (x : List F32) : List (F32 × Raised) := x.map f
def lanes2 (f : F32 → F32 → F32 × Raised) (x y : List F32) : List (F32 × Raised) := List.zipWith f x y
def lanes3 (f : F32 → F32 → F32 → F32 × Raised) (x y z : List F32) : List (F32 × Raised) :=
  List.zipWith (fun g w => g w) (List.zipWith f x y) z

/-- One stage of the tree of VRSUM and VRMAX: adjacent values combined, with what each combination raised. -/
def treeStage (f : F32 → F32 → F32 × Raised) : List F32 → List F32 × Raised
  | x :: y :: t => let (r, g) := f x y; let (rs, gs) := treeStage f t; (r :: rs, raiseBoth g gs)
  | l => (l, quiet)

/-- The six stages of the tree (Table 4-9). -/
def treeFold (f : F32 → F32 → F32 × Raised) : Nat → List F32 → Raised → List F32 × Raised
  | 0, l, g => (l, g)
  | k + 1, l, g => let (l', g') := treeStage f l; treeFold f k l' (raiseBoth g g')

/-- VRSUM and VRMAX: the tree's result in every lane. -/
def effTree (c : Cell) (n vd vs1 : Nat) (f : F32 → F32 → F32 × Raised) : OpResult :=
  let (l, g) := treeFold f 6 (vReg c vs1) quiet
  .done { cell := setV c vd (List.replicate 64 (l.headD 0)), raised := g, draws := n, opCounts := [(16, 64)] }

/-- VMSK (Table 4-9): the 8 B mask at a[ra] keeps lanes or replaces them by imm. -/
def effVmsk (regs : List Region) (c : Cell) (n vd vs1 ra : Nat) (imm : F32) : OpResult :=
  let o := aReg c ra
  if outOfRange o 8 then .fault 1
  else if o % 8 ≠ 0 then .fault 2
  else
    let r := tileRead regs c .vector n o 8
    if r.poisoned then .fault 3
    else
      let mask := leNat r.bytes
      let out := (vReg c vs1).zipIdx.map (fun (x, i) => if bit mask i then x else imm)
      .done { cell := setV r.cell vd out, reads := r.rows, draws := r.draws, opCounts := [(16, 64)] }

/-- An SFU operation on all 64 lanes (R99). -/
def effSfu (c : Cell) (n vd vs counter : Nat) (f : F32 → F32 × Raised) : OpResult :=
  let l := (vReg c vs).map f
  .done { cell := setV c vd (l.map (·.1)), raised := raiseAll (l.map (·.2)), draws := n, opCounts := [(counter, 64)] }

/-! ### The row statistics unit -/

/-- Feeds one row of a drain to its slot (R96, R125). -/
def feedSlot (c : Cell) (f : Nat × Bool × List F32) : Cell :=
  if f.2.1 then
    let (x, r) := slotSum (slotOf c f.1) f.2.2
    setFlags (setSlot c f.1 x) r
  else setSlot c f.1 (slotMax (slotOf c f.1) f.2.2)

/-- Lets the first `k` of the rows that unretired drains have still to feed reach the slots: the drain queue runs its
operations in order (R91), so the rows arrive in that order (R125). -/
def takeFeeds : List Issued → Nat → Cell → List Issued × Cell
  | [], _, c => ([], c)
  | i :: t, k, c =>
    let (t', c') := takeFeeds t (k - i.feeds.length) ((i.feeds.take k).foldl feedSlot c)
    ({ i with feeds := i.feeds.drop k } :: t', c')

/-- The cell as a statistics operation finds it: a free leading part of the rows still to be fed has arrived (R125). -/
def settled (c : Cell) (n : Nat) : Cell × Nat :=
  let left := (c.issued.map (fun i => i.feeds.length)).sum
  if left = 0 then (c, n)
  else
    let (l, c') := takeFeeds c.issued (Config.drainPrefix n % (left + 1)) c
    ({ c' with issued := l }, n + 1)

/-- STAT CLR (R100, R120). -/
def effStatClr (c : Cell) (n : Nat) (mask : BitVec 8) : OpResult :=
  let (c1, n1) := settled c n
  .done { cell := (List.range 8).foldl (fun c i => if bit mask.toNat i then setSlot c i StatSlot.reset else c) c1, draws := n1 }

/-- STAT MAX (R121). -/
def effStatMax (c : Cell) (n slot v lanes : Nat) : OpResult :=
  let (c1, n1) := settled c n
  .done { cell := setSlot c1 slot (slotMax (slotOf c1 slot) ((vReg c1 v).take lanes)), draws := n1, opCounts := [(19, lanes)] }

/-- STAT SUM (R122). -/
def effStatSum (c : Cell) (n slot v lanes : Nat) : OpResult :=
  let (c1, n1) := settled c n
  let (x, r) := slotSum (slotOf c1 slot) ((vReg c1 v).take lanes)
  .done { cell := setSlot c1 slot x, raised := r, draws := n1, opCounts := [(19, lanes)] }

/-- STAT READ (R123, R124). -/
def effStatRead (c : Cell) (n slot v : Nat) : OpResult :=
  let (c1, n1) := settled c n
  let (l, r) := slotRead (slotOf c1 slot)
  .done { cell := setV c1 v l, raised := r, draws := n1 }

/-! ### MOVE (R101, R102) -/

/-- The status word of a cell (Table 4-11). -/
def statusWord (c : Cell) : Nat :=
  b2n c.nv + 2 * b2n c.ofl + 4 * b2n c.cancel + 8 * b2n c.empty + c.faultCode.toNat * 2 ^ 24 + c.faultIndex.toNat * 2 ^ 32

/-- MOVE DESC: the 64 B descriptor at a[ra], for the mover's tile queue; one that is not 64 B aligned is handed over and
fails there (Table 8-9). `serves` is the running context and the step of it in flight. -/
def effMoveDesc (regs : List Region) (c : Cell) (n ra : Nat) (serves : Nat × Nat) : OpResult :=
  let o := aReg c ra
  if outOfRange o 64 then .fault 1
  else
    let r := tileRead regs c .mover n o 64
    if r.poisoned then .fault 3
    else .done { cell := r.cell, reads := r.rows, draws := r.draws
                 desc := some { raw := r.bytes, generation := 0, context := serves.1, step := serves.2, tile := c.tileNo, misaligned := decide (o % 64 ≠ 0) } }

/-- The operations in progress may have raised their flags already, or raise them later (R101): draw `n` on decides (DESIGN CHOICE, log entry 72). -/
def raiseSome : List Issued → Nat → Cell → List Issued × Cell × Nat
  | [], n, c => ([], c, n)
  | i :: t, n, c =>
    if i.raised = quiet then
      let (t', c', n') := raiseSome t n c
      (i :: t', c', n')
    else if Config.flagLater n then
      let (t', c', n') := raiseSome t (n + 1) c
      (i :: t', c', n')
    else
      let (t', c', n') := raiseSome t (n + 1) (setFlags c i.raised)
      ({ i with raised := quiet } :: t', c', n')

/-- MOVE FLAGS at its execution: what it writes to tile offset `o`, and the cell with NV, OF, CANCEL and EMPTY cleared in the
same cycle. A flag raised later by an operation in progress stays set (R101). -/
def captureFlags (regs : List Region) (c : Cell) (n o : Nat) : Cell × List (Nat × List Byte) × Nat :=
  let (l, c1, n1) := raiseSome c.issued n c
  ({ c1 with issued := l, nv := false, ofl := false, cancel := false, empty := false }, tilePieces regs c o (leBytes (statusWord c1) 8), n1)

/-- MOVE FLAGS: the status word to a[ra]. Behind a MOVE DESC that waits, it waits for its turn in the mover queue (R91). -/
def effMoveFlags (regs : List Region) (c : Cell) (n ra : Nat) : OpResult :=
  let o := aReg c ra
  if outOfRange o 8 then .fault 1
  else if o % 8 ≠ 0 then .fault 2
  else if c.issued.any (fun i => i.desc.isSome || i.flagsAt.isSome) then .done { cell := c, flagsAt := some o, draws := n }
  else
    let (c1, w, n1) := captureFlags regs c n o
    .done { cell := c1, writes := w, draws := n1 }

end Sys2Proof.Machine
end

