-- ==== Sys2Proof/Machine/TileCode.lean ====
section
/-! DEFINITION. Machine/TileCode.lean: the 64-bit words of tile operations (R94 to R107, Tables 4-4 to 4-12): an encoder,
and a decoder that rejects reserved classes and forms and every non-zero field that an operation does not use. -/

namespace Sys2Proof.Machine

open Sys2Proof

/-- The fields of MMA RUN (Table 4-5). -/
def encodeRun (f : RunOp) : Nat :=
  1 * 2 ^ 60 + b2n f.acc * 2 ^ 57 + b2n f.ta * 2 ^ 56 + b2n f.tb * 2 ^ 55 + f.fmtA * 2 ^ 51 + f.fmtB * 2 ^ 47
    + f.raElem * 2 ^ 43 + f.raScale * 2 ^ 39 + f.rbElem * 2 ^ 35 + f.rbScale * 2 ^ 31 + f.mMinus1 * 2 ^ 24
    + f.bank * 2 ^ 23 + f.accRow * 2 ^ 16 + f.kUnits

def decodeRun (w : Nat) : RunOp :=
  { acc := bit w 57, ta := bit w 56, tb := bit w 55, fmtA := bits w 51 4, fmtB := bits w 47 4, raElem := bits w 43 4
    raScale := bits w 39 4, rbElem := bits w 35 4, rbScale := bits w 31 4, mMinus1 := bits w 24 7, bank := bits w 23 1
    accRow := bits w 16 7, kUnits := bits w 0 16 }

/-- The fields of MMA DRAIN (Table 4-6). -/
def encodeDrain (f : DrainOp) : Nat :=
  1 * 2 ^ 60 + 1 * 2 ^ 58 + b2n f.sat * 2 ^ 57 + f.fmtOut * 2 ^ 53 + f.rdElem * 2 ^ 49 + f.rdScale * 2 ^ 45
    + f.fusion * 2 ^ 41 + f.rf * 2 ^ 37 + f.bank * 2 ^ 36 + f.accRow * 2 ^ 29 + f.rowsMinus1 * 2 ^ 22
    + f.statMode * 2 ^ 20 + f.statSlot * 2 ^ 17 + f.outPitch * 2 ^ 4

def decodeDrain (w : Nat) : DrainOp :=
  { sat := bit w 57, fmtOut := bits w 53 4, rdElem := bits w 49 4, rdScale := bits w 45 4, fusion := bits w 41 4
    rf := bits w 37 4, bank := bits w 36 1, accRow := bits w 29 7, rowsMinus1 := bits w 22 7, statMode := bits w 20 2
    statSlot := bits w 17 3, outPitch := bits w 4 12 }

/-- A VEC word (Table 4-8). -/
def encodeVec (vop vd vs1 vs2 vs3 ra fmt sat imm : Nat) : Nat :=
  2 * 2 ^ 60 + vop * 2 ^ 54 + vd * 2 ^ 51 + vs1 * 2 ^ 48 + vs2 * 2 ^ 45 + vs3 * 2 ^ 42 + ra * 2 ^ 38 + fmt * 2 ^ 34
    + sat * 2 ^ 33 + imm

/-- A STAT word (Table 4-10). -/
def encodeStat (sub slot v lanes mask : Nat) : Nat :=
  4 * 2 ^ 60 + sub * 2 ^ 57 + slot * 2 ^ 54 + v * 2 ^ 51 + lanes * 2 ^ 45 + mask * 2 ^ 37

/-- A LOOP word (Table 4-12). -/
def encodeLoop (sub rest : Nat) : Nat := 9 * 2 ^ 60 + sub * 2 ^ 56 + rest

/-- The word of a tile operation. -/
def encodeTile : TileOp → Nat
  | .run f => encodeRun f
  | .drain f => encodeDrain f
  | .vld vd ra fmt imm => encodeVec 0x00 vd 0 0 0 ra fmt 0 imm.toNat
  | .vst v ra fmt sat imm => encodeVec 0x01 0 v 0 0 ra fmt (b2n sat) imm.toNat
  | .vadd vd a b => encodeVec 0x02 vd a b 0 0 0 0 0
  | .vsub vd a b => encodeVec 0x03 vd a b 0 0 0 0 0
  | .vmul vd a b => encodeVec 0x04 vd a b 0 0 0 0 0
  | .vfma vd a b d => encodeVec 0x05 vd a b d 0 0 0 0
  | .vmax vd a b => encodeVec 0x06 vd a b 0 0 0 0 0
  | .vmin vd a b => encodeVec 0x07 vd a b 0 0 0 0 0
  | .vmov vd a => encodeVec 0x08 vd a 0 0 0 0 0 0
  | .vabs vd a => encodeVec 0x09 vd a 0 0 0 0 0 0
  | .vneg vd a => encodeVec 0x0A vd a 0 0 0 0 0 0
  | .vbcast vd imm => encodeVec 0x0B vd 0 0 0 0 0 0 imm.toNat
  | .vaddi vd a imm => encodeVec 0x0C vd a 0 0 0 0 0 imm.toNat
  | .vmuli vd a imm => encodeVec 0x0D vd a 0 0 0 0 0 imm.toNat
  | .vrsum vd a => encodeVec 0x0E vd a 0 0 0 0 0 0
  | .vrmax vd a => encodeVec 0x0F vd a 0 0 0 0 0 0
  | .vmsk vd a ra imm => encodeVec 0x10 vd a 0 0 ra 0 0 imm.toNat
  | .exp2 vd v => 3 * 2 ^ 60 + 0 * 2 ^ 56 + vd * 2 ^ 53 + v * 2 ^ 50
  | .log2 vd v => 3 * 2 ^ 60 + 1 * 2 ^ 56 + vd * 2 ^ 53 + v * 2 ^ 50
  | .statClr m => encodeStat 0 0 0 0 m.toNat
  | .statMax slot v lanes => encodeStat 1 slot v (lanes - 1) 0
  | .statSum slot v lanes => encodeStat 2 slot v (lanes - 1) 0
  | .statRead slot v => encodeStat 3 slot v 0 0
  | .moveDesc ra => 5 * 2 ^ 60 + 0 * 2 ^ 58 + ra * 2 ^ 54
  | .moveFlags ra => 5 * 2 ^ 60 + 1 * 2 ^ 58 + ra * 2 ^ 54
  | .semWait sem n peek => 6 * 2 ^ 60 + sem * 2 ^ 54 + n * 2 ^ 38 + b2n peek * 2 ^ 37
  | .semPost sem inc remote cell => 7 * 2 ^ 60 + sem * 2 ^ 54 + inc * 2 ^ 38 + b2n remote * 2 ^ 37 + cell * 2 ^ 25
  | .swap r => 8 * 2 ^ 60 + r * 2 ^ 56
  | .loopBegin k body => encodeLoop 0 (k * 2 ^ 54 + (body - 1) * 2 ^ 46)
  | .loopKset k v => encodeLoop 1 (k * 2 ^ 54 + v * 2 ^ 38)
  | .loopAset a v => encodeLoop 2 (a * 2 ^ 52 + v.toNat)
  | .loopAadd a v => encodeLoop 3 (a * 2 ^ 52 + v.toNat)
  | .fence m => 10 * 2 ^ 60 + m.toNat * 2 ^ 54

/-- A VEC word read by its vop (Table 4-9). -/
def decodeVec (w : Nat) : Option TileOp :=
  let vd := bits w 51 3
  let a := bits w 48 3
  let b := bits w 45 3
  let d := bits w 42 3
  let ra := bits w 38 4
  let fmt := bits w 34 4
  let imm := BitVec.ofNat 32 (bits w 0 32)
  match bits w 54 6 with
  | 0x00 => some (.vld vd ra fmt imm)
  | 0x01 => some (.vst a ra fmt (bit w 33) imm)
  | 0x02 => some (.vadd vd a b)
  | 0x03 => some (.vsub vd a b)
  | 0x04 => some (.vmul vd a b)
  | 0x05 => some (.vfma vd a b d)
  | 0x06 => some (.vmax vd a b)
  | 0x07 => some (.vmin vd a b)
  | 0x08 => some (.vmov vd a)
  | 0x09 => some (.vabs vd a)
  | 0x0A => some (.vneg vd a)
  | 0x0B => some (.vbcast vd imm)
  | 0x0C => some (.vaddi vd a imm)
  | 0x0D => some (.vmuli vd a imm)
  | 0x0E => some (.vrsum vd a)
  | 0x0F => some (.vrmax vd a)
  | 0x10 => some (.vmsk vd a ra imm)
  | _ => none

/-- A word read by its class and sub-operation (Table 4-4), before the test of its unused bits. -/
def readTile (w : Nat) : Option TileOp :=
  match bits w 60 4 with
  | 1 => (match bits w 58 2 with | 0 => some (.run (decodeRun w)) | 1 => some (.drain (decodeDrain w)) | _ => none)
  | 2 => decodeVec w
  | 3 => (match bits w 56 4 with
    | 0 => some (.exp2 (bits w 53 3) (bits w 50 3)) | 1 => some (.log2 (bits w 53 3) (bits w 50 3)) | _ => none)
  | 4 =>
    let slot := bits w 54 3
    let v := bits w 51 3
    (match bits w 57 3 with
    | 0 => some (.statClr (BitVec.ofNat 8 (bits w 37 8)))
    | 1 => some (.statMax slot v (bits w 45 6 + 1))
    | 2 => some (.statSum slot v (bits w 45 6 + 1))
    | 3 => some (.statRead slot v)
    | _ => none)
  | 5 => (match bits w 58 2 with | 0 => some (.moveDesc (bits w 54 4)) | 1 => some (.moveFlags (bits w 54 4)) | _ => none)
  | 6 => some (.semWait (bits w 54 6) (bits w 38 16) (bit w 37))
  | 7 => some (.semPost (bits w 54 6) (bits w 38 16) (bit w 37) (bits w 25 12))
  | 8 => some (.swap (bits w 56 4))
  | 9 => (match bits w 56 4 with
    | 0 => some (.loopBegin (bits w 54 2) (bits w 46 8 + 1))
    | 1 => some (.loopKset (bits w 54 2) (bits w 38 16))
    | 2 => some (.loopAset (bits w 52 4) (BitVec.ofNat 48 (bits w 0 48)))
    | 3 => some (.loopAadd (bits w 52 4) (BitVec.ofNat 32 (bits w 0 32)))
    | _ => none)
  | 10 => some (.fence (BitVec.ofNat 6 (bits w 54 6)))
  | _ => none

/-- The operation of a word: none for a reserved class or form, and none where a bit that the operation does not use is
set (R7, R94) (DEDUCED, log entry 5). -/
def decodeTile (w : Nat) : Option TileOp :=
  match readTile w with
  | some op => if encodeTile op = w then some op else none
  | none => none

end Sys2Proof.Machine
end

