-- ==== Sys2Proof/Machine/Sequencer.lean ====
section
/-! DEFINITION. Machine/Sequencer.lean: how a cell issues its operations (R91 to R93, R103 to R110): queues, holds,
loops, tile faults and retirement. -/

namespace Sys2Proof.Machine

open Sys2Proof

/-! ### Engines by name -/

def engOf (s : State) : Engine → Eng
  | .mover c => (cellOf s c).mover
  | .gather n => (clusterOf s n).gather
  | .packer n => (clusterOf s n).packer

def setEng (s : State) (e : Engine) (x : Eng) : State :=
  match e with
  | .mover c => modCell s c (fun y => { y with mover := x })
  | .gather n => modCluster s n (fun y => { y with gather := x })
  | .packer n => modCluster s n (fun y => { y with packer := x })

def modEng (s : State) (e : Engine) (f : Eng → Eng) : State := setEng s e (f (engOf s e))

def collOf (s : State) (e : Nat) : Coll := mget Coll.reset s.colls e
def setColl (s : State) (e : Nat) (x : Coll) : State := { s with colls := mset Coll.reset s.colls e x }
def modColl (s : State) (e : Nat) (f : Coll → Coll) : State := setColl s e (f (collOf s e))

/-- The cluster an engine belongs to. -/
def engCluster : Engine → Nat
  | .mover c => c / 16
  | .gather n => n
  | .packer n => n

/-- waiter_kind and waiter of Table 19-10 for an engine's queue. -/
def engWaiter (e : Engine) (q : EngQueue) : Nat × Nat :=
  match e, q with
  | .mover c, .tile => (2, c)
  | .mover c, _ => (1, c)
  | .gather n, .prefetch => (4, n)
  | .gather n, _ => (3, n)
  | .packer n, _ => (5, n)

/-- Changes the task with an identifier. -/
def modTask (x : Eng) (id : Nat) (f : Task → Task) : Eng :=
  { x with tasks := x.tasks.map (fun t => if t.id = id then f t else t) }

/-- A descriptor joins a queue and is accepted (R190). -/
def acceptDesc (x : Eng) (q : EngQueue) (d : QDesc) : Eng :=
  let y := { x with ledger := { x.ledger with accepted := x.ledger.accepted + 1 } }
  match q with
  | .list => { y with listQ := y.listQ ++ [d] }
  | .tile => { y with tileQ := y.tileQ ++ [d] }
  | .prefetch => { y with prefetchQ := y.prefetchQ ++ [d] }

/-! ### Queues and effects -/

/-- The queue of an operation; none for those that the sequencer executes itself (R91, Table 4-4). -/
def queueOf : TileOp → Option CellQueue
  | .run _ => some .run
  | .drain _ => some .drain
  | .exp2 _ _ => some .sfu
  | .log2 _ _ => some .sfu
  | .statClr _ => some .stat
  | .statMax _ _ _ => some .stat
  | .statSum _ _ _ => some .stat
  | .statRead _ _ => some .stat
  | .moveDesc _ => some .mover
  | .moveFlags _ => some .mover
  | .semWait _ _ _ => none
  | .semPost _ _ _ _ => none
  | .swap _ => none
  | .loopBegin _ _ => none
  | .loopKset _ _ => none
  | .loopAset _ _ => none
  | .loopAadd _ _ => none
  | .fence _ => none
  | _ => some .vector

/-- The effect of a queued operation on its cell; `n` is the next free draw, `serves` the running
context and its step in flight. -/
def tileEffect (regs : List Region) (c : Cell) (n : Nat) (serves : Nat × Nat) : TileOp → OpResult
  | .run f => effRun regs c n f
  | .drain f => effDrain regs c n f
  | .vld vd ra fmt imm => effVld regs c n vd ra fmt imm
  | .vst v ra fmt sat imm => effVst regs c n v ra fmt sat imm
  | .vadd vd a b => effLanes c n vd (lanes2 f32Add (vReg c a) (vReg c b))
  | .vsub vd a b => effLanes c n vd (lanes2 f32Sub (vReg c a) (vReg c b))
  | .vmul vd a b => effLanes c n vd (lanes2 f32Mul (vReg c a) (vReg c b))
  | .vfma vd a b d => effLanes c n vd (lanes3 f32Fma (vReg c a) (vReg c b) (vReg c d))
  | .vmax vd a b => effLanes c n vd (lanes2 (fun x y => (f32Max x y, quiet)) (vReg c a) (vReg c b))
  | .vmin vd a b => effLanes c n vd (lanes2 (fun x y => (f32Min x y, quiet)) (vReg c a) (vReg c b))
  | .vmov vd a => effLanes c n vd (lanes1 (fun x => (x, quiet)) (vReg c a))
  | .vabs vd a => effLanes c n vd (lanes1 (fun x => (f32Abs x, quiet)) (vReg c a))
  | .vneg vd a => effLanes c n vd (lanes1 (fun x => (f32Neg x, quiet)) (vReg c a))
  | .vbcast vd imm => effLanes c n vd (List.replicate 64 (imm, quiet))
  | .vaddi vd a imm => effLanes c n vd (lanes1 (fun x => f32Add x imm) (vReg c a))
  | .vmuli vd a imm => effLanes c n vd (lanes1 (fun x => f32Mul x imm) (vReg c a))
  | .vrsum vd a => effTree c n vd a f32Add
  | .vrmax vd a => effTree c n vd a (fun x y => (f32Max x y, quiet))
  | .vmsk vd a ra imm => effVmsk regs c n vd a ra imm
  | .exp2 vd v => effSfu c n vd v 17 sfuExp2
  | .log2 vd v => effSfu c n vd v 18 sfuLog2
  | .statClr m => effStatClr c n m
  | .statMax slot v k => effStatMax c n slot v k
  | .statSum slot v k => effStatSum c n slot v k
  | .statRead slot v => effStatRead c n slot v
  | .moveDesc ra => effMoveDesc regs c n ra serves
  | .moveFlags ra => effMoveFlags regs c n ra
  | .semWait _ _ _ => .done { cell := c, draws := n }
  | .semPost _ _ _ _ => .done { cell := c, draws := n }
  | .swap _ => .done { cell := c, draws := n }
  | .loopBegin _ _ => .done { cell := c, draws := n }
  | .loopKset _ _ => .done { cell := c, draws := n }
  | .loopAset _ _ => .done { cell := c, draws := n }
  | .loopAadd _ _ => .done { cell := c, draws := n }
  | .fence _ => .done { cell := c, draws := n }

/-! ### Program order -/

/-- Ends the loops whose body ends at operation `p`: each counts down its k register and either goes back to the first
operation of its body or ends (R106). Gives the next operation. -/
def closeLoops : List Loop → SMap (BitVec 16) → Nat → Nat × List Loop × SMap (BitVec 16)
  | [], k, p => (p + 1, [], k)
  | l :: t, k, p =>
    if l.last = p then
      let v := mget 0 k l.k - 1
      let k' := mset 0 k l.k v
      if v ≠ 0 then (l.first, l :: t, k') else closeLoops t k' p
    else (p + 1, l :: t, k)

/-- Moves a cell past the operation at index `p`. -/
def passOp (c : Cell) (p : Nat) : Cell :=
  let (pc, ls, k) := closeLoops c.loops c.k p
  { c with pc := pc, loops := ls, k := k, progress := c.progress + 1 }

/-- Starts a tile: every register, accumulator and slot holds its cleared value (R88, R120). -/
def startTile (c : Cell) (words : List (BitVec 64)) : Cell :=
  { c with a := [], k := [], v := [], acc := [], slots := [], tile := words, tileAt := c.nextAt, tileNo := c.tileNo + 1, active := true, faulted := false, pc := 0, loops := [], issued := [], held := none }

/-- A tile that has ended leaves its cell idle until the next tick, unless a newer row's tile waits for its end (R48). -/
def nextTile (c : Cell) : Cell :=
  match c.later with
  | [] => { c with active := false }
  | t :: r => startTile { c with later := r, nextAt := none } t

/-- A tile whose last operation has been issued and has retired ends (R108). -/
def retireTile (c : Cell) : Cell :=
  if c.active && c.issued.isEmpty && c.held.isNone && decide (c.tile.length ≤ c.pc) then nextTile c else c

/-- Holds issue on an operation (R91) (DEDUCED, log entry 72). -/
def holdOp (s : State) (cell : Nat) (op : TileOp) (value : Nat) : State :=
  modCell s cell (fun c => { c with held := some op, heldAt := beginWait s value })

/-- A tile fault (R110): nothing is performed, the cell records where and why, the tile retires as faulted, the cluster
counts it, and the step is aborted at the next tick; poison is classified for it (R278) (DEDUCED, log entry 72). -/
def tileFault (s : State) (cell code : Nat) : State :=
  let c := cellOf s cell
  let s1 := setCell s cell { c with faultIndex := BitVec.ofNat 16 c.pc, faultCode := BitVec.ofNat 8 code, faulted := true, active := false, held := none }
  abortRunning (countErr s1 (cell / 16) 4 1) (if code = 3 then tracePoison s cell else .tileFault)

/-- The queue of issued operations holds at most four of each queue (R91). -/
def queueFull (c : Cell) (q : CellQueue) : Bool := decide (4 ≤ (c.issued.filter (fun i => i.q == q)).length)

/-- The transfers a mover has outstanding (R170). -/
def outstanding (x : Eng) : Nat := x.xfers.length

/-- Adds each of a list of counts. -/
def addCounts (m : SMap Nat) (l : List (Nat × Nat)) : SMap Nat := l.foldl (fun m e => madd m e.1 e.2) m

/-- The context that runs, and its step in flight, as a descriptor names them. -/
def servedStep (s : State) : Nat × Nat :=
  (s.residency.current.getD 0xFFFF, ((runningCtx s).bind (·.inFlight)).elim 0 (·.id))

/-- What a queued operation does in a state. -/
def opEffect (s : State) (cell : Nat) (op : TileOp) : OpResult := tileEffect (layoutOf s) (cellOf s cell) s.freeCount (servedStep s) op

/-- The rows that an operation reads, where it does not fault. -/
def opReads (s : State) (cell : Nat) (op : TileOp) : List Nat :=
  match opEffect s cell op with
  | .fault _ => []
  | .done e => e.reads

/-- Whether a mover-queue operation has to wait for an earlier one (R91). -/
def moverWaits (c : Cell) : Bool := c.issued.any (fun i => i.desc.isSome || i.flagsAt.isSome)

/-- Puts a queued operation to work: its place in its queue, and the counts. A MOVE DESC that the mover can accept at once
retires at once (R101) (DEDUCED, log entry 72). -/
def startOp (s : State) (cell : Nat) (op : TileOp) (q : CellQueue) (e : OpEffect) : State :=
  let c := cellOf s cell
  let accept := e.desc.isSome && decide (outstanding c.mover < 8) && !moverWaits c
  let c1 := match e.desc with
    | some d => if accept then { e.cell with mover := acceptDesc e.cell.mover .tile d } else e.cell
    | none => e.cell
  let mine : Issued := { q := q, op := op, reads := e.reads, writes := e.writes, feeds := e.feeds, desc := e.desc, flagsAt := e.flagsAt, raised := e.raised }
  let c2 := if accept then c1 else { c1 with issued := c1.issued ++ [mine] }
  let c3 := retireTile (passOp { c2 with held := none, bytes := addCounts c2.bytes e.cellCounts } c.pc)
  let s1 := setCell { s with freeCount := e.draws } cell c3
  if e.opCounts.isEmpty then s1 else modCluster s1 (cell / 16) (fun x => { x with ops := addCounts x.ops e.opCounts })

/-- Performs a queued operation: the errors that strike the rows it reads (R146), then its fault or its effect. -/
def performQueued (s : State) (cell : Nat) (op : TileOp) (q : CellQueue) (errs : RowErrs) : State :=
  let s1 := strikeRows s cell (opReads s cell op) errs
  match opEffect s1 cell op with
  | .fault code => tileFault s1 cell code
  | .done e => startOp s1 cell op q e

/-! ### Operations of the sequencer itself -/

/-- The queued operations that write the scratchpad (Tables 4-6, 4-9, R101). -/
def isStore : TileOp → Bool
  | .drain _ => true
  | .vst _ _ _ _ _ => true
  | .moveFlags _ => true
  | _ => false

/-- Whether every earlier operation that writes the scratchpad or hands a transfer to the mover has completed (R104). -/
def writesDone (c : Cell) : Bool := c.issued.all (fun i => !isStore i.op && i.q != .mover)

/-- Whether every earlier scratchpad access has completed (R105). -/
def accessesDone (c : Cell) : Bool := c.issued.all (fun i => !isStore i.op && i.reads.isEmpty)

/-- Whether every transfer that the tile handed to the mover has completed (R107): those that an earlier tile handed over are
not waited for. -/
def moverTileDone (c : Cell) : Bool :=
  let mine (q : EngQueue) (d : QDesc) : Bool := q == .tile && d.tile == c.tileNo
  c.mover.tileQ.all (fun d => !mine .tile d) && c.mover.tasks.all (fun t => !mine t.q t.desc) && c.mover.xfers.all (fun t => !mine t.q t.desc)
    && c.issued.all (fun i => i.desc.isNone)

/-- Whether a FENCE's waits are over (R107): mask bits 5 to 0 stand for word bits [59] to [54]. -/
def fenceDone (c : Cell) (m : BitVec 6) : Bool :=
  let idle (q : CellQueue) : Bool := c.issued.all (fun i => i.q != q)
  (!m[5] || idle .run) && (!m[4] || idle .drain) && (!m[3] || idle .vector) && (!m[2] || idle .sfu)
    && (!m[1] || idle .stat) && (!m[0] || moverTileDone c)

/-- Whether a sequencer operation can complete now. -/
def seqReady (c : Cell) : TileOp → Bool
  | .semWait j n _ => decide (n ≤ (semOf c j).value)
  | .semPost _ _ _ _ => writesDone c
  | .swap _ => accessesDone c
  | .fence m => fenceDone c m
  | _ => true

/-- Inverts the current-half bit of a region (R153). -/
def swapHalf (c : Cell) (r : Nat) : Cell := { c with half := mmod false c.half r (fun b => !b) }

/-- The cell after a sequencer operation that acts on the cell alone. -/
def seqCell (c : Cell) : TileOp → Cell
  | .semWait j n peek => passOp (if peek then c else takeSem c j n) c.pc
  | .swap r => passOp (swapHalf c r) c.pc
  | .loopBegin k body =>
    if mget 0 c.k k = 0 then passOp c (c.pc + body)
    else { c with loops := { k := k, first := c.pc + 1, last := c.pc + body } :: c.loops, pc := c.pc + 1, progress := c.progress + 1 }
  | .loopKset k v => passOp { c with k := mset 0 c.k k (BitVec.ofNat 16 v) } c.pc
  | .loopAset a v => passOp { c with a := mset 0 c.a a v } c.pc
  | .loopAadd a v => passOp { c with a := mmod 0 c.a a (fun x => x + v.signExtend 48) } c.pc
  | _ => passOp c c.pc

/-- Completes a sequencer operation (R103 to R107): a SEM_POST posts to its semaphore, local or remote (R104) (DESIGN CHOICE, log entry 7; DEDUCED, log entry 72). -/
def performSeq (s : State) (cell : Nat) (op : TileOp) : State :=
  let s1 := modCell s cell (fun c => retireTile (seqCell { c with held := none } op))
  match op with
  | .semPost j inc remote target =>
    if remote then applyPost (crossing s1 0 (cell / 2048) (target / 2048) 8) target j inc else applyPost s1 cell j inc
  | _ => s1

/-- The cell waits in its semaphore's queue, at its head (R164). -/
def joinSem (c : Cell) (j : Nat) (w : Waiter) (atHead : Bool) : Cell :=
  { c with semQ := mmod [] c.semQ j (fun l => if atHead then w :: l else l ++ [w]) }

/-- Leaves the head of a semaphore's queue. -/
def leaveSem (c : Cell) (j : Nat) : Cell := { c with semQ := mmod [] c.semQ j (fun l => l.drop 1) }

/-- Grants the wait at the head of a semaphore's queue when it is an engine's or a collective operation's and the count satisfies it
(R164, R307). -/
def grantHead (s : State) (cell sem : Nat) : State :=
  let c := cellOf s cell
  match mget [] c.semQ sem with
  | .engine e q task n :: _ =>
    if (semOf c sem).value < n then s
    else
      let w := match (engOf s e).tasks.find? (fun t => t.id == task) with | some t => t.waitAt | none => {}
      let (k, u) := engWaiter e q
      let s1 := endWait s k 0 u cell sem n false w
      let s2 := modCell s1 cell (fun c => leaveSem (takeSem c sem n) sem)
      modEng s2 e (fun x => modTask x task (fun t => { t with granted := true }))
  | .collective e op n :: _ =>
    if (semOf c sem).value < n then s
    else
      let w := match (collOf s e).ops.find? (fun o => o.opId == op) with | some o => o.waitAt | none => {}
      let s2 := modCell (endWait s 6 0 e cell sem n false w) cell (fun c => leaveSem (takeSem c sem n) sem)
      modColl s2 e (fun x => { x with ops := x.ops.map (fun o => if o.opId = op then { o with granted := true } else o) })
  | _ => s

/-- The operation that the sequencer issues next: the tile's word at the program position (R91, R106, R108). -/
def nextOp (c : Cell) : Option TileOp := (c.tile[c.pc]?).bind (fun w => decodeTile w.toNat)

/-- Whether a cell's sequencer can issue an operation: its tile runs, nothing is held, and the operation is the next one of its
program (R91, R108, R110). -/
def canIssue (c : Cell) (op : TileOp) : Bool := c.active && !c.faulted && c.held.isNone && decide (nextOp c = some op)

/-- Issues one operation of a cell's tile (R91). An operation that is not the next one of a running tile is not issued, nor
anything behind a held operation or after a fault (R108, R110): nothing changes. An operation whose queue is full, or a sequencer
operation that has to wait, holds issue (DEDUCED, log entry 72). -/
def issueOp (s : State) (cell : Nat) (op : TileOp) (errs : RowErrs) : Host.Outcome State Fault Refusal :=
  if !cellOk cell || !op.ok then .refused (.noSuchUnit "cell or operation field")
  else
    let c := cellOf s cell
    if !canIssue c op then .next s
    else
      match queueOf op with
      | some q => .next (if queueFull c q then holdOp s cell op 0 else performQueued s cell op q errs)
      | none =>
        if seqReady c op then .next (performSeq s cell op)
        else
          match op with
          | .semWait j n peek =>
            let s1 := holdOp s cell op (semOf c j).value
            .next (modCell s1 cell (fun c => joinSem c j (.sequencer n peek) true))
          | _ => .next (holdOp s cell op 0)

/-- The trace record of a sequencer wait that ends (R439): SEM_WAIT and FENCE with mask bit [54]. -/
def traceHeld (s : State) (cell : Nat) (op : TileOp) (isOpen : Bool) : State :=
  let w := (cellOf s cell).heldAt
  match op with
  | .semWait j n _ => endWait s 0 0 cell cell j n isOpen w
  | .fence m => if m[0] then endWait s 0 2 cell cell 0 0 isOpen w else s
  | _ => s

/-- The held operation of a cell, once what it waits for has come about: room in its queue, or the end of its wait. -/
def resumeHeld (s : State) (cell : Nat) (errs : RowErrs) : State :=
  let c := cellOf s cell
  match c.held with
  | none => s
  | some op =>
    match queueOf op with
    | some q => if queueFull c q then s else performQueued s cell op q errs
    | none =>
      if seqReady c op then
        let s1 := traceHeld s cell op false
        let s2 := match op with | .semWait j _ _ => modCell s1 cell (fun c => leaveSem c j) | _ => s1
        performSeq s2 cell op
      else s

/-! ### Interlocks and retirement (R92, R108) -/

/-- The v registers that an operation reads and writes. -/
def vUses : TileOp → List Nat
  | .vst v _ _ _ _ => [v]
  | .vadd _ a b => [a, b]
  | .vsub _ a b => [a, b]
  | .vmul _ a b => [a, b]
  | .vfma _ a b d => [a, b, d]
  | .vmax _ a b => [a, b]
  | .vmin _ a b => [a, b]
  | .vmov _ a => [a]
  | .vabs _ a => [a]
  | .vneg _ a => [a]
  | .vaddi _ a _ => [a]
  | .vmuli _ a _ => [a]
  | .vrsum _ a => [a]
  | .vrmax _ a => [a]
  | .vmsk _ a _ _ => [a]
  | .exp2 _ a => [a]
  | .log2 _ a => [a]
  | .statMax _ v _ => [v]
  | .statSum _ v _ => [v]
  | _ => []

def vSets : TileOp → List Nat
  | .vld d _ _ _ => [d]
  | .vadd d _ _ => [d]
  | .vsub d _ _ => [d]
  | .vmul d _ _ => [d]
  | .vfma d _ _ _ => [d]
  | .vmax d _ _ => [d]
  | .vmin d _ _ => [d]
  | .vmov d _ => [d]
  | .vabs d _ => [d]
  | .vneg d _ => [d]
  | .vbcast d _ => [d]
  | .vaddi d _ _ => [d]
  | .vmuli d _ _ => [d]
  | .vrsum d _ => [d]
  | .vrmax d _ => [d]
  | .vmsk d _ _ _ => [d]
  | .exp2 d _ => [d]
  | .log2 d _ => [d]
  | .statRead _ v => [v]
  | _ => []

/-- Whether an earlier operation `j` has to be final before a later one `i` can be (R92): `i` reads or writes a v register that
`j` writes, or one of them is a RUN into and the other a DRAIN of the same bank. -/
def interlocked (j i : TileOp) : Bool :=
  (vSets j).any (fun v => (vUses i).contains v || (vSets i).contains v)
    || (match j, i with
      | .run f, .drain g => f.bank == g.bank
      | .drain f, .run g => f.bank == g.bank
      | _, _ => false)

/-- The oldest operation of a queue, with those issued before it. -/
def oldestOf (q : CellQueue) : List Issued → List Issued → Option (List Issued × Issued)
  | _, [] => none
  | before, i :: t => if i.q = q then some (before, i) else oldestOf q (before ++ [i]) t

/-- Whether an operation can retire (R92, R101, R108): no earlier operation that it depends on is still to be final, a MOVE DESC's
descriptor can be accepted, and a MOVE FLAGS has had its turn. -/
def mayRetire (c : Cell) (before : List Issued) (i : Issued) : Bool :=
  before.all (fun j => !interlocked j.op i.op) && !(i.desc.isSome && decide (8 ≤ outstanding c.mover)) && i.flagsAt.isNone

/-- Replaces the oldest operation of a queue. -/
def setOldest (q : CellQueue) (x : Issued) : List Issued → List Issued
  | [] => []
  | i :: t => if i.q = q then x :: t else i :: setOldest q x t

/-- A MOVE FLAGS that has come to the head of the mover queue is executed (R91, R101). -/
def runFlags (regs : List Region) (c : Cell) (n : Nat) : Cell × Nat :=
  match oldestOf .mover [] c.issued with
  | none => (c, n)
  | some (_, i) =>
    match i.flagsAt with
    | none => (c, n)
    | some o =>
      let (c1, w, n1) := captureFlags regs c n o
      ({ c1 with issued := setOldest .mover { i with flagsAt := none, writes := w } c1.issued }, n1)

/-- The oldest operation of a queue retires (R108), once it may: its writes are performed, a drain's remaining rows reach their
slots, its flags are raised, and a MOVE DESC whose descriptor waited is accepted (R101). -/
def retireFirst (regs : List Region) (c : Cell) (q : CellQueue) (n : Nat) : Cell × Nat :=
  match oldestOf q [] c.issued with
  | none => (c, n)
  | some (before, i) =>
    if !mayRetire c before i then (c, n)
    else
      let rest := c.issued.eraseP (fun x => x.q == q)
      let c1 := setFlags (i.feeds.foldl feedSlot (performWrites { c with issued := rest } i.writes)) i.raised
      let c2 := match i.desc with
        | some d => { c1 with mover := acceptDesc c1.mover .tile d }
        | none => c1
      let (c3, n1) := runFlags regs c2 n
      (retireTile { c3 with progress := c3.progress + 1 }, n1)

end Sys2Proof.Machine
end

