-- ==== Sys2Proof/Machine/Windows.lean ====
section
/-! DEFINITION. Machine/Windows.lean: the windows and the control space (R26 to R28, R154 to R157, R160, R162, R163, R185
to R188): window reads and writes, the mailbox page, semaphore and credit words, and the steps of chapter 07. -/

namespace Sys2Proof.Machine

open Sys2Proof

/-! ### The address map (Table 1-6) -/

inductive Place where
  | stack | window (cell off : Nat) | semPage (cell off : Nat) | mailbox (cell off : Nat) | creditPage (cell off : Nat)
  | host | reserved
  deriving DecidableEq, Repr

/-- What a device physical address names. -/
def placeOf (a : Nat) : Place :=
  if a < 24 * stackSize then .stack
  else if a < 0x200000000000 then .reserved
  else if a < 0x200040000000 then .window ((a - 0x200000000000) / 0x40000) (a % 0x40000)
  else if a < 0x300000000000 then .reserved
  else if a < 0x300001000000 then .semPage ((a - 0x300000000000) / 0x1000) (a % 0x1000)
  else if a < 0x300002000000 then .mailbox ((a - 0x300001000000) / 0x1000) (a % 0x1000)
  else if a < 0x300003000000 then .creditPage ((a - 0x300002000000) / 0x1000) (a % 0x1000)
  else if a < 0x400000000000 then .reserved
  else if a < 0x1000000000000 then .host
  else .reserved

/-- Who acts: its owner tag, the cluster it sits at, the cell whose mover it is, the context it serves, and whether it acts on the
fumarole path (DEDUCED, log entry 74). -/
structure Actor where
  owner : Nat
  cluster : Nat
  self : Option Nat
  context : Nat
  ctl : Bool := false
  deriving DecidableEq, Repr

def Actor.src (x : Actor) : Source := { owner := x.owner, cluster := x.cluster }

/-- The viaduct quarter between an actor and a cell (R14, R18): its DATA plane's, and Q0 for a packet of the CTL network, which has
no paired DATA packet. -/
def Actor.quarter (x : Actor) (cell : Nat) : Nat := if x.ctl then 0 else cellPlane x.cluster cell

/-- Bytes that an actor sends to a cell, and that it receives from one. -/
def sentTo (s : State) (x : Actor) (cell n : Nat) : State := crossing s (x.quarter cell) (x.cluster / 128) (cell / 2048) n
def gotFrom (s : State) (x : Actor) (cell n : Nat) : State := crossing s (x.quarter cell) (cell / 2048) (x.cluster / 128) n

/-! ### Window accesses (R155) -/

/-- Whether every byte of a span falls inside one valid region that permits the direction (R155 conditions 2 and 3). -/
def regionAllows (regs : List Region) (o n : Nat) (write : Bool) : Bool :=
  regs.any (fun r => r.valid && (if write then r.winWrite else r.winRead) && decide (r.base ≤ o) && decide (o + n ≤ r.base + regionSpan r))

/-- Whether an owner tag passes the guard at a cell: it is the partition of the cell's current context (Table 16-2). -/
def cellGuard (s : State) (owner : Nat) : Bool := decide (runningPart s = some owner)

/-- The outcome of the checks of R155 for an access of an actor: none when it may be performed, else the state after the
refusal. The cell's own mover passes (DEDUCED, log entry 74). -/
def windowRefused (s : State) (x : Actor) (cell o n : Nat) (write : Bool) : Option State :=
  if x.self = some cell then none
  else if !cellGuard s x.owner then some (guardFault s x.owner)
  else if regionAllows (layoutOf s) o n write then none
  else some (modCell s cell (fun c => { c with windowFault := c.windowFault + 1 }))

/-- Counts the cycles in which an external write meets an internal read of the same row (R148): with counting enabled,
each row that an operation still in its queue reads may or may not meet the write in its cycle. -/
def sameRow (s : State) (cell o n : Nat) : State :=
  let hits := (rowSpan o n).filter (fun r => (cellOf s cell).issued.any (fun i => i.reads.contains r))
  if s.obs.sameRowOn then
    hits.foldl (fun s _ => { modCell s cell (fun c => { c with sameRow := (c.sameRow + Config.pick s.freeCount % 2) % 2 ^ 32 }) with freeCount := s.freeCount + 1 }) s
  else s

/-- A window write of bytes within one cell's window. A write of a cell's own mover meets internal reads as any external write does
(R145, R148) (DESIGN CHOICE, log entry 18). -/
def windowPut (s : State) (x : Actor) (cell o : Nat) (bs : List Byte) (poison : Bool) : State × Nat :=
  match windowRefused s x cell o bs.length true with
  | some s1 => (s1, stNotPermitted)
  | none =>
    let s1 := modCell (settleSpan (sameRow s cell o bs.length) cell o bs.length) cell (fun c => spWrite c o bs poison)
    (sentTo (if x.self = some cell then s1 else account (countCell s1 cell 3 bs.length) x.context acWindow bs.length) x cell bs.length, 0)

/-- A window read within one row: the bytes and whether they are poisoned. `errs` are the errors that strike its rows (R146). -/
def windowGet (s : State) (x : Actor) (cell o n : Nat) (errs : RowErrs := []) : State × List Byte × Bool × Nat :=
  match windowRefused s x cell o n false with
  | some s1 => (s1, List.replicate n 0, true, stNotPermitted)
  | none =>
    let s1 := settleSpan (strikeRows s cell (rowSpan o n) errs) cell o n
    let c := cellOf s1 cell
    let p := spPoisoned c o n
    (gotFrom (if x.self = some cell then s1 else countCell s1 cell 4 n) x cell n, if p then List.replicate n 0 else readBytes c.sp o n, p, 0)

/-! ### Semaphore, credit and mailbox pages -/

/-- A semaphore word and a credit word (Tables 7-9 and 7-6). -/
def semWord (c : Cell) (j : Nat) : Nat := (semOf c j).value + 2 ^ 16 * b2n (semOf c j).ovf
def creditWord (c : Cell) (j : Nat) : Nat := (creditOf c j).value + 2 ^ 11 * b2n (creditOf c j).ovf

/-- The 32 bytes of an error record (Table 8-8); a place never written reads zero. -/
def errRecBytes (m : SMap ErrRec) (i : Nat) : List Byte :=
  match m.find? (fun p => p.1 == i) with
  | some (_, r) => leBytes r.tag 4 ++ leBytes r.status 2 ++ leBytes (r.entry % 65536) 2 ++ leBytes (r.frame % 2 ^ 48) 8
      ++ leBytes (r.address % 2 ^ 48) 8 ++ leBytes r.queue 1 ++ leBytes 0 3 ++ leBytes r.generation 4
  | none => List.replicate 32 0

def errBytes (e : Eng) (i : Nat) : List Byte := errRecBytes e.errs i

/-- The error head (Table 8-7). -/
def headWord (total : Nat) : Nat := (total % 65536) * 65536 + total % 16
def errHead (e : Eng) : Nat := headWord e.errTotal

/-- The error material of an engine as a mailbox page shows it from its base (Table 8-6): 0x230 bytes. -/
def engPage (e : Eng) : List Byte :=
  (List.range 16).flatMap (errBytes e) ++ leBytes (errHead e) 8 ++ leBytes e.overwritten 4 ++ leBytes 0 4
    ++ leBytes (e.ledger.accepted % 2 ^ 48) 8 ++ leBytes (e.ledger.completed % 2 ^ 48) 8
    ++ leBytes (e.ledger.failed % 2 ^ 48) 8 ++ leBytes (e.ledger.cancelled % 2 ^ 48) 8

/-- The bytes of a span of a cell's mailbox page (Table 8-6); Reserved offsets read zero. -/
def mailboxRead (s : State) (cell o n : Nat) : List Byte :=
  let c := cellOf s cell
  if o < 0x800 then readBytes c.mailbox o n
  else if o < 0xC00 then bytesAt (engPage c.mover) (o - 0x800) n
  else if cell % 16 = 0 then bytesAt (engPage (clusterOf s (cell / 16)).gather) (o - 0xC00) n
  else List.replicate n 0

/-- Marks the error records that a span of an engine's page shows as read (R188), and clears its overwritten count where
the span shows it (RC). -/
def engReadMarks (e : Eng) (o n : Nat) (clear : Bool) : Eng :=
  let seen (i : Nat) : Bool := decide (32 * i < o + n) && decide (o < 32 * i + 32)
  { e with errs := e.errs.map (fun p => if seen p.1 then (p.1, { p.2 with read := true }) else p)
           overwritten := if clear && decide (o < 0x210) && decide (0x208 < o + n) then 0 else e.overwritten }

/-- A read of a span of a mailbox page with its effects. -/
def mailboxGet (s : State) (cell o n : Nat) : State × List Byte :=
  let d := mailboxRead s cell o n
  if o < 0x800 then (s, d)
  else if o < 0xC00 then (modEng s (.mover cell) (fun e => engReadMarks e (o - 0x800) n true), d)
  else if cell % 16 = 0 then (modEng s (.gather (cell / 16)) (fun e => engReadMarks e (o - 0xC00) n true), d)
  else (s, d)

/-- The path of a packet of the CTL network (Table 1-3): semaphore and credit operations and mailbox writes. -/
def Actor.onCtl (x : Actor) : Actor := { x with ctl := true }

/-- Posts a semaphore under the guard (R162, R163): a refused post has no effect (R27). -/
def semAdd (s : State) (x : Actor) (cell j inc : Nat) : State × Nat :=
  if !cellGuard s x.owner then (guardFault s x.owner, stNotPermitted)
  else (applyPost (sentTo s x.onCtl cell 8) cell j (inc % 65536), 0)

/-- Adds landing credits under the guard (R160). -/
def creditPut (s : State) (x : Actor) (cell j u : Nat) : State × Nat :=
  if !cellGuard s x.owner then (guardFault s x.owner, stNotPermitted)
  else (applyCredit (sentTo s x.onCtl cell 8) cell j (u % 2048), 0)

/-- A write into a message slot under the guard. A slot holds no poison mark: poisoned data is not written (R185). -/
def mailboxPut (s : State) (x : Actor) (cell o : Nat) (bs : List Byte) (poison : Bool) : State × Nat :=
  if !cellGuard s x.owner || decide (0x800 < o + bs.length) then (guardFault s x.owner, stNotPermitted)
  else if poison then (s, stUncorrectable)
  else (modCell (sentTo s x.onCtl cell bs.length) cell (fun c => { c with mailbox := writeBytes c.mailbox o bs }), 0)

/-- A fumarole write of at most 256 bytes (Table 8-5): into a window, a message slot, a post alias or an add alias. -/
def fumarolePut (s : State) (x : Actor) (addr : Nat) (bs : List Byte) (poison : Bool) : State × Nat :=
  match placeOf addr with
  | .window cell o => windowPut s x.onCtl cell o bs poison
  | .mailbox cell o => mailboxPut s x cell o bs poison
  | .semPage cell o =>
    if o < 0x200 ∨ 0x400 ≤ o then (guardFault s x.owner, stNotPermitted)
    else if poison then (s, stUncorrectable)
    else semAdd s x cell ((o - 0x200) / 8) (fieldAt bs 0 2)
  | .creditPage cell o =>
    if o < 0x100 ∨ 0x200 ≤ o then (guardFault s x.owner, stNotPermitted)
    else if poison then (s, stUncorrectable)
    else creditPut s x cell ((o - 0x100) / 8) (fieldAt bs 0 2)
  | _ => (guardFault s x.owner, stNotPermitted)

/-- A fumarole read of at most 256 bytes (Table 8-5). -/
def fumaroleGet (s : State) (x : Actor) (addr n : Nat) (errs : RowErrs := []) : State × List Byte × Bool × Nat :=
  let no : State × List Byte × Bool × Nat := (guardFault s x.owner, List.replicate n 0, true, stNotPermitted)
  match placeOf addr with
  | .window cell o => windowGet s x.onCtl cell o n errs
  | .mailbox cell o =>
    if cellGuard s x.owner then (let (s1, d) := mailboxGet s cell o n; (gotFrom s1 x.onCtl cell n, d, false, 0)) else no
  | .semPage cell o =>
    if !cellGuard s x.owner || decide (0x200 < o + n) then no
    else (gotFrom s x.onCtl cell n, (bytesAt ((List.range 64).flatMap (fun j => leBytes (semWord (cellOf s cell) j) 8)) o n), false, 0)
  | .creditPage cell o =>
    if !cellGuard s x.owner || decide (0x100 < o + n) then no
    else (gotFrom s x.onCtl cell n, (bytesAt ((List.range 32).flatMap (fun j => leBytes (creditWord (cellOf s cell) j) 8)) o n), false, 0)
  | _ => no

/-! ### The steps -/

/-- An actor of a bare access: no cell's own mover. -/
def plainActor (s : State) (src : Source) : Actor :=
  { owner := src.owner, cluster := src.cluster, self := none, context := s.residency.current.getD 0xFFFF }

/-- WINDOW_WRITE (R17, R146, R155, R156): a write within one row of a window, the unit of R246: a write of more rows is one such access
per row. An uncorrectable mesh error poisons its data (DEDUCED, log entry 74). -/
def execWindowWrite (src : Source) (addr : Nat) (data : List Byte) (poison : Bool) (mesh : MeshErr) (s : State) : Host.Outcome State Fault Refusal :=
  if !src.ok || !mesh.ok || data.isEmpty || decide (rowBytes < addr % rowBytes + data.length) then .refused (.noSuchUnit "source, router or extent")
  else
    let s0 := meshStrike s mesh
    match placeOf addr with
    | .window cell o =>
      let (s1, st) := windowPut s0 (plainActor s src) cell o data (poison || mesh == .uncorrectable)
      .next (answerStatus s1 st)
    | _ => .next (answerStatus (guardFault s0 src.owner) stNotPermitted)

/-- WINDOW_READ (R146, R155): the row that holds an address, or poisoned zeros. `err` strikes the row as it is read, `mesh` the packet
that carries it (R17) (DEDUCED, log entry 74). -/
def execWindowRead (src : Source) (addr : Nat) (err : BitErr) (mesh : MeshErr) (s : State) : Host.Outcome State Fault Refusal :=
  if !src.ok || !mesh.ok then .refused (.noSuchUnit "source or router")
  else
    match placeOf addr with
    | .window cell o =>
      let row := o / rowBytes
      let (s1, d, p, st) := windowGet s (plainActor s src) cell (row * rowBytes) rowBytes [(2048 * cell + row, err)]
      if st ≠ 0 then .next { s1 with resp := { data := d, poison := p, status := st } }
      else if mesh = .uncorrectable then .next { s1 with resp := { data := zeroLine, poison := true } }
      else .next { meshStrike s1 mesh with resp := { data := d, poison := p } }
    | _ => .next (answer (guardFault s src.owner) poisonLine stNotPermitted)

/-- Whether a fumarole span is well formed: 8 to 256 bytes, a multiple of 8, within one aligned 256 B block (Table 8-4). -/
def spanOk (addr n : Nat) : Bool :=
  decide (8 ≤ n) && decide (n % 8 = 0) && decide (addr % 8 = 0) && decide (addr % 256 + n ≤ 256)

/-- PUT (R185, Table 8-5) (DEDUCED, log entry 74). -/
def execPut (src : Source) (addr : Nat) (data : List Byte) (poison : Bool) (s : State) : Host.Outcome State Fault Refusal :=
  if !src.ok || !spanOk addr data.length then .refused (.noSuchUnit "source or span")
  else
    match placeOf addr with
    | .semPage _ _ => .next (answerStatus (guardFault s src.owner) stNotPermitted)
    | .creditPage _ _ => .next (answerStatus (guardFault s src.owner) stNotPermitted)
    | _ =>
      let (s1, st) := fumarolePut s (plainActor s src) addr data poison
      .next (answerStatus s1 st)

/-- GET (R185, R187, Table 8-5) (DEDUCED, log entry 74). -/
def execGet (src : Source) (addr len : Nat) (errs : RowErrs) (s : State) : Host.Outcome State Fault Refusal :=
  if !src.ok || !spanOk addr len then .refused (.noSuchUnit "source or span")
  else
    let (s1, d, p, st) := fumaroleGet s (plainActor s src) addr len errs
    .next { s1 with resp := { data := d, poison := p, status := st } }

/-- SEM_ADD (R163): a post to a semaphore's post alias. -/
def execSemAdd (src : Source) (cell sem inc : Nat) (s : State) : Host.Outcome State Fault Refusal :=
  if !src.ok || !cellOk cell || decide (64 ≤ sem) || decide (65536 ≤ inc) then .refused (.noSuchUnit "semaphore")
  else
    let (s1, st) := semAdd s (plainActor s src) cell sem inc
    .next (answerStatus s1 st)

/-- CREDIT_ADD (R160): an add to a landing-credit counter's add alias. -/
def execCreditAdd (src : Source) (cell counter units : Nat) (s : State) : Host.Outcome State Fault Refusal :=
  if !src.ok || !cellOk cell || decide (32 ≤ counter) || decide (2048 ≤ units) then .refused (.noSuchUnit "credit counter")
  else
    let (s1, st) := creditPut s (plainActor s src) cell counter units
    .next (answerStatus s1 st)

end Sys2Proof.Machine
end

