-- ==== Sys2Proof/Machine/Engines.lean ====
section
/-! DEFINITION. Machine/Engines.lean: movers and gather engines (R170 to R190): descriptors and their checks, waits and
credits, the movement of data, posts, error records and ledgers. Codec transfers end in Machine/CodecOps.lean. -/

namespace Sys2Proof.Machine

open Sys2Proof

/-- A descriptor's fields (Tables 8-2 and 8-3). -/
structure Desc where
  op : Nat
  fence : Bool
  count : Nat
  length : Nat
  wrap : Nat
  src : Nat
  dst : Nat
  list : Nat
  waitCell : Nat
  waitSem : Nat
  waitN : Nat
  postCell : Nat
  postSem : Nat
  postInc : Nat
  acctCell : Nat
  counter : Nat
  useCredit : Bool
  stride : Nat
  tag : Nat
  deriving DecidableEq, Repr

/-- The fields of a mover's or gather engine's descriptor. -/
def plainDesc (raw : List Byte) : Desc :=
  let c := fieldAt raw 0 8
  let w := fieldAt raw 0x20 8
  let p := fieldAt raw 0x28 8
  let k := fieldAt raw 0x30 8
  { op := bits c 60 4, fence := bit c 59, count := bits c 40 16, length := bits c 16 24, wrap := bits c 12 4
    src := fieldAt raw 8 6, dst := fieldAt raw 0x10 6, list := fieldAt raw 0x18 6
    waitCell := bits w 52 12, waitSem := bits w 46 6, waitN := bits w 30 16
    postCell := bits p 52 12, postSem := bits p 46 6, postInc := bits p 30 16
    acctCell := bits k 52 12, counter := bits k 47 5, useCredit := bit k 46
    stride := fieldAt raw 0x38 4, tag := fieldAt raw 0x3C 4 }

/-- A descriptor as its engine reads it. A pack descriptor (Tables 10-8 and 10-9) has its own control word and no credit
field: it is operation 6 here, each of its blocks a transfer of D bytes. -/
def descOf (e : Engine) (raw : List Byte) : Desc :=
  match e with
  | .packer _ =>
    let c := fieldAt raw 0 8
    { plainDesc raw with op := 6, count := bits c 24 16, length := 128 * bits c 40 8, useCredit := false, stride := 0, wrap := 0, tag := 0 }
  | _ => plainDesc raw

/-- The Reserved bits of a descriptor that must be zero. -/
def descReserved (raw : List Byte) : Bool :=
  let c := fieldAt raw 0 8
  decide (bits c 56 3 ≠ 0 ∨ bits c 0 12 ≠ 0 ∨ fieldAt raw 0x0E 2 ≠ 0 ∨ fieldAt raw 0x16 2 ≠ 0 ∨ fieldAt raw 0x1E 2 ≠ 0
    ∨ bits (fieldAt raw 0x20 8) 0 30 ≠ 0 ∨ bits (fieldAt raw 0x28 8) 0 30 ≠ 0 ∨ bits (fieldAt raw 0x30 8) 0 46 ≠ 0)

def isListOp (op : Nat) : Bool := op == 2 || op == 3

/-- The transfers of a descriptor (R170). -/
def transfersOf (d : Desc) : Nat := if isListOp d.op || d.op == 6 then d.count else 1

/-! ### The checks of Table 8-9, Table 8-4, R181 and R183 -/

/-- Row one: ranges. -/
def descRangeOk (raw : List Byte) (d : Desc) : Bool :=
  decide (d.op < 6) && !descReserved raw && decide (1 ≤ d.length)
    && (if d.op = 1 ∨ isListOp d.op then decide (1 ≤ d.count) else decide (d.count = 0))
    && (isListOp d.op || (decide (d.wrap = 0) && decide (d.stride = 0) && decide (d.list = 0)))
    && (decide (d.op < 4) || (decide (8 ≤ d.length) && decide (d.length ≤ 256)))

/-- Whether an address asks for 128 B alignment in a COPY (Table 8-4). -/
def wide (a : Nat) : Bool := match placeOf a with | .stack => true | .host => true | _ => false

/-- Row two: alignment. Table 8-4 names none for the index list of a ROW_GATHER: its entries' 4 B are asked for (DESIGN CHOICE,
log entry 62). -/
def descAlignOk (d : Desc) : Bool :=
  let small := decide (d.src % 8 = 0) && decide (d.dst % 8 = 0) && decide (d.length % 8 = 0) && decide (d.src % 256 + d.length ≤ 256)
    && decide (d.dst % 256 + d.length ≤ 256)
  match d.op with
  | 1 => decide (d.src % 128 = 0) && decide (d.dst % 16 = 0)
  | 2 => decide (d.list % 128 = 0) && decide (d.dst % 16 = 0) && decide (d.stride % 16 = 0)
  | 4 => small
  | 5 => small
  | _ =>
    let k := if wide d.src || wide d.dst then 128 else 16
    decide (d.src % k = 0) && decide (d.dst % k = 0) && decide (d.length % k = 0)
      && (d.op != 3 || (decide (d.stride % 16 = 0) && decide (d.list % 4 = 0)))

/-- Whether a place is the window of a cell that satisfies a test; an address in a reserved range is left to R27. -/
def windowOf (a : Nat) (ok : Nat → Bool) : Bool := match placeOf a with | .window c _ => ok c | .reserved => true | _ => false

/-- The destination of entry `i` of a list operation (Table 8-3). -/
def entryDst (d : Desc) (i : Nat) : Nat := d.dst + (if d.wrap = 0 then i else i % d.wrap) * d.stride

/-- Whether the destination of every entry of a list operation, from its first byte to its last, lies in windows that satisfy a test. -/
def entriesOk (d : Desc) (ok : Nat → Bool) : Bool :=
  (List.range (if d.wrap = 0 then d.count else min d.wrap d.count)).all (fun i => windowOf (entryDst d i) ok && windowOf (entryDst d i + d.length - 1) ok)

/-- Row three: the combinations of Table 8-4 and R183. The spec names no place for the page list of a PAGE_GATHER but in the
context's descriptor area, which lies in the stacks (R174): one elsewhere is a combination outside the table (DESIGN CHOICE, log
entry 62). -/
def descComboOk (e : Engine) (q : EngQueue) (d : Desc) : Bool :=
  let gather := match e with | .gather _ => true | _ => false
  let mover := match e with | .mover _ => true | _ => false
  let own (c : Nat) : Bool := match e with | .mover k => c == k | .gather n => c / 16 == n | .packer n => c / 16 == n
  let far := placeOf d.src == .host
  let srcOk := match placeOf d.src with
    | .stack => true | .window _ _ => true | .mailbox _ _ => true | .reserved => true
    | .host => gather && q == .prefetch | _ => false
  let dstOk := match placeOf d.dst with
    | .window _ _ => true | .mailbox _ o => decide (o < 0x800) | .reserved => true
    | .stack => far || placeOf d.src == .stack || placeOf d.src == .reserved | _ => false
  match d.op with
  | 0 => srcOk && (if far then placeOf d.dst == .stack || placeOf d.dst == .reserved else dstOk)
  | 1 => (mover || q == .list) && (placeOf d.src == .stack || placeOf d.src == .reserved) && windowOf d.dst (fun _ => true)
  | 2 => gather && q == .list && (placeOf d.list == .stack || placeOf d.list == .reserved) && entriesOk d own
  | 3 => gather && q == .list && (placeOf d.list == .stack || windowOf d.list own) && srcOk && !far && entriesOk d own
  | 4 => mover && windowOf d.src own && (match placeOf d.dst with
      | .window _ _ => true | .reserved => true | .mailbox _ o => decide (o < 0x800)
      | .semPage _ o => decide (0x200 ≤ o) && decide (o < 0x400) && decide (d.length = 8)
      | .creditPage _ o => decide (0x100 ≤ o) && decide (o < 0x200) && decide (d.length = 8) | _ => false)
  | _ => mover && windowOf d.dst own && (match placeOf d.src with
      | .window _ _ => true | .reserved => true | .mailbox _ _ => true
      | .semPage _ o => decide (o + d.length ≤ 0x200) | .creditPage _ o => decide (o + d.length ≤ 0x100) | _ => false)

/-- R181: the cells that an engine may wait on and whose credits it may spend. -/
def descCellsOk (e : Engine) (d : Desc) : Bool :=
  let own (c : Nat) : Bool := match e with | .mover k => c == k | .gather n => c / 16 == n | .packer n => c / 16 == n
  (decide (d.waitN = 0) || own d.waitCell) && (!d.useCredit || own d.acctCell)

/-- The first defect of a descriptor at admission, in the order of Table 8-9. -/
def descDefect (e : Engine) (q : EngQueue) (x : QDesc) : Option Nat :=
  let d := descOf e x.raw
  if x.misaligned then some stParamAlign
  else if !descRangeOk x.raw d then some stParamRange
  else if !descAlignOk d then some stParamAlign
  else if !descComboOk e q d || !descCellsOk e d then some stParamConflict
  else none

/-! ### Errors (R188) -/

def queueCode : EngQueue → Nat | .list => 0 | .tile => 1 | .prefetch => 2

/-- The owner an engine acts for: the partition of the descriptor's context (R365). -/
def ownerOf (s : State) (x : QDesc) : Nat := match ctxOf s x.context with | some c => c.partition | none => 8

/-- Writes an error record at the head (R188) and counts it for the cluster. -/
def recordError (s : State) (e : Engine) (q : EngQueue) (x : QDesc) (status entry addr : Nat) : State :=
  let y := engOf s e
  let i := y.errTotal % 16
  let unread := match y.errs.find? (fun p => p.1 == i) with | some (_, r) => !r.read | none => false
  let r : ErrRec := { tag := (descOf e x.raw).tag, status := status, entry := if isListOp (descOf e x.raw).op then entry else 0
                      frame := frameNow s, address := addr, queue := queueCode q
                      generation := if q = .tile then 0 else x.generation, read := false }
  let y1 := { y with errs := msplice y.errs i 1 [(i, r)], errTotal := y.errTotal + 1, overwritten := y.overwritten + b2n unread }
  countErr (setEng s e y1) (engCluster e) 5 1

/-- Marks a descriptor as failed at its first failure (R190). -/
def failTask (y : Eng) (id : Nat) : Eng :=
  if y.tasks.any (fun t => t.id == id && !t.counted) then
    { modTask y id (fun t => { t with counted := true }) with ledger := { y.ledger with failed := y.ledger.failed + 1 } }
  else y

/-- What a failure does to the step: rows of Table 8-9 that abort, and those that let it continue. -/
def abortsStep (status : Nat) : Bool :=
  status == stParamRange || status == stParamAlign || status == stParamConflict || status == stNoSpace || status == stNotPermitted

/-- A failure of a transfer: record, ledger and abort; a transfer cancelled at an abort leaves no record (R189). -/
def failXfer (s : State) (e : Engine) (x : Xfer) (status addr : Nat) : State :=
  if x.cancelled then s
  else
    let s1 := modEng (recordError s e x.q x.desc status x.entry addr) e (fun y => failTask y x.task)
    if abortsStep status then abortCtx s1 x.desc.context .engine else s1

/-! ### Moving data -/

/-- A run of bytes on its way, with its offset in the transfer and its poison mark. -/
structure Piece where
  off : Nat
  data : List Byte
  poison : Bool
  deriving DecidableEq, Repr

/-- Cuts a span at multiples of `k`: offsets from its start with lengths. -/
def cuts (k : Nat) : Nat → Nat → Nat → Nat → List (Nat × Nat)
  | 0, _, _, _ => []
  | fuel + 1, a, o, n =>
    if n = 0 then []
    else
      let m := min n (k - a % k)
      (o, m) :: cuts k fuel (a + m) (o + m) (n - m)

/-- A read of bytes within one line or row for an engine. Nothing keeps a row of a ROW_GATHER from a host window where its index
carries its address there: it is read as host memory then stands (DESIGN CHOICE, log entry 62). -/
def readAt (s : State) (x : Actor) (a n : Nat) (errs : RowErrs := []) : State × List Byte × Bool × Nat :=
  match placeOf a with
  | .stack =>
    let (s1, d, st) := classARead s x.src a .clean
    (s1, bytesAt d.data (a % 128) n, d.poison, if st = stNotPermitted then st else 0)
  | .window c o => windowGet s x c o n errs
  | .mailbox c o =>
    if cellGuard s x.owner then (let (s1, d) := mailboxGet s c o n; (gotFrom s1 x c n, d, false, 0))
    else (guardFault s x.owner, List.replicate n 0, true, stNotPermitted)
  | .host =>
    match hostTarget s x.owner a n false with
    | some h =>
      let s1 := cacheTranslation s x.owner a n false
      ({ s1 with obs := { s1.obs with hostBytes := s1.obs.hostBytes + n } }, hostRead s h n, false, 0)
    | none => (guardFault s x.owner, List.replicate n 0, true, stNotPermitted)
  | _ => (guardFault s x.owner, List.replicate n 0, true, stNotPermitted)

/-- A write of bytes within one line or row for an engine. A message slot holds no poison mark: nothing goes into it. -/
def writeAt (s : State) (x : Actor) (a : Nat) (bs : List Byte) (poison : Bool) : State × Nat :=
  match placeOf a with
  | .stack => classAWrite s x.src a bs poison
  | .window c o => windowPut s x c o bs poison
  | .mailbox c o => let (s1, st) := mailboxPut s x c o bs poison; (s1, if st = stNotPermitted then st else 0)
  | _ => (guardFault s x.owner, stNotPermitted)

/-- How a movement of bytes went: the state, how far it came, and the first failing address of a guard failure and of a
poisoned source. -/
structure Moved where
  state : State
  stopped : Option Nat := none
  poisoned : Option Nat := none

/-- Writes a piece at a destination, line by line or row by row, until the guard stops it. -/
def putPiece (x : Actor) (dst : Nat) (m : Moved) (p : Piece) : Moved :=
  (cuts 128 (p.data.length / 128 + 2) (dst + p.off) 0 p.data.length).foldl (fun m c =>
    match m.stopped with
    | some _ => m
    | none =>
      let a := dst + p.off + c.1
      let (s1, st) := writeAt m.state x a ((p.data.drop c.1).take c.2) p.poison
      { m with state := s1, stopped := if st = 0 then none else some a }) m

/-- Moves `n` bytes from a source to a destination (R170, Table 8-9): line by line or row by row of the source (DESIGN CHOICE, log entry 62). -/
def moveBytes (s : State) (x : Actor) (src dst n : Nat) : Moved :=
  (cuts 128 (n / 128 + 2) src 0 n).foldl (fun m c =>
    match m.stopped with
    | some _ => m
    | none =>
      let a := src + c.1
      let (s1, bs, p, st) := readAt m.state x a c.2
      if st ≠ 0 then { m with state := s1, stopped := some a }
      else
        let m1 := { m with state := s1, poisoned := if p && m.poisoned.isNone then some a else m.poisoned }
        putPiece x dst m1 { off := c.1, data := if p then List.replicate c.2 0 else bs, poison := p })
    { state := s }

/-- Writes `n` bytes of zeros at a destination, poisoned or not. -/
def zeroTo (s : State) (x : Actor) (dst n : Nat) (poison : Bool) : Moved :=
  putPiece x dst { state := s } { off := 0, data := List.replicate n 0, poison := poison }

/-- The actor of an engine serving a descriptor. -/
def actorOf (s : State) (e : Engine) (x : QDesc) : Actor :=
  { owner := ownerOf s x, cluster := engCluster e, self := (match e with | .mover c => some c | _ => none), context := x.context }

/-- Counts what a mover wrote (Table 19-2): to others and the stacks, or into its own scratchpad. -/
def countMover (s : State) (e : Engine) (dst n : Nat) : State :=
  match e with
  | .mover c => match placeOf dst with
    | .window k _ => if k = c then countCell s c 6 n else countCell s c 5 n
    | _ => countCell s c 5 n
  | _ => s

/-- A completion post (R181, R182): on the fumarole path, under the guard of the cell posted to. -/
def sendPost (s : State) (e : Engine) (x : QDesc) : State :=
  let d := descOf e x.raw
  if d.postInc = 0 then s else (semAdd s (actorOf s e x) d.postCell d.postSem d.postInc).1

/-! ### Admission (R172, R188) -/

/-- The queue of an engine. -/
def queueGet (y : Eng) : EngQueue → List QDesc | .list => y.listQ | .tile => y.tileQ | .prefetch => y.prefetchQ
def queueDrop (y : Eng) : EngQueue → Eng
  | .list => { y with listQ := y.listQ.drop 1 }
  | .tile => { y with tileQ := y.tileQ.drop 1 }
  | .prefetch => { y with prefetchQ := y.prefetchQ.drop 1 }

/-- The admitted descriptors of a queue that still have transfers to issue. -/
def unissued (e : Engine) (y : Eng) (q : EngQueue) : List Task := y.tasks.filter (fun t => t.q == q && decide (t.issued < transfersOf (descOf e t.desc.raw)))

/-- Whether an engine can take the head of a queue: a gather engine's active set holds 16 (R172), every other queue is
served in order (R171); a fence waits for every earlier descriptor of the queue (Table 8-3). -/
def canAdmit (e : Engine) (y : Eng) (q : EngQueue) (d : Desc) : Bool :=
  (if d.fence then y.tasks.all (fun t => t.q != q) else true)
    && (match e, q with
      | .gather _, .list => decide ((unissued e y .list).length < 16)
      | _, _ => (unissued e y q).isEmpty)

def newTask (e : Engine) (y : Eng) (q : EngQueue) (x : QDesc) : Task :=
  { id := y.nextTask, q := q, desc := x, issued := 0, ended := 0, queuedWait := false, granted := false, counted := false
    written := 0, lastSeq := none, cursor := (descOf e x.raw).src, spillAt := 0, spillEnd := false, creditWait := false, waitAt := {} }

/-- A descriptor that fails its checks is counted as failed, recorded, and aborts the step (Table 8-9). Its post is sent once, as R182
says of what ends in error (DEDUCED, log entry 62). -/
def rejectDesc (s : State) (e : Engine) (q : EngQueue) (x : QDesc) (status : Nat) : State :=
  let s1 := modEng (recordError s e q x status 0 0) e (fun y => { y with ledger := { y.ledger with failed := y.ledger.failed + 1 } })
  abortCtx (sendPost s1 e x) x.context .engine

/-- Admits the head of an engine's queue, once it can. -/
def admitHead (s : State) (e : Engine) (q : EngQueue) : State :=
  let y := engOf s e
  match queueGet y q with
  | [] => s
  | x :: _ =>
    if !canAdmit e y q (descOf e x.raw) then s
    else
      let y1 := { queueDrop y q with progress := y.progress + 1 }
      match descDefect e q x with
      | some st => rejectDesc (setEng s e y1) e q x st
      | none => setEng s e { y1 with tasks := y1.tasks ++ [newTask e y1 q x], nextTask := y1.nextTask + 1 }

/-! ### Waits and credits (R181) -/

/-- Whether a transfer of a task needs a semaphore wait that has not been granted. -/
def wantsWait (e : Engine) (t : Task) : Bool := decide ((descOf e t.desc.raw).waitN ≠ 0) && !t.granted

/-- The tasks whose next transfer may wait now: all of a gather engine's active set, else the first of the queue. -/
def waiters (e : Engine) (y : Eng) (q : EngQueue) : List Task :=
  match e, q with | .gather _, .list => unissued e y q | _, _ => (unissued e y q).take 1

/-- The next transfers of tasks join the queues of the semaphores they wait on. -/
def joinWaits (s : State) (e : Engine) (q : EngQueue) : State :=
  (waiters e (engOf s e) q).foldl (fun s t =>
    let d := descOf e t.desc.raw
    if wantsWait e t && !t.queuedWait then
      let w := beginWait s (semOf (cellOf s d.waitCell) d.waitSem).value
      let s1 := modCell s d.waitCell (fun c => joinSem c d.waitSem (.engine e q t.id d.waitN) false)
      modEng s1 e (fun y => modTask y t.id (fun t => { t with queuedWait := true, waitAt := w }))
    else s) s

/-- Credit units of a transfer (R159). -/
def creditUnits (d : Desc) : Nat := ceilDiv d.length 512
def creditReady (s : State) (d : Desc) : Bool :=
  !d.useCredit || decide (creditUnits d ≤ (creditOf (cellOf s d.acctCell) d.counter).value)

/-- A wait for credits is noted when it begins (R159, R439). -/
def noteCredit (s : State) (e : Engine) (t : Task) : State :=
  let d := descOf e t.desc.raw
  if t.creditWait then s
  else
    let w := beginWait s (creditOf (cellOf s d.acctCell) d.counter).value
    modEng s e (fun y => modTask y t.id (fun t => { t with creditWait := true, waitAt := w }))

/-- Takes the credits of a transfer in one step; a wait for them ends. -/
def takeCredits (s : State) (e : Engine) (t : Task) : State :=
  let d := descOf e t.desc.raw
  if !d.useCredit then s
  else
    let (k, u) := engWaiter e t.q
    let s1 := if t.creditWait then endWait s k 1 u d.acctCell d.counter (creditUnits d) false t.waitAt else s
    modCell s1 d.acctCell (fun c => takeCredit c d.counter (creditUnits d))

/-! ### Issue (R170, R180, R181) -/

/-- Far-tier transfers of an engine that are outstanding (R183). -/
def farOut (y : Eng) : Nat := (y.xfers.filter (fun x => x.farTier)).length

/-- How a list entry turns out when it is reached (R180). -/
inductive Entry where
  | pad | bad (status : Nat) | poisoned | page (a : Nat) | row (i : Nat)
  deriving DecidableEq, Repr

/-- Reads entry `i` of a list: the state after it, the entry, and its address. -/
def listEntry (s : State) (x : Actor) (d : Desc) (i : Nat) : State × Entry × Nat :=
  if d.op = 2 then
    let a := d.list + 8 * i
    let (s1, bs, p, st) := readAt s x a 8
    let v := leNat bs
    if st ≠ 0 then (s1, .bad st, a)
    else if p then (s1, .poisoned, a)
    else if bits v 48 15 ≠ 0 then (s1, .bad stParamRange, a)
    else if bit v 63 then (s1, .pad, a)
    else if v % 128 ≠ 0 then (s1, .bad stParamAlign, a)
    else (s1, .page (bits v 0 48), a)
  else
    let a := d.list + 4 * i
    let (s1, bs, p, st) := readAt s x a 4
    if st ≠ 0 then (s1, .bad st, a)
    else if p then (s1, .poisoned, a)
    else if leNat bs = 0xFFFFFFFF then (s1, .pad, a)
    else (s1, .row (leNat bs), a)

/-! ### The accesses of a transfer (R246, R247, R251) -/

/-- The accesses that move `n` bytes: the reads, line by line or row by row of the source. -/
def copyWork (src dst n : Nat) : List Work := (cuts 128 (n / 128 + 2) src 0 n).map (fun c => .read (src + c.1) (dst + c.1) c.2)

/-- The accesses that write bytes at a destination, line by line or row by row of it. -/
def writeWork (dst : Nat) (bs : List Byte) (poison : Bool) : List Work :=
  (cuts 128 (bs.length / 128 + 2) dst 0 bs.length).map (fun c => .write (dst + c.1) ((bs.drop c.1).take c.2) poison)

/-- The accesses that write `n` zeros. -/
def zeroWork (dst n : Nat) (poison : Bool) : List Work := writeWork dst (List.replicate n 0) poison

/-- A span of addresses in whole locations (Table 11-1): words of the control space, rows and lines elsewhere. -/
def wholeSpan (a n : Nat) : Nat × Nat :=
  let u := if 0x300000000000 ≤ a ∧ a < 0x400000000000 then 8 else 128
  (a / u * u, (a + n + u - 1) / u * u)

/-- The locations that an access has still to be performed at. -/
def workSpans : Work → List (Nat × Nat)
  | .read src dst n => [wholeSpan src n, wholeSpan dst n]
  | .write dst bs _ => [wholeSpan dst bs.length]
  | .put src dst n => [wholeSpan src n, wholeSpan dst n]

def spansMeet (a b : List (Nat × Nat)) : Bool := a.any (fun x => b.any (fun y => decide (x.1 < y.2) && decide (y.1 < x.2)))

/-- The locations that a codec transfer has still to write, its blocks not having been decoded yet (R179). -/
def codecSpans (e : Engine) (y : Eng) (x : Xfer) : List (Nat × Nat) :=
  if !x.codec || x.moved then []
  else
    let d := descOf e x.desc.raw
    match d.op, y.tasks.find? (fun t => t.id == x.task) with
    | 1, some t => [wholeSpan (x.dst + t.written) (d.length - t.written)]
    | 2, _ => [wholeSpan x.dst d.length]
    | _, _ => []

/-- The lines that a codec transfer may have still to read: its blocks take at most 65 lines each (DESIGN CHOICE, log entry 62). -/
def codecReads (e : Engine) (y : Eng) (x : Xfer) : List (Nat × Nat) :=
  if !x.codec || x.moved then []
  else
    let d := descOf e x.desc.raw
    match d.op, y.tasks.find? (fun t => t.id == x.task) with
    | 1, some t => [(t.cursor, t.cursor + 65 * 128 * (d.count - x.entry))]
    | 2, _ => [(x.src, x.src + 65 * 128)]
    | _, _ => []

/-- Whether an access writes. -/
def isWrite : Work → Bool
  | .write _ _ _ => true
  | _ => false

/-- Whether an earlier access of the stream to a location of an access has still to be performed: the later one is held (R247). -/
def streamHeld (e : Engine) (y : Eng) (i : Nat) (x : Xfer) (j : Nat) (w : Work) : Bool :=
  let mine := workSpans w
  (y.xfers.take i).any (fun z => z.q == x.q && (spansMeet (codecSpans e y z) mine || (isWrite w && spansMeet (codecReads e y z) mine)
      || z.work.any (fun v => spansMeet (workSpans v) mine)))
    || (x.work.take j).any (fun v => spansMeet (workSpans v) mine)

/-- The engines at a cluster's attachment (01 Clusters). -/
def attached (n : Nat) : List Engine := (upto (16 * n) 16).map Engine.mover ++ [.gather n, .packer n]

/-- The cell whose window an access writes over the mesh: none for the mover's own cell. -/
def farCell (e : Engine) : Work → Option Nat
  | .write dst _ _ => match placeOf dst with
    | .window c _ => if (match e with | .mover k => k == c | _ => false) then none else some c
    | _ => none
  | _ => none

/-- Whether a transfer's writes go as fumarole PUTs. -/
def isPut (e : Engine) (x : Xfer) : Bool := decide ((descOf e x.desc.raw).op = 4)

/-- Whether a PUT waits for unacknowledged DATA writes of its cluster's attachment to the same cell, or a DATA write for PUTs (R186). -/
def pathHeld (s : State) (e : Engine) (x : Xfer) (cell : Nat) : Bool :=
  (attached (engCluster e)).any (fun f => (engOf s f).xfers.any (fun z =>
    decide (0 < z.acks) && (isPut f z != isPut e x) && (match placeOf z.dst with | .window c _ => c == cell | _ => false)))

/-- Whether a line of the stacks keeps an access waiting: the host has not yet answered for a line that it holds, or for the writes
before it (R22, R323). -/
def lineHeld (s : State) : Work → Bool
  | .read src _ _ => inStacks src 1 && s.host.heldWrites.any (fun w => w.addr / 128 == src / 128)
  | .write dst _ _ => inStacks dst 1 && s.host.snoop.contains (dst / 128)
  | .put _ _ _ => false

/-- Whether the window writes of a transfer wait for its earlier accesses: those of a COPY and of an FPUT leave in ascending order
(R251), and a packer's result record follows its block (R239). -/
def inOrder (e : Engine) (x : Xfer) : Bool :=
  let op := (descOf e x.desc.raw).op
  op == 0 || op == 4 || op == 6

/-- Whether access `j` of transfer `i` of an engine has to wait. -/
def workHeld (s : State) (e : Engine) (i : Nat) (x : Xfer) (j : Nat) (w : Work) : Bool :=
  streamHeld e (engOf s e) i x j w || lineHeld s w
    || (match farCell e w with
      | some c => pathHeld s e x c || (inOrder e x && decide (0 < j))
      | none => false)

/-- Changes the transfer at an index. -/
def modXfer (y : Eng) (i : Nat) (f : Xfer → Xfer) : Eng :=
  { y with xfers := y.xfers.zipIdx.map (fun p => if p.2 = i then f p.1 else p.1), progress := y.progress + 1 }

/-- A transfer that the guard or a region stops: what it has written stands, nothing more is written (Table 8-9). -/
def stopXfer (s : State) (e : Engine) (i : Nat) (x : Xfer) (status addr : Nat) : State :=
  modEng (failXfer s e x status addr) e (fun y => modXfer y i (fun x => { x with work := [], moved := true }))

/-- A transfer that meets poison goes on, with one record (Table 8-9). -/
def poisonXfer (s : State) (e : Engine) (i : Nat) (x : Xfer) (addr : Nat) : State :=
  if x.poisoned then s
  else modEng (failXfer s e x stUncorrectable addr) e (fun y => modXfer y i (fun x => { x with poisoned := true }))

/-- The read of a transfer: a fumarole GET for an FGET. -/
def readWork (s : State) (e : Engine) (x : Xfer) (src n : Nat) (errs : RowErrs) : State × List Byte × Bool × Nat :=
  let act := actorOf s e x.desc
  if (descOf e x.desc.raw).op = 5 then fumaroleGet s act src n errs else readAt s act src n errs

/-- Replaces access `j` of a transfer. -/
def setWork (j : Nat) (ws : List Work) (x : Xfer) : Xfer := { x with work := x.work.take j ++ ws ++ x.work.drop (j + 1) }

/-- An FPUT into the control space (R185): with a poisoned row in its source nothing is written, and the step is aborted. -/
def putWork (s : State) (e : Engine) (i : Nat) (x : Xfer) (j src dst n : Nat) (errs : RowErrs) : State :=
  let act := actorOf s e x.desc
  let (s1, bs, p, st) := (cuts 128 3 src 0 n).foldl (fun (a : State × List Byte × Bool × Nat) c =>
    let (s1, bs, p, st) := readAt a.1 act (src + c.1) c.2 errs
    (s1, a.2.1 ++ bs, a.2.2.1 || p, if a.2.2.2 = 0 then st else a.2.2.2)) (s, [], false, 0)
  if st ≠ 0 then stopXfer s1 e i x st src
  else if p then abortCtx (stopXfer s1 e i x stUncorrectable src) x.desc.context (.poisonTransient (some src))
  else
    let (s2, st) := fumarolePut s1 act dst bs false
    if st ≠ 0 then stopXfer s2 e i x st dst
    else modEng (countMover s2 e dst n) e (fun y => modXfer y i (setWork j []))

/-- Performs access `j` of transfer `i`: a read's bytes become the writes that follow it, a poisoned line's as poisoned zeros; a
write over the mesh then awaits its acknowledgement (R157) (DESIGN CHOICE, log entry 62). -/
def performWork (s : State) (e : Engine) (i : Nat) (x : Xfer) (j : Nat) (errs : RowErrs) : Work → State
  | .read src dst n =>
    let (s1, bs, p, st) := readWork s e x src n errs
    if st ≠ 0 then stopXfer s1 e i x st src
    else
      let s2 := if p then poisonXfer s1 e i x src else s1
      modEng s2 e (fun y => modXfer y i (setWork j (writeWork dst (if p then List.replicate n 0 else bs) p)))
  | .write dst bs p =>
    let act := actorOf s e x.desc
    let (s1, st) := writeAt s (if isPut e x then act.onCtl else act) dst bs p
    if st ≠ 0 then stopXfer s1 e i x st dst
    else
      let n := if (farCell e (.write dst bs p)).isSome then 1 else 0
      modEng (countMover s1 e dst bs.length) e (fun y => modXfer y i (fun x => { setWork j [] x with acks := x.acks + n }))
  | .put src dst n => putWork s e i x j src dst n errs

/-- Performs accesses of transfer `i` from access `j` on: each that need not wait, all of them where asked, else those that a free draw
names (R246, R251, R255). -/
def sweep (e : Engine) (i : Nat) (all : Bool) (errs : RowErrs) : Nat → Nat → State → State
  | 0, _, s => s
  | fuel + 1, j, s =>
    match (engOf s e).xfers[i]? with
    | none => s
    | some x =>
      match x.work[j]? with
      | none => s
      | some w =>
        if workHeld s e i x j w then sweep e i all errs fuel (j + 1) s
        else if all then sweep e i all errs fuel j (performWork s e i x j errs w)
        else
          let s1 := { s with freeCount := s.freeCount + 1 }
          if Config.performed s.freeCount then sweep e i all errs fuel j (performWork s1 e i x j errs w)
          else sweep e i all errs fuel (j + 1) s1

/-- How many accesses a sweep of a transfer can meet: each read becomes at most two writes. -/
def sweepFuel (x : Xfer) : Nat := 3 * x.work.length + 1

/-- Some accesses of a transfer are performed, or all that need not wait. -/
def sweepXfer (s : State) (e : Engine) (i : Nat) (all : Bool) (errs : RowErrs) : State :=
  match (engOf s e).xfers[i]? with
  | some x => sweep e i all errs (sweepFuel x) 0 s
  | none => s

/-- A transfer joins those outstanding, and some of its accesses are performed at once. -/
def placeXfer (s : State) (e : Engine) (x : Xfer) (errs : RowErrs) : State :=
  let i := (engOf s e).xfers.length
  sweepXfer (modEng s e (fun y => { y with xfers := y.xfers ++ [x], progress := y.progress + 1 })) e i false errs

/-- The accesses of an FPUT: into a window its rows one by one, into the control space as a whole (R185). -/
def fputWork (d : Desc) : List Work :=
  match placeOf d.dst with
  | .window _ _ => copyWork d.src d.dst d.length
  | _ => [.put d.src d.dst d.length]

/-- The transfer that a task issues next (R170, R180). COPY, ROW_GATHER, FPUT and FGET know their accesses at issue; far-tier data moves
when its completion arrives, codec data when the expander has decoded it. -/
def issueXfer (s : State) (e : Engine) (t : Task) (errs : RowErrs) : State :=
  let d := descOf e t.desc.raw
  let x : Xfer := { task := t.id, q := t.q, desc := t.desc, entry := t.issued, src := d.src, dst := d.dst, codec := false, moved := true
                    cancelled := false, last := decide (t.issued + 1 = transfersOf d), farTier := false, work := [], acks := 0, poisoned := false, issuedAt := s.now }
  let small (s : State) : State := match e with | .mover c => countCell s c 7 1 | _ => s
  match d.op with
  | 0 =>
    if placeOf d.src = .host then placeXfer s e { x with farTier := true, moved := false } errs
    else placeXfer s e { x with work := copyWork d.src d.dst d.length } errs
  | 1 => placeXfer s e { x with codec := true, moved := false } errs
  | 4 => placeXfer (small s) e { x with work := fputWork d } errs
  | 6 => placeXfer s e { x with codec := true, moved := false } errs
  | 5 => placeXfer (small s) e { x with work := copyWork d.src d.dst d.length } errs
  | op =>
    let dst := entryDst d t.issued
    let (s1, en, a) := listEntry s (actorOf s e t.desc) d t.issued
    let y : Xfer := { x with dst := dst }
    match en with
    | .pad => placeXfer s1 e { y with src := 0, work := zeroWork dst d.length false } errs
    | .bad st => placeXfer (failXfer s1 e y st a) e y errs
    | .poisoned => placeXfer (failXfer s1 e y stUncorrectable a) e { y with poisoned := true, work := zeroWork dst d.length true } errs
    | .page b => if op = 2 then placeXfer s1 e { y with src := b, codec := true, moved := false } errs else placeXfer s1 e y errs
    | .row i =>
      let src := d.src + i * d.length
      placeXfer s1 e { y with src := src, work := copyWork src dst d.length } errs

/-- Whether the next transfer of a task may be issued: its wait granted, its credits there, and room in the engine. -/
def taskReady (s : State) (e : Engine) (y : Eng) (t : Task) : Bool :=
  let d := descOf e t.desc.raw
  !wantsWait e t && creditReady s d && decide (y.xfers.length < 8)
    && (decide (placeOf d.src ≠ .host) || decide (farOut y < 2))

/-- After an issue the task stands last among its engine's tasks (round-robin, R172), its wait to be made anew. -/
def advanceTask (y : Eng) (id : Nat) : Eng :=
  let f (t : Task) : Task := { t with issued := t.issued + 1, queuedWait := false, granted := false, creditWait := false }
  { y with tasks := y.tasks.filter (fun t => t.id != id) ++ (y.tasks.filter (fun t => t.id == id)).map f }

/-- The waits of a queue's next transfers join their queues, and those that the counts satisfy are granted (R164, R181). -/
def settleWaits (s : State) (e : Engine) (q : EngQueue) : State :=
  let s1 := joinWaits s e q
  (waiters e (engOf s1 e) q).foldl (fun s t =>
    if wantsWait e t then grantHead s (descOf e t.desc.raw).waitCell (descOf e t.desc.raw).waitSem else s) s1

/-- The task whose transfer a queue issues next, if it can issue one. -/
def readyTask (s : State) (e : Engine) (q : EngQueue) : Option Task := (waiters e (engOf s e) q).find? (taskReady s e (engOf s e))

/-- Whether a mover's other queue comes first: it is its turn and it has something that it can issue (R171). Where no queue has
issued before, the list queue comes first (DESIGN CHOICE, log entry 62). -/
def otherFirst (s : State) (e : Engine) (q : EngQueue) : Bool :=
  match e with
  | .mover _ => (engOf s e).turn != q && (readyTask s e (engOf s e).turn).isSome
  | _ => false

/-- The queue whose turn comes after a transfer of another (R171). -/
def otherQueue : EngQueue → EngQueue
  | .list => .tile
  | _ => .list

/-- Issues the next transfer of a queue (R171, R181): waits join their queues and may be granted, credits are taken, data moves. -/
def issueNext (s : State) (e : Engine) (q : EngQueue) (errs : RowErrs) : State :=
  let s1 := settleWaits s e q
  let s2 := match e with | .mover _ => settleWaits s1 e (otherQueue q) | _ => s1
  match readyTask s2 e q with
  | some t =>
    if otherFirst s2 e q then s2
    else
      let s3 := issueXfer (takeCredits s2 e t) e t errs
      charge s2 (modEng s3 e (fun y => { advanceTask y t.id with turn := otherQueue q })) t.desc.context
  | none =>
    match (waiters e (engOf s2 e) q).find? (fun t => !wantsWait e t && !creditReady s2 (descOf e t.desc.raw)) with
    | some t => noteCredit s2 e t
    | none => s2

/-! ### Completion (R157, R170, R182, R190) -/

/-- Counts the end of one transfer of a task: at its last, the task is completed unless it was counted, and leaves. -/
def endTask (e : Engine) (y : Eng) (id : Nat) : Eng :=
  match y.tasks.find? (fun t => t.id == id) with
  | none => y
  | some t =>
    if t.ended + 1 < transfersOf (descOf e t.desc.raw) then modTask y id (fun t => { t with ended := t.ended + 1 })
    else
      { y with tasks := y.tasks.filter (fun t => t.id != id)
               ledger := if t.counted then y.ledger else { y.ledger with completed := y.ledger.completed + 1 } }

/-- A transfer leaves its engine: a cancelled one without a post (R189), every other with it (R182). -/
def endXfer (s : State) (e : Engine) (i : Nat) : State :=
  match (engOf s e).xfers[i]? with
  | none => s
  | some x =>
    let s1 := modEng s e (fun y => endTask e { y with xfers := y.xfers.eraseIdx i, progress := y.progress + 1 } x.task)
    if x.cancelled then s1 else sendPost s1 e x.desc

/-- DESCRIPTOR_ADMIT: an engine admits the descriptor at the head of a queue and checks its fields (R172, R188). A packer
checks its own (R237). -/
def engineFor (e : Engine) (q : EngQueue) : Bool :=
  e.ok && (match e, q with | .mover _, .prefetch => false | .gather _, .tile => false | .packer _, .list => true | .packer _, _ => false | _, _ => true)

/-- Whether a transfer has nothing left to do: its accesses are known and performed, and its window writes acknowledged (R157, R170). -/
def xferDone (x : Xfer) : Bool := x.moved && x.work.isEmpty && decide (x.acks = 0)

/-- Ends the transfer at an index where it has nothing left to do. -/
def endIfDone (s : State) (e : Engine) (i : Nat) : State :=
  match (engOf s e).xfers[i]? with
  | some x => if xferDone x then endXfer s e i else s
  | none => s

/-- A far-tier transfer's data arrives: its accesses are known from then on, and pass the home caldera (R183). -/
def farArrive (s : State) (e : Engine) (i : Nat) (x : Xfer) : State :=
  let d := descOf e x.desc.raw
  modEng s e (fun y => modXfer y i (fun x => { x with moved := true, work := copyWork d.src d.dst d.length }))

/-- TRANSFER_COMPLETE: what is left of the transfer at an index is performed, as far as nothing holds it, and the transfer ends when all
its writes have been applied and acknowledged; a transfer that still awaits the codec stays as it is (DESIGN CHOICE, log entry 62). -/
def execTransferComplete (e : Engine) (index : Nat) (errs : RowErrs) (s : State) : Host.Outcome State Fault Refusal :=
  if !e.ok then .refused (.noSuchUnit "engine")
  else
    match (engOf s e).xfers[index]? with
    | none => .next s
    | some x =>
      if xferDone x then .next (endXfer s e index)
      else if !x.moved && !x.farTier then .next s
      else
        let s1 := if x.moved then s else farArrive s e index x
        .next (endIfDone (charge s (sweepXfer s1 e index true errs) x.desc.context) e index)

/-- WINDOW_WRITE_ACK (R157): the acknowledgement of one row write of a transfer comes in, and more of its accesses may be performed. An
acknowledgement that no write awaits changes nothing. -/
def execWindowWriteAck (e : Engine) (index : Nat) (errs : RowErrs) (s : State) : Host.Outcome State Fault Refusal :=
  if !e.ok then .refused (.noSuchUnit "engine")
  else
    match (engOf s e).xfers[index]? with
    | none => .next s
    | some x =>
      if x.acks = 0 then .next s
      else
        let s1 := modEng s e (fun y => modXfer y index (fun x => { x with acks := x.acks - 1 }))
        .next (charge s (sweepXfer s1 e index false errs) x.desc.context)

/-- A far-tier read that goes unanswered (R184): its destination is written as poisoned zeros, with an error record and a
post. -/
def farTimeout (s : State) (e : Engine) (i : Nat) (x : Xfer) : State :=
  let d := descOf e x.desc.raw
  let s1 := modEng (failXfer s e x stTimeout d.src) e (fun y => modXfer y i (fun x => { x with moved := true, work := zeroWork d.dst d.length true }))
  endIfDone (sweepXfer s1 e i true []) e i

/-- Ends every far-tier read that has not been answered. -/
def farTimeoutAll (s : State) (e : Engine) : State :=
  ((engOf s e).xfers.zipIdx.reverse.filter (fun p => p.1.farTier && !p.1.moved)).foldl (fun s p => farTimeout s e p.2 p.1) s

/-- FAR_TIER_TIMEOUT (R184, R324): a far-tier read unanswered for 50 ms; its destination lines become poisoned zeros. -/
def execFarTierTimeout (cluster index : Nat) (s : State) : Host.Outcome State Fault Refusal :=
  if !clusterOk cluster then .refused (.noSuchUnit "cluster")
  else
    let e := Engine.gather cluster
    match (engOf s e).xfers[index]? with
    | none => .next s
    | some x =>
      if !x.farTier || x.moved then .next s else .next (charge s (farTimeout s e index x) x.desc.context)

end Sys2Proof.Machine
end

