-- ==== Sys2Proof/Machine/CodecOps.lean ====
section
/-! DEFINITION. Machine/CodecOps.lean: the expander and the packer at work (R179, R232 to R240), with the steps that take in
descriptors, issue transfers, decode and pack blocks, and read the packer's results (R273). -/

namespace Sys2Proof.Machine

open Sys2Proof

/-! ### Reading a block (R224, R234 order 1) -/

/-- A block as it arrives: its lines up to stored_lines, whether the header line or any line is poisoned, and the address
of a line that the guard refused. -/
structure BlockRead where
  bytes : List Byte
  headPoison : Bool
  poison : Bool
  denied : Option Nat
  deriving DecidableEq, Repr

/-- Reads `n` lines from an address, as far as the guard allows. -/
def readLines (x : Actor) : Nat → State → Nat → State × List Byte × Bool × Option Nat
  | 0, s, _ => (s, [], false, none)
  | n + 1, s, a =>
    let (s1, bs, p, st) := readAt s x a 128
    if st ≠ 0 then (s1, [], false, some a)
    else
      let (s2, t, q, d) := readLines x n s1 (a + 128)
      (s2, bs ++ t, p || q, d)

/-- Reads the block at an address: the header line first, then the lines it states, however many (R224). -/
def readBlock (s : State) (x : Actor) (a : Nat) : State × BlockRead :=
  let (s1, h, p, st) := readAt s x a 128
  if st ≠ 0 then (s1, { bytes := [], headPoison := false, poison := false, denied := some a })
  else if p then (s1, { bytes := h, headPoison := true, poison := true, denied := none })
  else
    let n := (blkOf h).storedLines
    if n = 0 then (s1, { bytes := h, headPoison := false, poison := false, denied := none })
    else
      let (s2, t, q, d) := readLines x (n - 1) s1 (a + 128)
      (s2, { bytes := h ++ t, headPoison := false, poison := q, denied := d })

/-- The code tables of a context. -/
def tablesOf (s : State) (c : Nat) : SMap TableSlot := match ctxOf s c with | some x => x.tables | none => []

/-- How a block turns out: a status (0 for decoded), its bytes, whether the walk of a DECODE ends with it (R236), whether it is a
table miss, and what a lane may have written of it before it failed (R232). -/
structure BlockOut where
  status : Nat
  bytes : List Byte
  ends : Bool
  miss : Bool := false
  draft : List Byte := []
  deriving DecidableEq, Repr

/-- Checks and decodes a block (Table 10-6): `room` is the decoded length allowed (DECODE) or asked (PAGE_GATHER, exact),
whose engine check falls between orders 2 and 3 (R179). -/
def judgeBlock (tabs : SMap TableSlot) (b : BlockRead) (exact : Bool) (room : Nat) (prev : Option Nat) : BlockOut :=
  let ok := headerOk tabs b.bytes
  let d := 128 * (blkOf b.bytes).decUnits
  if b.poison then { status := stUncorrectable, bytes := [], ends := b.headPoison || !ok }
  else if !ok then { status := stCheck, bytes := [], ends := true }
  else if room < d then { status := stOverlong, bytes := [], ends := true }
  else if exact && decide (d < room) then { status := stShort, bytes := [], ends := true }
  else
    let h := b.bytes.take 32
    let (st, bs) := decodeBody tabs h (payloadOf b.bytes) prev
    { status := st, bytes := bs, ends := false, miss := isMiss tabs h, draft := draftOf tabs h (payloadOf b.bytes) prev }

/-- The codec counter of a failure (Table 10-12). -/
def countCodec (s : State) (status : Nat) (miss : Bool) : State :=
  let c := s.codec
  let c1 :=
    if status = stOverlong then { c with overlong := c.overlong + 1 }
    else if status = stShort then { c with short := c.short + 1 }
    else if status = stCheck then (if miss then { c with miss := c.miss + 1 } else { c with check := c.check + 1 })
    else if status = stUncorrectable then { c with decUncorrectable := c.decUncorrectable + 1 }
    else if status = stAliveGap then { c with aliveGap := c.aliveGap + 1 }
    else if status = stAliveRepeat then { c with aliveRepeat := c.aliveRepeat + 1 }
    else c
  { s with codec := c1 }

/-- Counts a block that an expander read and what it wrote (Tables 10-12 and 19-3). -/
def countBlock (s : State) (cluster lines : Nat) (out : BlockOut) (mode : Nat) : State :=
  let wrote := out.bytes.length
  let s1 := { s with codec := { s.codec with inBytes := s.codec.inBytes + 128 * lines, outBytes := s.codec.outBytes + wrote
                                             decoded := s.codec.decoded + b2n (decide (out.status = 0)) } }
  let s2 := countOp (countOp s1 cluster 29 (128 * lines)) cluster 28 wrote
  if out.status = 0 then countOp s2 cluster (22 + mode) 1 else s2

/-- The accesses that a decoded block makes at its destination: its bytes; or poisoned zeros over the span of a block that failed, before
them what a lane may have written already (R232, R235). -/
def blockWork (out : BlockOut) (dst span : Nat) (early : Bool) : List Work :=
  if out.status = 0 then writeWork dst out.bytes false
  else (if early then writeWork dst (out.draft.take span) false else []) ++ zeroWork dst span true

/-- Decodes the next block of the codec transfer at an index (R179, R234 to R236). The codec registers do not count a failing block
of a transfer that was cancelled, as nothing else of its failures is noted (DESIGN CHOICE, log entry 62). -/
def decodeNext (s : State) (e : Engine) (i : Nat) (x : Xfer) (t : Task) : State :=
  let d := descOf e x.desc.raw
  let act := actorOf s e x.desc
  let tabs := tablesOf s x.desc.context
  let one := decide (d.op = 2)
  let src := if one then x.src else t.cursor
  let room := if one then d.length else d.length - t.written
  let dst := if one then x.dst else x.dst + t.written
  let (s1, b) := readBlock s act src
  let lines := b.bytes.length / 128
  match b.denied with
  | some a => stopXfer s1 e i x stNotPermitted a
  | none =>
    let out := judgeBlock tabs b one room (if one then none else t.lastSeq)
    let hdr := blkOf b.bytes
    let s2 := countBlock s1 (engCluster e) lines out hdr.mode
    let bad := decide (out.status ≠ 0)
    let span := if !bad then out.bytes.length
      else if one || out.ends then room else min room (128 * hdr.decUnits)
    let s3 := if bad && !x.cancelled then failXfer (countCodec s2 out.status out.miss) e x out.status src else s2
    let last := one || out.ends || decide (x.entry + 1 = d.count)
    let s4 := modEng { s3 with freeCount := s3.freeCount + 1 } e (fun y => modTask y t.id (fun t => { t with
      written := t.written + span, cursor := t.cursor + 128 * lines, lastSeq := if b.headPoison then t.lastSeq else some hdr.seq }))
    let s5 := modEng s4 e (fun y => modXfer y i (fun x => { x with
      moved := last, work := x.work ++ blockWork out dst span (Config.performed s3.freeCount), entry := if one then x.entry else x.entry + 1 }))
    sweepXfer s5 e i false []

/-- How many lines the block at an address takes, as its header line stands. -/
def blockLines (s : State) (a : Nat) : Nat :=
  let h := match calFind s (a / 128) with | some l => l.data | none => readBytes s.mem.bytes a 128
  max 1 (blkOf h).storedLines

/-- Whether the reads of a codec transfer's next block have to wait for an earlier access of its stream, or for the host (R22, R247). -/
def blockHeld (s : State) (e : Engine) (i : Nat) (x : Xfer) (src n : Nat) : Bool :=
  streamHeld e (engOf s e) i { x with work := [] } 0 (.read src src n)
    || (upto (src / 128) (ceilDiv n 128)).any (fun l => lineHeld s (.read (128 * l) 0 128))

/-- BLOCK_DECODE: an expander lane decodes the next block of the transfer at an index of an engine; nothing changes while its reads
have to wait (DESIGN CHOICE, log entry 62). -/
def execBlockDecode (e : Engine) (index : Nat) (s : State) : Host.Outcome State Fault Refusal :=
  if !e.ok then .refused (.noSuchUnit "engine")
  else
    match (engOf s e).xfers[index]? with
    | none => .next s
    | some x =>
      match (engOf s e).tasks.find? (fun t => t.id == x.task), e with
      | some _, .packer _ => .next s
      | some t, _ =>
        let src := if (descOf e x.desc.raw).op = 2 then x.src else t.cursor
        if !x.codec || x.moved || blockHeld s e index x src (128 * blockLines s src) then .next s else .next (modCluster (charge s (decodeNext s e index x t) x.desc.context) (engCluster e) (fun y => { y with expProgress := y.expProgress + 1 }))
      | none, _ => .next s

/-! ### Pack descriptors (R237, R240) -/

structure PackDesc where
  op : Nat
  modeReq : Nat
  format : Nat
  slot : Nat
  padOk : Bool
  decUnits : Nat
  count : Nat
  frameLines : Nat
  seqBase : Nat
  src : Nat
  dst : Nat
  dstList : Nat
  spill : Nat
  result : Nat
  deriving DecidableEq, Repr

def packOf (raw : List Byte) : PackDesc :=
  let c := fieldAt raw 0 8
  { op := bits c 60 4, modeReq := bits c 57 2, format := bits c 53 4, slot := bits c 49 4, padOk := bit c 48, decUnits := bits c 40 8
    count := bits c 24 16, frameLines := bits c 16 8, seqBase := bits c 0 16, src := fieldAt raw 8 6, dst := fieldAt raw 0x10 6
    dstList := fieldAt raw 0x18 6, spill := fieldAt raw 0x30 6, result := fieldAt raw 0x38 6 }

/-- The first defect of a pack descriptor (R237, R240, Table 8-9). -/
def packDefect (cluster : Nat) (raw : List Byte) : Option Nat :=
  let p := packOf raw
  let d := plainDesc raw
  let own (c : Nat) : Bool := c / 16 == cluster
  let reserved := fieldAt raw 0x0E 2 ≠ 0 ∨ fieldAt raw 0x16 2 ≠ 0 ∨ fieldAt raw 0x1E 2 ≠ 0 ∨ fieldAt raw 0x36 2 ≠ 0 ∨ fieldAt raw 0x3E 2 ≠ 0
    ∨ bits (fieldAt raw 0x20 8) 0 30 ≠ 0 ∨ bits (fieldAt raw 0x28 8) 0 30 ≠ 0
  if p.op ≠ 0 ∨ reserved ∨ p.format = 0xE ∨ p.decUnits = 0 ∨ 64 < p.decUnits ∨ p.count = 0 ∨ p.frameLines = 0 ∨ 65 < p.frameLines then some stParamRange
  else if p.src % 16 ≠ 0 ∨ p.dst % 128 ≠ 0 ∨ p.dstList % 8 ≠ 0 ∨ p.spill % 8 ≠ 0 ∨ p.result % 16 ≠ 0 then some stParamAlign
  else if (p.modeReq == 2 && (planeParams p.format).isNone) || !windowOf p.src own || !windowOf p.result own
      || (decide (d.waitN ≠ 0) && !own d.waitCell) then some stParamConflict
  else none

/-- The 16 bytes of a result record (R239). -/
def resultRecord (addr lines mode : Nat) (spilled : Bool) (status seq enc : Nat) : List Byte :=
  leBytes (addr % 2 ^ 48 + lines * 2 ^ 48 + mode * 2 ^ 56 + b2n spilled * 2 ^ 58) 8 ++ leBytes status 2 ++ leBytes seq 2 ++ leBytes enc 2 ++ leBytes 0 2

/-- The state after a refusal to write result record `i`, or none where its window takes it. -/
def resultRefused (s : State) (x : Actor) (p : PackDesc) (i : Nat) : Option State :=
  match placeOf (p.result + 16 * i) with
  | .window c o => windowRefused s x c o 16 true
  | _ => some (guardFault s x.owner)

/-- Gives a packer's transfer the accesses of its block: some are performed at once. -/
def packWork (s : State) (e : Engine) (i : Nat) (ws : List Work) : State :=
  sweepXfer (modEng s e (fun y => modXfer y i (fun x => { x with moved := true, work := x.work ++ ws }))) e i false []

/-- A packer's failure (R240): the result record where its window takes it, the cluster's error counter, the ledger and, for the first
two rows of the table, the abort of the step. `first` are the accesses before the record. -/
def packFail (s : State) (e : Engine) (i : Nat) (x : Xfer) (p : PackDesc) (status addr seq : Nat) (first : List Work) : State :=
  let s2 := modEng (countErr s (engCluster e) 5 1) e (fun y => failTask y x.task)
  let c := s2.codec
  let s3 := { s2 with codec := if status = stPoison then { c with packPoison := c.packPoison + 1 }
                               else if status = stNoSpace then { c with noSpace := c.noSpace + 1 } else c }
  let s4 := if status = stParamRange ∨ status = stParamAlign ∨ status = stParamConflict ∨ status = stNotPermitted then abortCtx s3 x.desc.context .engine else s3
  match resultRefused s4 (actorOf s e x.desc) p x.entry with
  | some s5 => packWork s5 e i first
  | none => packWork s4 e i (first ++ writeWork (p.result + 16 * x.entry) (resultRecord addr 0 0 false status seq 0) false)

/-- Whether every line of a block passes the guard. -/
def linesPermitted (s : State) (x : Actor) (a n : Nat) : Bool := (List.range n).all (fun k => stackGuard s x.src (a + 128 * k) 128 true)

/-- A failure that leaves a poison line at the block's frame (R240). -/
def packPoison (s : State) (e : Engine) (i : Nat) (x : Xfer) (p : PackDesc) (status frame seq : Nat) : State :=
  let act := actorOf s e x.desc
  if linesPermitted s act frame 1 then packFail s e i x p status frame seq (zeroWork frame 128 true)
  else packFail (guardFault s act.owner) e i x p stNotPermitted 0 seq []

/-- Writes a block's lines; the guard has been asked before. -/
def writeBlock (s : State) (x : Actor) (a : Nat) (bs : List Byte) : State :=
  (putPiece x a { state := s } { off := 0, data := bs, poison := false }).state

/-- Takes the next spill entry (R239): its address, or the status of the failure and whether the list ends. -/
def nextSpill (s : State) (x : Actor) (p : PackDesc) (t : Task) : State × Sum Nat Nat × Bool :=
  if p.spill = 0 ∨ t.spillEnd then (s, .inl stNoSpace, t.spillEnd)
  else
    let d : Desc := { plainDesc [] with op := 2, list := p.spill }
    match listEntry s x d t.spillAt with
    | (s1, .page a, _) => (s1, .inr a, false)
    | (s1, .pad, _) => (s1, .inl stNoSpace, true)
    | (s1, .poisoned, _) => (s1, .inl stUncorrectable, true)
    | (s1, .bad st, _) => (s1, .inl st, true)
    | (s1, .row _, _) => (s1, .inl stNoSpace, true)

/-- Where block `i` goes by the frame fields: its frame, nothing for a pad entry, or a failing status. -/
def packFrame (s : State) (x : Actor) (p : PackDesc) (i : Nat) : State × Sum Nat (Option Nat) :=
  if p.dstList = 0 then (s, .inr (some (p.dst + i * p.frameLines * 128)))
  else
    let d : Desc := { plainDesc [] with op := 2, list := p.dstList }
    match listEntry s x d i with
    | (s1, .page a, _) => (s1, .inr (some a))
    | (s1, .pad, _) => (s1, .inr none)
    | (s1, .poisoned, _) => (s1, .inl stUncorrectable)
    | (s1, .bad st, _) => (s1, .inl st)
    | (s1, .row _, _) => (s1, .inl stParamRange)

/-- The active table of a slot. -/
def activeTable (t : TableSlot) : Option CodeTable := if t.active then t.bank1 else t.bank0

/-- Packs the bytes of the block of the transfer at an index (R238, R239). Where the guard refuses a line or the result record, nothing
is written (R240). -/
def packBlock (s : State) (e : Engine) (i : Nat) (x : Xfer) (t : Task) (frame : Nat) (bs : List Byte) : State :=
  let p := packOf x.desc.raw
  let act := actorOf s e x.desc
  let seq := (p.seqBase + x.entry) % 65536
  let req : PackReq := { modeReq := p.modeReq, format := p.format, slot := p.slot, padOk := p.padOk, decUnits := p.decUnits, seq := seq }
  let cand := bestCand req (activeTable (mget TableSlot.reset (tablesOf s x.desc.context) p.slot)) bs
  let lines := candLines req cand
  let spills := decide (p.frameLines < lines)
  let (s2, place, ends) := if spills then nextSpill s act p t else (s, .inr frame, t.spillEnd)
  let s3 := if spills then modEng s2 e (fun y => modTask y t.id (fun t => { t with spillAt := t.spillAt + 1, spillEnd := ends })) else s2
  match place with
  | .inl st =>
    if st = stNoSpace ∨ st = stUncorrectable then packPoison s3 e i x p st frame seq else packFail s3 e i x p st 0 seq []
  | .inr a =>
    if !linesPermitted s3 act a lines then packFail (guardFault s3 act.owner) e i x p stNotPermitted 0 seq []
    else
      match resultRefused s3 act p x.entry with
      | some _ => packFail s3 e i x p stNotPermitted 0 seq []
      | none =>
        let s4 := countOp { s3 with codec := { s3.codec with packed := s3.codec.packed + 1, spilled := s3.codec.spilled + b2n spills } } (engCluster e) (25 + cand.mode) 1
        packWork s4 e i (writeWork a (blockBytes req cand) false
          ++ writeWork (p.result + 16 * x.entry) (resultRecord a lines cand.mode spills stDone seq cand.payload.length) false)

/-- Packs the block of the transfer at an index (R238 to R240). `errs` strike the rows of its source. -/
def packNext (s : State) (e : Engine) (i : Nat) (x : Xfer) (t : Task) (errs : RowErrs) : State :=
  let p := packOf x.desc.raw
  let act := actorOf s e x.desc
  let seq := (p.seqBase + x.entry) % 65536
  let d := 128 * p.decUnits
  match packFrame s act p x.entry with
  | (s1, .inl st) => packFail s1 e i x p st 0 seq []
  | (s1, .inr none) =>
    match resultRefused s1 act p x.entry with
    | some _ => packFail s1 e i x p stNotPermitted 0 seq []
    | none => packWork s1 e i (writeWork (p.result + 16 * x.entry) (resultRecord 0 0 0 false stDone seq 0) false)
  | (s1, .inr (some frame)) =>
    match placeOf (p.src + x.entry * d) with
    | .window c o =>
      match windowRefused s1 act c o d false with
      | some s2 => packFail s2 e i x p stNotPermitted 0 seq []
      | none =>
        let s2 := countCell (settleSpan (strikeRows s1 c (rowSpan o d) errs) c o d) c 4 d
        if spPoisoned (cellOf s2 c) o d then packPoison s2 e i x p stPoison frame seq
        else packBlock s2 e i x t frame (readBytes (cellOf s2 c).sp o d)
    | _ => packFail (guardFault s1 act.owner) e i x p stNotPermitted 0 seq []

/-- BLOCK_PACK: the packer of a cluster encodes the block of the transfer at an index; nothing changes while its read has to wait
(DESIGN CHOICE, log entry 62). -/
def execBlockPack (cluster index : Nat) (errs : RowErrs) (s : State) : Host.Outcome State Fault Refusal :=
  if !clusterOk cluster then .refused (.noSuchUnit "cluster")
  else
    let e := Engine.packer cluster
    match (engOf s e).xfers[index]? with
    | none => .next s
    | some x =>
      match (engOf s e).tasks.find? (fun t => t.id == x.task) with
      | some t =>
        let p := packOf x.desc.raw
        if x.moved || blockHeld s e index x (p.src + 128 * p.decUnits * x.entry) (128 * p.decUnits) then .next s
        else .next (charge s (packNext s e index x t errs) x.desc.context)
      | none => .next s

/-! ### Admission and issue, for every engine -/

/-- A defective pack descriptor: result record 0, its post, the counts and the abort (R240). -/
def rejectPack (s : State) (e : Engine) (x : QDesc) (status : Nat) : State :=
  let p := packOf x.raw
  let s1 := match resultRefused s (actorOf s e x) p 0 with
    | some s1 => s1
    | none => (writeAt s (actorOf s e x) p.result (resultRecord 0 0 0 false status (p.seqBase % 65536) 0) false).1
  let s2 := sendPost (modEng (countErr s1 (engCluster e) 5 1) e (fun y => { y with ledger := { y.ledger with failed := y.ledger.failed + 1 } })) e x
  abortCtx s2 x.context .engine

/-- Admits the head of a packer's work list. -/
def admitPack (s : State) (e : Engine) : State :=
  let y := engOf s e
  match y.listQ with
  | [] => s
  | x :: _ =>
    if !canAdmit e y .list (descOf e x.raw) then s
    else
      let y1 := { queueDrop y .list with progress := y.progress + 1 }
      match packDefect (engCluster e) x.raw with
      | some st => rejectPack (setEng s e y1) e x st
      | none => setEng s e { y1 with tasks := y1.tasks ++ [newTask e y1 .list x], nextTask := y1.nextTask + 1 }

/-- DESCRIPTOR_ADMIT (R172, R188, R237): an engine admits the descriptor at the head of a queue and checks its fields. -/
def execDescriptorAdmit (e : Engine) (q : EngQueue) (s : State) : Host.Outcome State Fault Refusal :=
  if !engineFor e q then .refused (.noSuchUnit "engine queue")
  else match e with
    | .packer _ => .next (admitPack s e)
    | _ => .next (admitHead s e q)

/-- TRANSFER_ISSUE (R181): an engine issues the next transfer of a queue that is ready; a packer's transfer then awaits
its block (DESIGN CHOICE, log entry 62). -/
def execTransferIssue (e : Engine) (q : EngQueue) (errs : RowErrs) (s : State) : Host.Outcome State Fault Refusal :=
  if !engineFor e q then .refused (.noSuchUnit "engine queue") else .next (issueNext s e q errs)

/-! ### Packer results and quarantine (R273) -/

/-- PACKER_RESULT_READ (R239, R273): Umango notes a page's stored lines; the normal frame of a spilled page becomes FREE
and its spill frame becomes the TENTATIVE page. -/
def execPackerResultRead (context page storedLines : Nat) (spilled : Bool) (spillPage : Nat) (s : State) : Host.Outcome State Fault Refusal :=
  if 65 < storedLines then .refused (.noSuchUnit "stored_lines")
  else
    match ctxOf s context with
    | none => .next s
    | some x =>
      match x.pages[page]?, x.pages[spillPage]? with
      | some g, h =>
        if g.state ≠ .tentative then .next s
        else if !spilled then .next (setCtx s context { x with pages := x.pages.set page { g with storedLines := storedLines } })
        else match h with
          | some f =>
            if !f.spill || !f.mapped || decide (f.state ≠ .free) then .next s
            else
              let f1 : Page := { f with state := .tentative, storedLines := storedLines, kindV := g.kindV, slot := g.slot, phaseSet := g.phaseSet, supersedes := g.supersedes, row := g.row, place := g.place }
              .next (setCtx s context { x with pages := (x.pages.set page (freePage g)).set spillPage f1 })
          | none => .next s
      | none, _ => .next s

/-- A control core writes a line as zero at its home slice, has it cleaned and dropped there, and reads it back from the stack (R248,
R273). Gives whether the line came back without error. -/
def zeroAndRead (x : Source) (a : State × Bool) (line : Nat) : State × Bool :=
  let (s1, st) := classAWrite a.1 x (128 * line) zeroLine false
  let s2 := (calInvalidate (behindHeld s1 line) (fun l => l.line == line) true).1
  let (s3, d, _) := classARead s2 x (128 * line) .clean
  (s3, a.2 && decide (st = 0) && !d.poison)

/-- QUARANTINE_RELEASE (R273): Umango writes the page's frame as zeros and reads it back; without error, and outside
retired blocks, the page becomes FREE. -/
def execQuarantineRelease (context page : Nat) (s : State) : Host.Outcome State Fault Refusal :=
  match ctxOf s context with
  | none => .next s
  | some x =>
    match x.pages[page]? with
    | none => .next s
    | some g =>
      if g.state ≠ .quarantined then .next s
      else
        let n := if g.spill then 35 else x.params.frameLines
        let (s1, good) := (upto (g.frame / 128) n).foldl (zeroAndRead { owner := x.partition, cluster := 0 }) (s, true)
        if good then .next (modCtx s1 context (fun x => { x with pages := x.pages.set page (freePage g) })) else .next s1

end Sys2Proof.Machine
end

