-- ==== Sys2Proof/Machine/LinkLayer.lean ====
section
/-! DEFINITION. Machine/LinkLayer.lean: the link layer of a Glony port (R288 to R295, R383): flits, records and their keys, the
virtual channels, credits, replay, and what a port sends. -/

namespace Sys2Proof.Machine

open Sys2Proof

def portOf (s : State) (p : Nat) : Port := mget Port.reset s.ports p
def setPort (s : State) (p : Nat) (x : Port) : State := { s with ports := mset Port.reset s.ports p x }
def modPort (s : State) (p : Nat) (f : Port → Port) : State := setPort s p (f (portOf s p))

def portUp (x : Port) : Bool := x.state == .up || x.state == .upNarrow

/-- The module identity: the first 16 bytes of the fingerprint (R352). -/
def moduleIdentity : List Byte := (List.range 16).map Config.identityByte

/-! ### Flits (R288, Table 13-3) -/

/-- The CRC-64 of a byte string (Table 18-1). -/
def crc64 (bs : List Byte) : Nat := cvFinish 3 (cvRunBytes 3 (polyInit 3) bs)

/-- The header of a flit (Table 13-3). -/
structure FlitHead where
  seq : Nat
  ack : Nat
  nak : Bool
  vc : Nat
  recPos : Nat
  phase : Bool
  crVc : Nat
  crTotal : Nat
  ltype : Nat
  deriving DecidableEq, Repr

def headOf (raw : List Byte) : FlitHead :=
  let h := fieldAt raw 0 8
  { seq := bits h 52 12, ack := bits h 40 12, nak := bit h 39, vc := bits h 37 2, recPos := bits h 35 2, phase := bit h 34, crVc := bits h 32 2
    crTotal := bits h 21 11, ltype := bits h 19 2 }

/-- The 256 bytes of a flit: header, payload and CRC-64. -/
def flitBytes (h : FlitHead) (payload : List Byte) : List Byte :=
  let b := leBytes (h.seq * 2 ^ 52 + h.ack * 2 ^ 40 + b2n h.nak * 2 ^ 39 + h.vc * 2 ^ 37 + h.recPos * 2 ^ 35 + b2n h.phase * 2 ^ 34 + h.crVc * 2 ^ 32
    + h.crTotal * 2 ^ 21 + h.ltype * 2 ^ 19) 8 ++ bytesAt payload 0 240
  b ++ leBytes (crc64 b) 8

/-- Whether a flit passes its CRC. -/
def flitGood (raw : List Byte) : Bool := decide (raw.length = 256) && decide (fieldAt raw 248 8 = crc64 (raw.take 248))

/-- A flit leaves a port, with the link fields of the moment: the acknowledgement, nak, and the credit total of the channel whose
turn it is (R288) (DEDUCED, log entry 53). -/
def emit (x : Port) (seq vc recPos : Nat) (phase : Bool) (ltype : Nat) (payload : List Byte) : Port :=
  let h : FlitHead := { seq := seq, ack := (x.recvSeq + 4095) % 4096, nak := x.nakPending, vc := vc, recPos := recPos, phase := phase, crVc := x.crTurn
                        crTotal := mget 0 x.freed x.crTurn % 2048, ltype := ltype }
  { x with sent := x.sent ++ [flitBytes h payload], crTurn := (x.crTurn + 1) % 4 }

/-- A data flit of the replay buffer leaves. -/
def emitData (x : Port) (f : TxFlit) : Port := emit x f.seq f.vc f.recPos f.phase 0 f.payload

/-- An idle flit. -/
def emitIdle (x : Port) : Port := emit x x.sendSeq 0 0 false 1 []

/-- A link-control flit that asks for a width (R293). The spec does not give its payload (log entry 24). -/
def emitControl (x : Port) (narrow : Bool) : Port := emit x x.sendSeq 0 0 false 2 ((List.range 240).map (Config.narrowByte narrow))

/-! ### Keys (R294, R295, R383) -/

/-- What HKDF-Expand is given for a direction: its label, and the sender's identity, port and key index. -/
def keyInfo (label : List Byte) (identity : List Byte) (port index : Nat) : List Byte := label ++ identity ++ leBytes port 1 ++ leBytes index 4

/-- "HXSLKEY" and "HXSLSLT". -/
def keyLabel : List Byte := [0x48, 0x58, 0x53, 0x4C, 0x4B, 0x45, 0x59]
def saltLabel : List Byte := [0x48, 0x58, 0x53, 0x4C, 0x53, 0x4C, 0x54]

def linkKey (prk identity : List Byte) (port index : Nat) : Nat := leNat (hkdfExpand prk (keyInfo keyLabel identity port index) 32)
def linkSalt (prk identity : List Byte) (port index : Nat) : List Byte := hkdfExpand prk (keyInfo saltLabel identity port index) 4

/-- A record's plaintext encrypted, or a ciphertext decrypted, with the tag that goes with the ciphertext (R294): the IV's least significant
byte stands first (DEDUCED, log entry 53). -/
def recordSeal (k : LinkKey) (identity : List Byte) (port vc n : Nat) (plain : List Byte) : List Byte × List Byte :=
  gcmSeal (linkKey k.prk identity port k.index) (leBytes k.counter 8 ++ linkSalt k.prk identity port k.index)
    (leBytes (port * 2 ^ 56 + n * 2 ^ 48 + vc * 2 ^ 40) 8) plain

/-- The counter at which a key is used up. -/
def keyLimit : Nat := 2 ^ 40

/-! ### What a port sends (R289 to R291) -/

/-- The flits that a record takes: its plaintext and the tag. -/
def recordFlits (r : TxRec) : Nat := ceilDiv (r.plain.length + 16) 240

/-- The place of flit `i` of `n` in its record. -/
def recPosOf (i n : Nat) : Nat := if n = 1 then 0 else if i = 0 then 1 else if i + 1 = n then 3 else 2

/-- A record as it enters the replay buffer, encrypted once. -/
def sealRecord (port : Nat) (x : Port) (vc : Nat) (r : TxRec) : List TxFlit :=
  let n := recordFlits r
  let (c, tag) := recordSeal x.tx moduleIdentity port vc n (bytesAt r.plain 0 (240 * n - 16))
  (List.range n).map (fun i =>
    { seq := (x.sendSeq + i) % 4096, vc := vc, recPos := recPosOf i n, phase := bit x.tx.index 0, payload := bytesAt (c ++ tag) (240 * i) 240, replays := 0, op := r.op })

def queueAt (x : Port) (vc : Nat) : List TxRec := mget [] x.outQ vc

/-- The record at the head of a channel, where it can leave: its flits have credits and room in the replay buffer, the key is not used
up, and a fence has no write of its context before it (R254, R289, R291, R295) (DEDUCED, log entry 53). -/
def recordReady (x : Port) (vc : Nat) : Option TxRec :=
  match queueAt x vc with
  | [] => none
  | r :: _ =>
    let n := recordFlits r
    if n ≤ mget 0 x.credits vc ∧ x.unacked.length + n ≤ 512 ∧ x.tx.counter < keyLimit
        ∧ !(r.fence && (queueAt x 0).any (fun w => w.context == r.context)) then some r else none

/-- Whether channel `a` goes before channel `b`: the one that has had less of its share in the frame; a channel of weight zero goes last
(R290) (DESIGN CHOICE, log entry 53). -/
def goesBefore (x : Port) (a b : Nat) : Bool :=
  let w (v : Nat) : Nat := mget 0 x.weights v
  let n (v : Nat) : Nat := mget 0 x.share v
  if w a = 0 then false else if w b = 0 then true else decide (n a * w b < n b * w a)

/-- The channel whose record leaves next: VC3 first, then the data channels by their weights (R289). -/
def nextChannel (x : Port) : Option Nat :=
  if (recordReady x 3).isSome then some 3
  else ((List.range 3).filter (fun v => (recordReady x v).isSome)).foldl (fun b v =>
    match b with | none => some v | some u => if goesBefore x v u then some v else some u) none

/-- A record of a channel leaves: its flits take credits and enter the replay buffer. -/
def sendRecord (port : Nat) (x : Port) (vc : Nat) (r : TxRec) : Port :=
  let fs := sealRecord port x vc r
  let n := recordFlits r
  let y := fs.foldl emitData x
  { y with outQ := mset [] x.outQ vc ((queueAt x vc).drop 1), unacked := x.unacked ++ fs, sendSeq := (x.sendSeq + n) % 4096, credits := mset 0 x.credits vc (mget 0 x.credits vc - n)
           share := madd x.share vc n, tx := { x.tx with counter := x.tx.counter + 1 }, progress := x.progress + 1 }

/-- What a record's sending counts: the port's data bytes and flits, and its context's traffic (Tables 12-10, 19-5). -/
def countRecordSent (s : State) (p : Nat) (r : TxRec) : State :=
  account (countLink (countLink s p 0 r.plain.length) p 2 (recordFlits r)) r.context (acGlonyTx + p) r.plain.length

/-- Sends the records that can leave a port, at most `fuel`. -/
def pump (p : Nat) : Nat → State → State
  | 0, s => s
  | fuel + 1, s =>
    let x := portOf s p
    if !portUp x then s
    else
      match nextChannel x with
      | none => s
      | some vc =>
        match queueAt x vc with
        | [] => s
        | r :: _ => pump p fuel (countRecordSent (setPort s p (sendRecord p x vc r)) p r)

/-- The records that wait at a port. -/
def waitingRecs (x : Port) : Nat := ((List.range 4).map (fun v => (queueAt x v).length)).sum

def pumpPort (s : State) (p : Nat) : State := pump p (waitingRecs (portOf s p)) s

/-- A record joins its channel, and what can leave leaves. -/
def queueRecord (s : State) (p vc : Nat) (r : TxRec) : State :=
  pumpPort (modPort s p (fun x => { x with outQ := mset [] x.outQ vc (queueAt x vc ++ [r]) })) p

/-- A port that has sent no data flit tells its acknowledgement, nak and credits in idle flits, one for each channel whose total
follows (DESIGN CHOICE, log entry 53). -/
def tellPeer (s : State) (p n : Nat) : State :=
  countLink (countLink (modPort s p (fun x => (List.range n).foldl (fun x _ => emitIdle x) x)) p 2 n) p 6 n

/-- Sends what can leave a port, and `n` idle flits where nothing can. -/
def pumpOrTell (s : State) (p n : Nat) : State :=
  let s1 := pumpPort s p
  if (portOf s1 p).sendSeq = (portOf s p).sendSeq then (if portUp (portOf s1 p) then tellPeer s1 p n else s1) else s1

/-! ### The width of a port (R293, R396) -/

/-- Ports narrow or widen at the first tick after both ends have agreed: the narrower width that either end asks for applies, this end's
only where the coming frame's window permits it. A changed wish is asked for in a link-control flit (DESIGN CHOICE, log entry 24). -/
def portWidth (linkPoint : Nat) (permit : Bool) (x : Port) : Port :=
  if !portUp x then x
  else
    let want := decide (1 ≤ linkPoint) && permit
    let lanes :=
      if (x.narrowAsk && permit) || x.narrowPeer then min x.lanes 4
      else if !x.narrowAsk && decide (8 ≤ 9 - x.failedLanes.length) then 8 else x.lanes
    let y := { x with lanes := lanes, state := if lanes ≤ 4 then .upNarrow else .up, narrowAsk := want }
    if want = x.narrowAsk then y else emitControl y want

/-- The width of a port at a tick, with the flit that it may send. -/
def widthTick (linkPoint : Nat) (permit : Nat → Bool) (s : State) (p : Nat) : State :=
  let x := portOf s p
  let y := portWidth linkPoint (permit p) x
  let s1 := setPort s p y
  if y.sent.length = x.sent.length then s1 else countLink s1 p 2 1

end Sys2Proof.Machine
end

