-- ==== Sys2Proof/Machine/CellSync.lean ====
section
/-! DEFINITION. Machine/CellSync.lean: what happens to cells and engines when a step is aborted, a context is switched, a
partition leaves, or an image becomes active (R152, R161, R166 to R169, R189, R190, R439). -/

namespace Sys2Proof.Machine

open Sys2Proof

/-! ### Every cell, every engine -/

/-- Changes every cell. A cell that is not listed is changed where the change gives it something to list. -/
def mapCells (s : State) (f : Cell → Cell) : State :=
  let l := if f Cell.reset = Cell.reset then s.cells.map (fun e => (e.1, f e.2)) else (List.range 4096).map (fun i => (i, f (cellOf s i)))
  { s with cells := l.filter (fun e => decide (e.2 ≠ Cell.reset)) }

/-- The engines that hold anything. -/
def allEngines (s : State) : List Engine :=
  s.cells.map (fun e => Engine.mover e.1) ++ s.clusters.flatMap (fun e => [Engine.gather e.1, Engine.packer e.1])

/-! ### Waits that are still open (R439) -/

/-- Records the open waits of an engine's descriptors that a test names. -/
def traceEngine (s : State) (e : Engine) (hit : QDesc → Bool) : State :=
  ((engOf s e).tasks.filter (fun t => hit t.desc)).foldl (fun s t =>
    let d := descOf e t.desc.raw
    let (k, u) := engWaiter e t.q
    if t.queuedWait && !t.granted then endWait s k 0 u d.waitCell d.waitSem d.waitN true t.waitAt
    else if t.creditWait then endWait s k 1 u d.acctCell d.counter (creditUnits d) true t.waitAt
    else s) s

/-- Records the open wait of a cell's sequencer. -/
def traceCell (s : State) (cell : Nat) : State :=
  match (cellOf s cell).held with | some op => traceHeld s cell op true | none => s

/-! ### Cancelling (Table 8-10 step 1) -/

/-- Cancels the descriptors of an engine that a test names: each that is not yet counted counts as cancelled; none of
their remaining transfers is issued, and those outstanding run to their end without posts or records. -/
def cancelEng (e : Engine) (hit : QDesc → Bool) (y : Eng) : Eng :=
  let queued := (y.listQ ++ y.tileQ ++ y.prefetchQ).countP hit
  let open_ := y.tasks.countP (fun t => hit t.desc && !t.counted)
  let out (t : Task) : Nat := y.xfers.countP (fun x => x.task == t.id)
  let stop (t : Task) : Task :=
    let n := transfersOf (descOf e t.desc.raw)
    { t with counted := true, issued := n, ended := n - out t, queuedWait := false, creditWait := false }
  { y with
    listQ := y.listQ.filter (fun x => !hit x)
    tileQ := y.tileQ.filter (fun x => !hit x)
    prefetchQ := y.prefetchQ.filter (fun x => !hit x)
    tasks := (y.tasks.filter (fun t => !hit t.desc || decide (0 < out t))).map (fun t => if hit t.desc then stop t else t)
    xfers := y.xfers.map (fun x => if hit x.desc then { x with cancelled := true } else x)
    ledger := { y.ledger with cancelled := y.ledger.cancelled + queued + open_ } }

/-- A cell whose tile stops issuing at an abort tick: the operations already issued complete (R421), but a descriptor that waits for
its mover is not handed over any more. -/
def stopCell (c : Cell) : Cell :=
  { c with active := false, later := [], issued := c.issued.map (fun i => { i with desc := none }), held := none }

/-- Whether what waits in a semaphore's queue of a cell still waits: a descriptor or an operation that has been cancelled does not, nor a
tile that has stopped. -/
def waiterLives (s : State) (c : Cell) : Waiter → Bool
  | .sequencer _ _ => c.held.isSome
  | .engine e _ task _ => (engOf s e).tasks.any (fun t => t.id == task && t.queuedWait && !t.granted)
  | .collective e op _ => (collOf s e).ops.any (fun o => o.opId == op && o.joined && !o.granted)

/-- The semaphores' queues after work has been cancelled. -/
def pruneWaits (s : State) (c : Cell) : Cell := { c with semQ := remap [] (fun l => l.filter (waiterLives s c)) c.semQ }

/-! ### Collective engines (R307, R312) -/

/-- Cancels a step's operations on one engine (R312): those that have not failed count as cancelled, what they have not sent is not sent,
and they take no posts any more; the other messages held for them are performed as soon as they may. -/
def cancelColl (hit : CollOp → Bool) (s : State) (e : Nat) : State :=
  let x := collOf s e
  let gone := x.ops.filter hit
  let ids := gone.map (·.opId)
  let s1 := setColl s e { x with
    ops := x.ops.filter (fun o => !hit o), held := x.held.filter (fun m => !(m.1 == 4 && ids.contains m.2.opId)), got := x.got.filter (fun g => !ids.contains (g.1 / 256))
    ledger := { x.ledger with cancelled := x.ledger.cancelled + (gone.filter (fun o => !o.failedOnce)).length } }
  let mine (r : TxRec) : Bool := match r.op with | some o => o.1 == e && ids.contains o.2 | none => false
  { s1 with ports := remap Port.reset (fun p => { p with outQ := remap [] (fun l => l.filter (fun r => !mine r)) p.outQ }) s1.ports }

/-- The abort tick for a step's work on cells and engines (R189, R439): what an earlier step of the context has left behind goes on. -/
def abortWork (s : State) (context step : Nat) : State :=
  let hit (x : QDesc) : Bool := x.context == context && x.step == step
  let s1 := s.cells.foldl (fun s e => traceCell s e.1) s
  let s2 := (allEngines s1).foldl (fun s e => modEng (traceEngine s e hit) e (cancelEng e hit)) s1
  let s3 := [0, 1].foldl (cancelColl (fun o => o.context == context && o.step == step)) (mapCells s2 stopCell)
  mapCells s3 (pruneWaits s3)

/-- Whether the engines hold no descriptor of a context and no cell works on a tile. -/
def workIdle (s : State) (context : Nat) : Bool :=
  let free (y : Eng) : Bool :=
    (y.listQ ++ y.tileQ ++ y.prefetchQ).all (fun x => x.context != context) && y.tasks.all (fun t => t.desc.context != context)
      && y.xfers.all (fun x => x.desc.context != context)
  (allEngines s).all (fun e => free (engOf s e)) && s.colls.all (fun e => e.2.ops.all (fun o => o.context != context)) && s.cells.all (fun e => !e.2.active && e.2.issued.isEmpty)

/-! ### Synchronisation state (R152, R161) -/

/-- The difference between expected and counted credit units of a cell (R161) (DEDUCED, log entry 73). -/
def creditGap (img : List Byte) (c : Cell) : Nat :=
  ((List.range 32).map (fun j => let a := creditInit img j; let b := (creditOf c j).value; (a - b) + (b - a))).sum

/-- Step 4 of Table 8-10: semaphores and credits from their initial values, ovf bits clear; the current halves stay. -/
def resetSync (img : List Byte) (c : Cell) : Cell := { initSync img c with half := c.half }

/-- The synchronisation state of an image that becomes active for a context that runs on the cells, or does not (R152). -/
def startImage (s : State) (context : Nat) (img : List Byte) : State :=
  if s.residency.current = some context then mapCells s (initSync img)
  else
    let fresh := initSync img Cell.reset
    modCtx s context (fun x =>
      { x with saved := ((List.range 4096).map (fun i =>
          (i, { mget SavedCell.reset x.saved i with sem := fresh.sem, credit := fresh.credit, half := [] }))).filter (fun e => decide (e.2 ≠ SavedCell.reset)) })

/-! ### Zeroing (R168, R169) -/

/-- Zeroes a cell completely: scratchpad, poison, semaphores, credits, current halves, resident tag and message slots. -/
def zeroCell (c : Cell) : Cell :=
  { c with sp := [], spPoison := [], sem := [], semQ := [], credit := [], half := [], residentTag := none, mailbox := [] }

/-- Whether an offset lies in a region that satisfies a test. -/
def inRegion (regs : List Region) (p : Region → Bool) (o : Nat) : Bool :=
  regs.any (fun r => r.valid && p r && decide (r.base ≤ o) && decide (o < r.base + regionSpan r))

/-- Zeroes the regions with scrub_on_release, with their poison bits; a cell that is scrubbed loses its resident tag (R167, R169). -/
def scrubCell (regs : List Region) (c : Cell) : Cell :=
  let gone (o : Nat) : Bool := inRegion regs (·.scrub) o
  if regs.any (fun r => r.valid && r.scrub) then
    { c with sp := c.sp.filter (fun e => !gone e.1), spPoison := c.spPoison.filter (fun e => !gone (e.1 * rowBytes)), residentTag := none }
  else c

/-! ### Saving and restoring (R166, R167, Table 7-11) -/

/-- What a switch-out keeps of a cell: the live regions and the synchronisation state. The rest of the scratchpad is noted
as the context leaves it, one of the outcomes that Table 7-11 allows at its return: regions that are scrubbed and not live it leaves as
zeros (R169). -/
def saveCell (regs : List Region) (c : Cell) : SavedCell :=
  let kept (o : Nat) : Bool := inRegion regs (·.live) o || !inRegion regs (·.scrub) o
  { sp := c.sp.filter (fun e => kept e.1), spPoison := c.spPoison.filter (fun e => kept (e.1 * rowBytes)), half := c.half, sem := c.sem, credit := c.credit }

def saveCells (s : State) (context : Nat) : State :=
  modCtx s context (fun x =>
    { x with saved := (s.cells.map (fun e => (e.1, saveCell (regions (activeImage x)) e.2))).filter (fun e => decide (e.2 ≠ SavedCell.reset)) })

/-- One of the three outcomes of Table 7-11: as the context left it, as it stands, or the default (DESIGN CHOICE, log entry 13). -/
def someOutcome {α : Type} (n : Nat) (left now none : α) : α :=
  if Config.keepsOffset n then left else if Config.keepsOffset (n + 1) then now else none

/-- Merges a map of a cell at switch-in: live indices as saved, resident ones as they stand, every other listed index one
of the outcomes of Table 7-11. `at_` gives the scratchpad offset of an index. -/
def mergeMap {α : Type} [DecidableEq α] (d : α) (regs : List Region) (at_ : Nat → Nat) (n : Nat) (saved now : SMap α) : SMap α × Nat :=
  let live (i : Nat) : Bool := inRegion regs (·.live) (at_ i)
  let kept (i : Nat) : Bool := inRegion regs (·.resident) (at_ i)
  let base := (saved.filter (fun e => live e.1)).foldl (fun m e => mset d m e.1 e.2) (now.filter (fun e => kept e.1 && !live e.1))
  let other := ((saved ++ now.filter (fun e => saved.all (fun f => f.1 != e.1))).map (·.1)).filter (fun i => !live i && !kept i)
  other.foldl (fun (a : SMap α × Nat) i => (mset d a.1 i (someOutcome a.2 (mget d saved i) (mget d now i) d), a.2 + 2)) (base, n)

/-- A cell at switch-in, before its resident regions are looked at: the semaphores take the saved values, which clears their ovf bits
(Table 7-9); gives the next free draw (DESIGN CHOICE, log entry 13). -/
def restoreCell (regs : List Region) (n : Nat) (v : SavedCell) (c : Cell) : Cell × Nat :=
  let (sp, n1) := mergeMap (0 : Byte) regs id n v.sp c.sp
  let (p, n2) := mergeMap false regs (fun i => i * rowBytes) n1 v.spPoison c.spPoison
  ({ c with sp := sp, spPoison := p, half := v.half, sem := remap Sem.reset (fun w => { w with ovf := false }) v.sem, credit := v.credit, semQ := [] }, n2)

/-- Every cell at the switch-in of a context. -/
def restoreCells (s : State) (context : Nat) : State :=
  match ctxOf s context with
  | none => s
  | some x =>
    let regs := regions (activeImage x)
    let ids := s.cells.map (·.1) ++ (x.saved.filter (fun e => s.cells.all (fun f => f.1 != e.1))).map (·.1)
    ids.foldl (fun s i =>
      let (c, n) := restoreCell regs s.freeCount (mget SavedCell.reset x.saved i) (cellOf s i)
      setCell { s with freeCount := n } i c) s

/-- Decodes codec blocks from a stack address into a scratchpad span until it is full; a block that fails leaves the rest
as poisoned zeros, as a DECODE does (R235). `prev` is the sequence value of the block before. -/
def reloadRegion (x : Actor) (cell : Nat) (tabs : SMap TableSlot) : Nat → State → Nat → Nat → Nat → Option Nat → State
  | 0, s, _, _, _, _ => s
  | fuel + 1, s, src, o, n, prev =>
    if n = 0 then s
    else
      let (s1, b) := readBlock s x src
      match b.denied with
      | some _ => modCell s1 cell (fun c => spWrite c o (List.replicate n 0) true)
      | none =>
        let hdr := blkOf b.bytes
        let out := judgeBlock tabs b false n prev
        let s2 := countBlock s1 x.cluster (b.bytes.length / 128) out hdr.mode
        if out.status ≠ 0 then modCell (countErr (countCodec s2 out.status out.miss) x.cluster 5 1) cell (fun c => spWrite c o (List.replicate n 0) true)
        else
          reloadRegion x cell tabs fuel (modCell s2 cell (fun c => spWrite c o out.bytes false)) (src + b.bytes.length) (o + out.bytes.length) (n - out.bytes.length) (some hdr.seq)

/-- Reloads the resident regions of a cell whose tag does not match (R167): the cell's image is found through the region's
source table. Table 7-11 gives a region that is live and resident two contents where the tag does not match: it is restored first
and reloaded then (DESIGN CHOICE, log entry 13). -/
def reloadCell (s : State) (context : Nat) (y : Ctx) (regs : List Region) (cell : Nat) : State :=
  if (cellOf s cell).residentTag = some context then s
  else
    let x : Actor := { owner := y.partition, cluster := cell / 16, self := some cell, context := context }
    let s1 := (regs.filter (fun r => r.valid && r.resident)).foldl (fun s r =>
      let (s1, bs, _, _) := readAt s x (r.source + 8 * cell) 8
      reloadRegion x cell y.tables (r.halfBytes / 128) s1 (leNat bs % 2 ^ 48) r.base r.halfBytes none) s
    charge s (modCell s1 cell (fun c => { c with residentTag := some context })) context

/-- Every cell's resident regions at the switch-in of a context. -/
def reloadResidents (s : State) (context : Nat) : State :=
  match ctxOf s context with
  | none => s
  | some y =>
    let regs := regions (activeImage y)
    if regs.any (fun r => r.valid && r.resident) then (List.range 4096).foldl (fun s c => reloadCell s context y regs c) s else s

/-! ### The blocks of a source entry (Table 10-6 without order 4) -/

/-- Walks the blocks that stand between two addresses; gives the first that fails the checks. An all-zero header line holds
no block. Blocks that end before `lo` only show where the next one stands: they are neither checked nor counted as read, and a line that
heads no block is passed (DESIGN CHOICE, log entry 73). -/
def walkBlocks (x : Actor) (tabs : SMap TableSlot) : Nat → State → Nat → Nat → Nat → State × Option Nat
  | 0, s, _, _, _ => (s, none)
  | fuel + 1, s, a, lo, stop =>
    if stop ≤ a then (s, none)
    else
      let (s1, b) := readBlock s x a
      let n := max 128 b.bytes.length
      if a + n ≤ lo then walkBlocks x tabs fuel s (a + n) lo stop
      else if !b.poison && b.denied.isNone && decide (b.bytes.take 128 = zeroLine) then walkBlocks x tabs fuel s1 (a + 128) lo stop
      else
        let out := judgeBlock tabs b false (2 ^ 16) none
        if b.denied.isSome || decide (out.status ≠ 0) then (s1, some a) else walkBlocks x tabs fuel s1 (a + n) lo stop

end Sys2Proof.Machine
end

