-- ==== Sys2Proof/Machine/Capability.lean ====
section
/-! DEFINITION. Machine/Capability.lean: the capability list (R344, R345) and the bodies of its eleven entries (R61, R83,
R111, R142, R223, R244, R315, R389, R390, R411, R449). -/

namespace Sys2Proof.Machine

open Sys2Proof

/-- A body as fields of given sizes in bytes. -/
def fields (l : List (Nat × Nat)) : List Byte := l.flatMap (fun e => leBytes e.2 e.1)

/-- Table 4-15. -/
def capGeometry : List Byte := fields [(2, 256), (1, 16), (1, 1), (1, 32), (1, 32), (1, 64), (1, 16), (2, 256), (2, 1024),
  (1, 128), (1, 2), (1, 16), (1, 4), (1, 8), (1, 64), (1, 8), (1, 8), (1, 4), (1, 2), (2, 0)]
/-- Table 3-5. -/
def capFormats : List Byte := fields [(2, 0x3FFE), (2, 0x3FFF), (1, 48), (1, 32), (1, 16), (1, 8), (2, 1024), (2, 512),
  (2, 256), (1, 22), (1, 0)]
/-- Table 9-12. -/
def capMemory : List Byte := fields [(2, 24), (2, 64), (1, 3), (1, 128), (2, 256), (4, 2048), (2, 192), (1, 16), (1, 16),
  (2, 6144), (1, 4), (1, 8), (1, 0x0F), (1, 0x0F), (2, 0)]
/-- Table 10-13. -/
def capCodec : List Byte := fields [(1, 7), (1, 16), (1, 2), (1, 12), (2, 8192), (2, 4064), (1, 4), (1, 4), (1, 192),
  (1, 32), (2, 0x1DDF), (2, 2064)]
/-- Table 13-13. -/
def capLinks : List Byte := fields [(1, 14), (1, 8), (1, 1), (1, 4), (2, 200), (2, 256), (1, 4), (1, 64), (1, 2), (1, 0xFF),
  (2, 512), (1, 16), (1, 0)]
/-- Table 16-15. -/
def capPartitions : List Byte := fields [(1, 8), (1, 8), (1, 32), (1, 32), (2, 128), (1, 64), (1, 16), (1, 32), (1, 3),
  (2, 496), (2, 464), (1, 0), (1, 0)]
/-- Table 17-12. -/
def capPower : List Byte := fields [(1, 8), (1, 2), (1, 0), (1, 3), (2, 1200), (2, 3600), (2, 1400), (1, 100), (1, 10),
  (1, 5), (1, 100), (1, 105), (1, 95)]
/-- Table 6-7. -/
def capTraining : List Byte := fields [(1, 7), (1, 1), (1, 128), (1, 7), (2, 1024), (2, 256), (2, 8), (2, 48), (1, 0x3E),
  (1, 0), (2, 0)]
/-- Table 19-13. -/
def capDebug : List Byte := fields [(2, 0xFF), (1, 32), (1, 4), (2, 48), (2, 16), (1, 4), (1, 2), (1, 8), (1, 1), (2, 1000),
  (2, 0)]
/-- Table 16-16. -/
def capSecurity : List Byte := fields [(1, 3), (1, 3), (1, 1), (1, 1), (1, 1), (1, 1), (1, 1), (1, 1), (1, 0x12), (1, 40),
  (1, 4), (1, 0), (4, 0)]
/-- Table 2-12. -/
def capTiming : List Byte := fields [(1, 8), (1, 80), (1, 1), (1, 8), (1, 4), (1, 7), (1, 48), (1, 2), (2, 2000), (2, 1500),
  (1, 16), (1, 1), (2, 0)]

/-- The entries in ascending order of identifier (R345, Table 14-17). -/
def capBodies : List (List Byte) := [capGeometry, capFormats, capMemory, capCodec, capLinks, capPartitions, capPower,
  capTraining, capDebug, capSecurity, capTiming]

/-- The body of an identifier; none where the list does not hold it. -/
def capBody (id : Nat) : Option (List Byte) := if id = 0 then none else capBodies[id - 1]?

/-- The header and body of an entry at an offset; `last` where no entry follows. -/
def capEntry (id off : Nat) (body : List Byte) (last : Bool) : List Byte :=
  fields [(2, id), (1, 1), (1, 0), (2, body.length), (2, if last then 0 else off + 8 + body.length)] ++ body

/-- The list's bytes from an offset on. -/
def capListFrom : Nat → Nat → List (List Byte) → List Byte
  | _, _, [] => []
  | id, off, b :: t => capEntry id off b t.isEmpty ++ capListFrom (id + 1) (off + 8 + b.length) t

/-- The capability list as it stands from 0x1000 on. -/
def capList : List Byte := capListFrom 1 0x1000 capBodies

/-- The header and body of an entry as the list holds it. -/
def capHeaderBody (id : Nat) : List Byte :=
  let off := 0x1000 + ((capBodies.take (id - 1)).map (fun b => 8 + b.length)).sum
  match capBody id with
  | some b => capEntry id off b (decide (id = capBodies.length))
  | none => []

end Sys2Proof.Machine
end

