-- ==== Sys2Proof/Machine/Registers.lean ====
section
/-! DEFINITION. Machine/Registers.lean: the registers of BAR0 as a read delivers them (R5, R60, R222, R243, R314, R327,
R328, R330, R343, R409, R430, R438). A read of an RC register clears it; a counter that has passed its field's width reads
as a free value, since the spec gives neither saturation nor wrapping for it. -/

namespace Sys2Proof.Machine

open Sys2Proof

/-- A counter as a field of `w` bits shows it (DESIGN CHOICE, log entry 23). -/
def rcField (s : State) (w n : Nat) : Nat := if n < 2 ^ w then n else Config.pick s.freeCount % 2 ^ w

/-- An RC register of one field: its value, and the state after it was cleared and the free draw used up. -/
def rc1 (s : State) (w n : Nat) (clear : State → State) : State × Nat :=
  (clear { s with freeCount := s.freeCount + 1 }, rcField s w n)

/-- An RC register of two 16-bit fields. -/
def rc2 (s : State) (hi lo : Nat) (clear : State → State) : State × Nat :=
  (clear { s with freeCount := s.freeCount + 1 }, rcField s 16 hi * 65536 + rcField s 16 lo)

/-! ### Queues -/

def queueOf? (s : State) (q : Nat) : Option Queue := mget none s.host.queues q
def setQueue (s : State) (q : Nat) (x : Option Queue) : State := { s with host := { s.host with queues := mset none s.host.queues q x } }
def modQueue (s : State) (q : Nat) (f : Queue → Queue) : State :=
  match queueOf? s q with | some x => setQueue s q (some (f x)) | none => s

/-- The queue, where the function owns it. -/
def ownQueue (s : State) (fn q : Nat) : Option Queue :=
  match queueOf? s q with | some x => if x.owner = fn then some x else none | none => none

/-! ### Function registers (Tables 14-5 to 14-8) -/

/-- Fetching is held until IDE is in force (R325). -/
def ideWait (s : State) : Bool := s.host.ideRequired && !(s.host.ideIo && s.host.ideMem)

/-- HX_MOD_STATUS (Table 14-7). partition_ready of the PF reads 1 always, during a reset too: its Reset column says 0, its Meaning
1 (DESIGN CHOICE, log entry 76). -/
def modStatus (s : State) (fn : Nat) : Nat :=
  s.host.linkWidth * 2 ^ 32 + s.host.linkRate * 2 ^ 24 + b2n s.host.flit256 * 2 ^ 23 + b2n (ideWait s) * 32
    + b2n (decide (fn = 0) || (partOf s (fn - 1)).present) * 16 + b2n s.rot.recovery * 8 + b2n s.faultFlag * 2 + b2n s.ready

/-- HX_AQ_CFG of a function; `enabled` is its admin queue's. -/
def aqCfg (s : State) (fn : Nat) : Nat :=
  let f := fnOf s fn
  let en := match ownQueue s fn fn with | some q => q.enabled | none => false
  f.aqVector * 2 ^ 16 + f.aqCqLog2 * 2 ^ 12 + f.aqSqLog2 * 2 ^ 8 + b2n en * 2 + b2n f.aqEnable

def evqCfg (s : State) (fn : Nat) : Nat :=
  let f := fnOf s fn
  f.evqVector * 2 ^ 16 + f.evqLog2 * 2 ^ 12 + b2n f.evqEnabled * 2 + b2n f.evqEnable

/-- The function registers at an offset below 0x1000. -/
def fnReg (s : State) (fn off : Nat) : State × Nat :=
  let f := fnOf s fn
  if off = 0x000 then (s, 0x010B1000)
  else if off = 0x008 then (s, (if fn = 0 then 0x2416 else 0x2417) * 2 ^ 16 + 0xA1 * 256 + fn)
  else if off = 0x010 then (s, modStatus s fn)
  else if off = 0x100 then (s, f.aqSqBase.toNat)
  else if off = 0x108 then (s, f.aqCqBase.toNat)
  else if off = 0x110 then (s, aqCfg s fn)
  else if off = 0x120 then (s, f.evqBase.toNat)
  else if off = 0x128 then (s, evqCfg s fn)
  else if off = 0x200 then rc1 s 32 f.dbFault (fun s => modFn s fn (fun f => { f with dbFault := 0 }))
  else if off = 0x208 ∧ fn = 0 then rc1 s 32 f.memFault (fun s => modFn s fn (fun f => { f with memFault := 0 }))
  else if off = 0x210 then rc1 s 32 f.evtLost (fun s => modFn s fn (fun f => { f with evtLost := 0 }))
  else if 0x800 ≤ off ∧ off % 8 = 0 then
    let q := (off - 0x800) / 8
    match ownQueue s fn q with
    | some _ => rc2 s (mget 0 s.host.qrejAlive q) (mget 0 s.host.qrejRejected q) (fun s =>
        { s with host := { s.host with qrejAlive := mset 0 s.host.qrejAlive q 0, qrejRejected := mset 0 s.host.qrejRejected q 0 } })
    | none => (s, 0)
  else (s, 0)

/-! ### Host windows and exposures (Tables 14-9, R343) -/

/-- The 32 bytes of a host window entry; `write` reads 0 for kind 2. -/
def winBytes (w : HostWin) : List Byte :=
  leBytes w.devBase.toNat 8 ++ leBytes w.size.toNat 8 ++ leBytes w.hostAddr.toNat 8
    ++ [w.owner, w.kind, if w.kind = 2 then w.flags &&& 0xFB else w.flags] ++ leBytes 0 5

def windowAt (s : State) (i : Nat) : HostWin := mget HostWin.reset s.host.windows i
def exposureAt (s : State) (i : Nat) : Exposure := mget Exposure.reset s.host.exposures i

/-! ### Frame registers (Tables 2-9 to 2-11) -/

def frameCfg (s : State) : Nat :=
  let c := s.frames.cfg
  let next := match s.frames.announced with
    | some (n, _) => n.periodUs
    | none => match s.grp.announced.find? (fun a => a.kind == 1) with | some a => fieldAt a.entry 1 1 | none => c.periodUs
  let pend := if next = c.periodUs then 0 else next
  c.lateLead * 2 ^ 32 + c.periodUs * 2 ^ 24 + c.quantumUs * 2 ^ 20 + c.maxQuanta * 2 ^ 16 + pend * 256
    + b2n c.syncOutEn * 8 + c.source

/-- Whether the module is its group's keystone; a module alone is (Table 2-11, R300). -/
def isKeystone (s : State) : Bool := s.grp.state != .member && s.grp.state != .lost

def frameStatus (s : State) : Nat :=
  let f := s.frames
  f.applied * 2 ^ 56 + f.required * 2 ^ 52 + f.stretch * 2 ^ 48 + min f.overrunRun 255 * 2 ^ 40 + b2n (isKeystone s) * 128
    + b2n f.catchUp * 64 + b2n f.overrun * 32 + b2n f.late * 16 + b2n f.syncLost * 8 + b2n f.droopStep * 4
    + b2n ((allCtxs s).any (fun e => e.2.switchPending)) * 2

def modFrames (s : State) (g : Frames → Frames) : State := { s with frames := g s.frames }

def frameReg (s : State) (off : Nat) : State × Nat :=
  let f := s.frames
  if off = 0x3000 then (s, frameCfg s)
  else if off = 0x3008 then (s, frameStatus s)
  else if off = 0x3010 then (s, f.counter.toNat)
  else if off = 0x3020 then rc1 s 32 f.lateCnt (modFrames · (fun f => { f with lateCnt := 0 }))
  else if off = 0x3028 then rc1 s 32 f.stretchCnt (modFrames · (fun f => { f with stretchCnt := 0 }))
  else if off = 0x3030 then rc1 s 32 f.overrunCnt (modFrames · (fun f => { f with overrunCnt := 0 }))
  else if off = 0x3038 then rc1 s 32 f.syncOverrunCnt (modFrames · (fun f => { f with syncOverrunCnt := 0 }))
  else if off = 0x3040 then rc1 s 32 f.syncLostCnt (modFrames · (fun f => { f with syncLostCnt := 0 }))
  else if off = 0x3048 then rc1 s 32 f.droopCnt (modFrames · (fun f => { f with droopCnt := 0 }))
  else (s, 0)

/-! ### Memory and codec registers (Tables 9-10, 9-11, 10-12) -/

def stackStateCode : StackState → Nat
  | .inService => 0 | .retraining => 1 | .margining => 2 | .outOfService => 3

/-- The lane groups of one direction whose spare is in use (R193). -/
def spareGroups (failed : List Nat) : List Nat := (List.range 32).filter (fun g => failed.any (fun l => decide (l / 17 = g)))

/-- The fewest spare rows left in any bank of a stack. -/
def minSpareRows (k : Stack) : Nat := k.spareRows.foldl (fun m e => min m (16 - e.2)) 16

def memStatus (s : State) (k : Stack) : Nat :=
  min k.retired.length 255 * 2 ^ 40 + minSpareRows k * 2 ^ 32
    + ((spareGroups k.txFailed).length + (spareGroups k.rxFailed).length) * 2 ^ 16 + s.mem.memPoint * 256 + stackStateCode k.state

def modMem (s : State) (g : Memory → Memory) : State := { s with mem := g s.mem }

/-- The per-stack registers. -/
def stackReg (s : State) (block i : Nat) : State × Nat :=
  let k := stackOf s i
  if 24 ≤ i then (s, 0)
  else match block with
    | 0 => (s, memStatus s k)
    | 1 => rc1 s 32 k.ce (modStack · i (fun k => { k with ce := 0 }))
    | 2 => rc1 s 32 k.ue (modStack · i (fun k => { k with ue := 0 }))
    | 3 => rc1 s 32 k.poisonReads (modStack · i (fun k => { k with poisonReads := 0 }))
    | 4 => rc1 s 32 k.replays (modStack · i (fun k => { k with replays := 0 }))
    | 5 => rc1 s 32 k.discards (modStack · i (fun k => { k with discards := 0 }))
    | _ => (s, 0)

def modCodec (s : State) (g : CodecCounts → CodecCounts) : State := { s with codec := g s.codec }

def codecReg (s : State) (off : Nat) : State × Nat :=
  let c := s.codec
  if off = 0x4800 then rc1 s 48 c.decoded (modCodec · (fun c => { c with decoded := 0 }))
  else if off = 0x4808 then rc1 s 48 c.packed (modCodec · (fun c => { c with packed := 0 }))
  else if off = 0x4810 then rc1 s 32 c.overlong (modCodec · (fun c => { c with overlong := 0 }))
  else if off = 0x4818 then rc1 s 32 c.short (modCodec · (fun c => { c with short := 0 }))
  else if off = 0x4820 then rc2 s c.miss c.check (modCodec · (fun c => { c with miss := 0, check := 0 }))
  else if off = 0x4828 then rc2 s c.packPoison c.decUncorrectable (modCodec · (fun c => { c with packPoison := 0, decUncorrectable := 0 }))
  else if off = 0x4830 then rc2 s c.aliveGap c.aliveRepeat (modCodec · (fun c => { c with aliveGap := 0, aliveRepeat := 0 }))
  else if off = 0x4838 then rc2 s c.noSpace c.spilled (modCodec · (fun c => { c with noSpace := 0, spilled := 0 }))
  else if off = 0x4840 then rc1 s 48 c.inBytes (modCodec · (fun c => { c with inBytes := 0 }))
  else if off = 0x4848 then rc1 s 48 c.outBytes (modCodec · (fun c => { c with outBytes := 0 }))
  else (s, 0)

def memReg (s : State) (off : Nat) : State × Nat :=
  let m := s.mem
  let d := (off / 8) % 2
  if off < 0x4600 then stackReg s ((off - 0x4000) / 256) ((off % 256) / 8)
  else if off < 0x4610 then rc1 s 48 (mget 0 m.calMiss d) (modMem · (fun m => { m with calMiss := mset 0 m.calMiss d 0 }))
  else if off < 0x4620 then rc1 s 48 (mget 0 m.calWb d) (modMem · (fun m => { m with calWb := mset 0 m.calWb d 0 }))
  else if off < 0x4630 then rc2 s (mget 0 m.calUncorrected d) (mget 0 m.calCorrected d)
    (modMem · (fun m => { m with calUncorrected := mset 0 m.calUncorrected d 0, calCorrected := mset 0 m.calCorrected d 0 }))
  else if off < 0x4640 then rc1 s 48 (mget 0 m.calZero d) (modMem · (fun m => { m with calZero := mset 0 m.calZero d 0 }))
  else if off < 0x4650 then rc1 s 32 (mget 0 m.calPoison d) (modMem · (fun m => { m with calPoison := mset 0 m.calPoison d 0 }))
  else if off < 0x4800 then (s, 0)
  else codecReg s off

/-! ### Glony and group registers (Tables 13-10 to 13-12) -/

def portCode : PortState → Nat
  | .down => 0 | .training => 1 | .up => 2 | .upNarrow => 3 | .authFailed => 4 | .disabled => 5

def glonyStatus (x : Port) : Nat :=
  x.peerRank % 256 * 2 ^ 48 + x.peerPort % 256 * 2 ^ 40 + min x.retrains 255 * 2 ^ 32 + x.tx.index % 256 * 2 ^ 16
    + x.failedLanes.length * 256 + x.lanes * 16 + portCode x.state

def groupCode : GroupState → Nat
  | .standalone => 0 | .joining => 1 | .member => 2 | .keystone => 3 | .lost => 4

def groupStatus (g : Group) : Nat :=
  g.size * 2 ^ 48 + g.rank * 2 ^ 40 + g.keystoneRank * 2 ^ 32 + g.epoch % 65536 * 2 ^ 16 + g.treeDepth * 256 + groupCode g.state

/-- A set of ranks as a 64-bit mask. -/
def rankMask (l : List Nat) : Nat := l.foldl (fun m r => if bit m r then m else m + 2 ^ r) 0

/-- Marks the error record that a read of its words shows as read (R188, R311). -/
def collSeen (x : Coll) (i : Nat) : Coll := { x with errs := x.errs.map (fun p => if p.1 = i then (p.1, { p.2 with read := true }) else p) }

/-- The registers of a collective engine at an offset from 0x5400 + 0x400 × e. -/
def collReg (s : State) (e o : Nat) : State × Nat :=
  let x := collOf s e
  if o < 0x200 then (setColl s e (collSeen x (o / 32)), fieldAt (errRecBytes x.errs (o / 32)) (o % 32) 8)
  else if o = 0x200 then (s, headWord x.errTotal)
  else if o = 0x208 then rc1 s 32 x.overwritten (modColl · e (fun x => { x with overwritten := 0 }))
  else if o = 0x210 then (s, x.ledger.accepted % 2 ^ 48)
  else if o = 0x218 then (s, x.ledger.completed % 2 ^ 48)
  else if o = 0x220 then (s, x.ledger.failed % 2 ^ 48)
  else if o = 0x228 then (s, x.ledger.cancelled % 2 ^ 48)
  else (s, 0)

/-- The registers of a port (Table 13-10). -/
def portReg (s : State) (block p : Nat) : State × Nat :=
  let x := portOf s p
  if 14 ≤ p then (s, 0)
  else match block with
    | 0 => (s, glonyStatus x)
    | 1 => rc1 s 32 x.fec (modPort · p (fun x => { x with fec := 0 }))
    | 2 => rc1 s 32 x.fecUe (modPort · p (fun x => { x with fecUe := 0 }))
    | 3 => rc2 s x.msgErrors x.flitReplays (modPort · p (fun x => { x with msgErrors := 0, flitReplays := 0 }))
    | 4 => rc1 s 32 x.auth (modPort · p (fun x => { x with auth := 0 }))
    | _ => rc2 s x.discarded x.reconciled (modPort · p (fun x => { x with discarded := 0, reconciled := 0 }))

def glonyReg (s : State) (off : Nat) : State × Nat :=
  if off < 0x5300 then portReg s ((off - 0x5000) / 128) ((off % 128) / 8)
  else if off = 0x5300 then (s, groupStatus s.grp)
  else if off = 0x5308 then (s, rankMask s.grp.members)
  else if off = 0x5310 then (s, rankMask s.grp.lost)
  else if off < 0x5400 then (s, 0)
  else if off < 0x5C00 then collReg s ((off - 0x5400) / 0x400) ((off - 0x5400) % 0x400)
  else (s, 0)

/-! ### Power and thermal registers (Tables 17-8 to 17-10) -/

def modPower (s : State) (g : Power → Power) : State := { s with power := g s.power }

/-- The brake is in force (R405, R406). -/
def braked (p : Power) : Bool := p.brakePin || p.brakeUv

/-- A die is at its limit (Table 17-7). -/
def dieLimited (p : Power) : Bool := p.dieLimit0 || p.dieLimit1

/-- A temperature as its 16-bit signed field. -/
def tempField (t : Int) : Nat := unsigned 16 t
def dieTemp (p : Power) (i : Nat) : Int := p.dieTemps.getD i 0
def stackTemp (p : Power) (k : Nat) : Int := p.stackTemps.getD k 0
def hottest (l : List Int) : Int := match l with | [] => 0 | t :: r => r.foldl max t

/-- The issue duty in eighths: halved, in whole eighths and at least one, while a droop halves a die's (R404) (DEDUCED, log entry 48). -/
def dutyNow (p : Power) : Nat := if p.droopHalf0 || p.droopHalf1 then max 1 (p.dutyEighths / 2) else p.dutyEighths

/-- HX_PWR_STATUS (Table 17-9). -/
def pwrStatus (s : State) : Nat :=
  let p := s.power
  p.permitted * 2 ^ 28 + s.mem.memPoint * 2 ^ 26 + p.linkPoint * 2 ^ 24 + (hottest p.dieTemps / 10).toNat % 256 * 2 ^ 16
    + (dutyNow p - 1) * 2 ^ 11 + (b2n p.brakePin + 2 * b2n p.brakeUv) * 2 ^ 9 + b2n p.toggle * 256
    + b2n p.alarmStuck * 128 + b2n (braked p) * 64 + b2n ((List.range 24).any (fun k => (stackOf s k).limited)) * 32
    + b2n (dieLimited p) * 16 + b2n (p.dieThrottle0 || p.dieThrottle1) * 8 + b2n (p.disagree0 || p.disagree1) * 4 + b2n p.capLimiting * 2

def pwrAlarm (p : Power) : Nat := b2n p.alarmStuck * 8 + b2n p.alarmDisagree * 4 + b2n p.alarmThermal * 2 + b2n p.alarmBrake

def powerReg (s : State) (off : Nat) : State × Nat :=
  let p := s.power
  if off = 0x6000 then (s, pwrStatus s)
  else if off = 0x6008 then (s, p.order2 * 2 ^ 16 + p.order1 * 2 ^ 14 + p.order0 * 2 ^ 12 + p.cap)
  else if off = 0x6010 then (s, p.inputCentiV % 65536 * 65536 + p.inputW % 65536)
  else if off < 0x6040 then
    let d := (off - 0x6018) / 8
    (s, mget 0 p.ceilings d % 65536 * 65536 + mget 0 p.est d % 65536)
  else if off = 0x6040 then (s, p.energyMj % 2 ^ 64)
  else if off = 0x6048 then (s, unsigned 32 p.gainPpm)
  else if off = 0x6050 then (s, pwrAlarm p)
  else if off = 0x6058 then rc1 s 32 p.brakeCnt (modPower · (fun p => { p with brakeCnt := 0 }))
  else if off = 0x6060 then rc1 s 32 p.caplimCnt (modPower · (fun p => { p with caplimCnt := 0 }))
  else if off = 0x6068 then rc1 s 32 p.disagreeCnt (modPower · (fun p => { p with disagreeCnt := 0 }))
  else if off = 0x6070 then rc1 s 32 p.throttleCnt (modPower · (fun p => { p with throttleCnt := 0 }))
  else if 0x6100 ≤ off ∧ off < 0x6200 then (s, tempField (dieTemp p ((off - 0x6100) / 8)))
  else if 0x6200 ≤ off ∧ off < 0x62C0 then
    let k := (off - 0x6200) / 8
    (s, b2n (stackOf s k).refreshDoubled * 65536 + tempField (stackTemp p k))
  else (s, 0)

/-! ### Health registers (Tables 18-11, 18-12) -/

def modHealth (s : State) (g : Health → Health) : State := { s with health := g s.health }

/-- Retired 64 KiB blocks of all stacks, as addresses. -/
def retiredBlocks (s : State) : List Nat := (List.range 24).flatMap (fun k => (stackOf s k).retired.map (fun b => b * 65536))
def failedClusters (s : State) : Nat := (s.clusters.filter (fun e => e.2.failed)).length

/-- Whether no cluster and no die has failed, so that images can run (R32, R427). -/
def unitsWhole (s : State) : Bool := decide (failedClusters s = 0) && decide (mget 0 s.health.dieState 0 ≠ 2) && decide (mget 0 s.health.dieState 1 ≠ 2)

def healthStatus (s : State) : Nat :=
  let h := s.health
  min (failedClusters s) 255 * 2 ^ 48 + (retiredBlocks s).length % 65536 * 2 ^ 32 + h.coresDie1 * 2 ^ 28 + h.coresDie0 * 2 ^ 24
    + h.lastCause * 2 ^ 20 + h.verdict * 2 ^ 16 + mget 0 h.dieState 1 * 64 + mget 0 h.dieState 0 * 16
    + b2n h.hold.isSome * 8 + b2n h.sampling * 4 + b2n h.recovering * 2

def healthReg (s : State) (off : Nat) : State × Nat :=
  let h := s.health
  let k := (off - 0x7008) / 8
  if off = 0x7000 then (s, healthStatus s)
  else if off < 0x7038 then rc1 s 32 (mget 0 h.resets k) (modHealth · (fun h => { h with resets := mset 0 h.resets k 0 }))
  else if off = 0x7040 then rc1 s 32 h.escalations (modHealth · (fun h => { h with escalations := 0 }))
  else if off = 0x7048 then rc1 s 32 h.hangs (modHealth · (fun h => { h with hangs := 0 }))
  else if off = 0x7050 then rc1 s 32 h.rstGlitch (modHealth · (fun h => { h with rstGlitch := 0 }))
  else if off = 0x7058 then rc1 s 32 h.coreRestarts (modHealth · (fun h => { h with coreRestarts := 0 }))
  else if 0x7100 ≤ off ∧ off < 0x7148 then
    let p := (off - 0x7100) / 8
    rc1 s 32 (mget 0 h.guardFaults p) (modHealth · (fun h => { h with guardFaults := mset 0 h.guardFaults p 0 }))
  else (s, 0)

/-! ### Counter and trace registers (Tables 19-7 to 19-9) -/

def modObs (s : State) (g : Observe → Observe) : State := { s with obs := g s.obs }

def gateStatus (g : Group) : Nat := g.grantsLeft % 2 ^ 32 * 65536 + g.waiting.length % 256 * 256 + b2n g.gateEnabled

def traceReg (s : State) (off : Nat) : State × Nat :=
  let o := s.obs
  let k := (off - 0x9100) / 8
  if off = 0x9000 then (s, o.cellFrames % 2 ^ 64)
  else if off = 0x9008 then (s, o.arrayCycles % 2 ^ 64)
  else if off = 0x9010 then (s, o.macs % 2 ^ 64)
  else if off = 0x9018 then (s, o.stackBytes % 2 ^ 64)
  else if off = 0x9020 then (s, o.glonyBytes % 2 ^ 64)
  else if off = 0x9028 then (s, o.hostShown % 2 ^ 64)
  else if off = 0x9030 then (s, o.runFrames % 2 ^ 64)
  else if 0x9100 ≤ off ∧ off < 0x9150 then rc1 s 32 (mget 0 o.errSum k) (modObs · (fun o => { o with errSum := mset 0 o.errSum k 0 }))
  else if off = 0x9200 then (s, o.traceLog2 * 2 ^ 32 + b2n o.sameRowOn * 2 + b2n o.traceOn)
  else if off = 0x9208 then (s, o.traceHead)
  else if off = 0x9210 then (s, o.traceTail)
  else if off = 0x9218 then rc1 s 32 o.traceLost (modObs · (fun o => { o with traceLost := 0 }))
  else if off = 0x9220 then rc1 s 32 o.traceShort (modObs · (fun o => { o with traceShort := 0 }))
  else if off = 0x9228 then (s, gateStatus s.grp)
  else (s, 0)

/-! ### One read of eight aligned bytes of BAR0 (R327) -/

/-- The blocks that only the physical function has (Table 14-4). -/
def pfReg (s : State) (off : Nat) : State × Nat :=
  if off < 0x3000 then (s, fieldAt (winBytes (windowAt s ((off - 0x2000) / 32))) (off % 32) 8)
  else if off < 0x4000 then frameReg s off
  else if off < 0x5000 then memReg s off
  else if off < 0x6000 then glonyReg s off
  else if off < 0x7000 then powerReg s off
  else if off < 0x8000 then healthReg s off
  else if off < 0x9000 then (s, 0)
  else if off < 0xA000 then traceReg s off
  else if off < 0xA400 then
    let e := exposureAt s ((off - 0xA000) / 16)
    (s, if off % 16 = 0 then e.word0.toNat else e.word1.toNat)
  else (s, 0)

/-- A read of the register at an aligned offset of a function's BAR0: its value and the state after it. The doorbells
read zero (write only), absent and reserved blocks read zero (DEDUCED, log entry 67). -/
def regRead (s : State) (fn off : Nat) : State × Nat :=
  if off % 8 ≠ 0 then (s, 0)
  else if off < 0x1000 then fnReg s fn off
  else if off < 0x2000 then (s, fieldAt capList (off - 0x1000) 8)
  else if fn = 0 then pfReg s off
  else (s, 0)

/-! ### Management registers (Table 20-8) -/

def powerStateCode : PowerState → Nat
  | .off => 0 | .rising => 1 | .on => 2 | .falling => 3 | .latched => 4

/-- HX_MC_STATE. -/
def mcState (m : Mgmt) : Nat :=
  powerStateCode m.powerState * 16 + b2n (decide (m.railsUp = 10)) * 8 + b2n m.inReset * 4 + b2n m.mainInRange * 2 + b2n m.auxOk

/-- HX_MC_TEMP: 0x8000 in both halves while the dies are off or in reset. -/
def mcTemp (m : Mgmt) : Nat :=
  match m.temp with | some (d, k) => tempField d * 65536 + tempField k | none => 0x8000 * 65536 + 0x8000

/-- The register at an index of the management interface. -/
def mcReg (s : State) (i : Nat) : State × Nat :=
  let m := s.mgmt
  if i = 0x00 then (s, 0x2416 * 65536 + 0xA1 * 256 + Config.mcVersion.toNat)
  else if i = 0x04 then (s, Config.serialNumber.toNat % 2 ^ 32)
  else if i = 0x08 then (s, Config.serialNumber.toNat / 2 ^ 32)
  else if i = 0x0C then (s, mcState m)
  else if i = 0x10 then (s, m.alert.toNat)
  else if i = 0x14 then (s, m.faultRail)
  else if i = 0x18 then (s, s.power.inputCentiV % 65536 * 65536 + s.power.inputW % 65536)
  else if i = 0x1C then (s, m.auxCentiV % 65536 * 65536 + m.auxDeciW % 65536)
  else if i = 0x20 then (s, mcTemp m)
  else if i = 0x24 then (s, tempField m.coolantOut * 65536 + tempField m.coolantIn)
  else if i = 0x2C then (s, m.mbox)
  else if i = 0x30 then rc1 s 32 m.busErr (fun s => { s with mgmt := { s.mgmt with busErr := 0 } })
  else (s, 0)

end Sys2Proof.Machine
end

