-- ==== Sys2Proof/Machine/RegWrites.lean ====
section
/-! DEFINITION. Machine/RegWrites.lean: the host's register accesses (R5, R319, R327 to R331, R334, R343, R409): doorbells,
ring registers, the host window table, the exposure table, alarms, and reads. -/

namespace Sys2Proof.Machine

open Sys2Proof

/-- Counts an ignored ring, doorbell, window or exposure write of a function (R329, R331, R334, R343). -/
def dbFault (s : State) (fn : Nat) : State := modFn s fn (fun f => { f with dbFault := f.dbFault + 1 })

/-! ### Doorbells (R334) -/

/-- A submission tail of a queue; ignored and counted where the queue is not the function's own, is not enabled, or the
value is not an entry of the ring. -/
def setTail (s : State) (fn q tail : Nat) : State :=
  match ownQueue s fn q with
  | some x => if x.enabled && decide (tail < 2 ^ x.sqLog2) then setQueue s q (some { x with sqTail := tail }) else dbFault s fn
  | none => dbFault s fn

/-- A completion head; it may not pass the device's completion tail. -/
def setCqHead (s : State) (fn q head : Nat) : State :=
  match ownQueue s fn q with
  | some x =>
    let n := 2 ^ x.cqLog2
    if x.enabled && decide (head < n) && decide ((head + n - x.cqHead) % n ≤ (x.cqTail + n - x.cqHead) % n) then
      setQueue s q (some { x with cqHead := head })
    else dbFault s fn
  | none => dbFault s fn

/-- The 12 bits a doorbell takes. -/
def bell (v : Nat) : Nat := v % 4096

/-- HX_DBELL (R319, R334): `posted` is what the host has written to its memory and made visible before it rings (DESIGN CHOICE, log entry 28). -/
def execHxDbell (fn q tail : Nat) (posted : List (Nat × Byte)) (s : State) : Host.Outcome State Fault Refusal :=
  if 9 ≤ fn || decide (256 ≤ q) then .refused (.noSuchUnit "function or queue")
  else
    let s1 := { s with host := { s.host with mem := posted.foldl (fun m e => writeBytes m e.1 [e.2]) s.host.mem } }
    .next (setTail s1 fn q (bell tail))

/-- HX_CQDB (R334). -/
def execHxCqdb (fn q head : Nat) (s : State) : Host.Outcome State Fault Refusal :=
  if 9 ≤ fn || decide (256 ≤ q) then .refused (.noSuchUnit "function or queue") else .next (setCqHead s fn q (bell head))

def setEvqHead (s : State) (fn head : Nat) : State := modFn s fn (fun f => { f with evqHead := head })

/-- HX_EVQ_HEAD (Table 14-5, R342): the new event-ring head. -/
def execHxEvqHead (fn head : Nat) (s : State) : Host.Outcome State Fault Refusal :=
  if 9 ≤ fn then .refused (.noSuchUnit "function") else .next (setEvqHead s fn (bell head))

/-! ### Ring registers (R329) -/

/-- A size that a ring may have. -/
def ringLog (n : Nat) : Bool := decide (4 ≤ n ∧ n ≤ 12)

/-- A new queue (R339, R352): empty rings, alive value 0, first pass. -/
def newQueue (ring owner sqBase cqBase sqLog2 cqLog2 vector : Nat) : Queue :=
  { owner := owner, ring := ring, sqBase := sqBase, cqBase := cqBase, sqLog2 := sqLog2, cqLog2 := cqLog2, vector := vector, enabled := true
    fetching := true, sqHead := 0, sqTail := 0, cqHead := 0, cqTail := 0, phase := true, alive := 0, inFlight := [] }

/-- Gives a queue number a new ring (DESIGN CHOICE, log entry 31). -/
def openQueue (s : State) (q owner sqBase cqBase sqLog2 cqLog2 vector : Nat) : State :=
  let s1 := setQueue s q (some (newQueue s.host.nextRing owner sqBase cqBase sqLog2 cqLog2 vector))
  { s1 with host := { s1.host with nextRing := s1.host.nextRing + 1 } }

/-- Clearing enable stops fetching; the ring leaves use once its last reply has been written. -/
def stopQueue (x : Queue) : Queue := { x with fetching := false, enabled := !x.inFlight.isEmpty }

/-- Whether the admin ring of a function is in use. -/
def aqEnabled (s : State) (fn : Nat) : Bool := match ownQueue s fn fn with | some q => q.enabled | none => false

/-- Starts the admin ring of a function from its registers, or counts why it does not start. -/
def startAq (s : State) (fn : Nat) : State :=
  let f := fnOf s fn
  if ringLog f.aqSqLog2 && ringLog f.aqCqLog2 && f.aqSqBase != 0 && f.aqCqBase != 0 then
    openQueue s fn fn f.aqSqBase.toNat f.aqCqBase.toNat f.aqSqLog2 f.aqCqLog2 f.aqVector
  else dbFault s fn

/-- A write of HX_AQ_CFG. Size and vector fields that differ while the ring is in use are ignored and counted. -/
def writeAqCfg (s : State) (fn : Nat) (vector cqLog2 sqLog2 : Nat) (enable : Bool) : State :=
  let f := fnOf s fn
  if aqEnabled s fn then
    let s1 := if vector ≠ f.aqVector ∨ cqLog2 ≠ f.aqCqLog2 ∨ sqLog2 ≠ f.aqSqLog2 then dbFault s fn else s
    let s2 := modFn s1 fn (fun f => { f with aqEnable := enable })
    modQueue s2 fn (fun q => if enable then { q with fetching := true } else stopQueue q)
  else
    let s1 := setFn s fn { f with aqVector := vector, aqCqLog2 := cqLog2, aqSqLog2 := sqLog2, aqEnable := enable }
    if enable then startAq s1 fn else s1

/-- Starts the event ring of a function: empty, first pass. -/
def startEvq (s : State) (fn : Nat) : State :=
  let f := fnOf s fn
  if ringLog f.evqLog2 && f.evqBase != 0 then
    setFn s fn { f with evqEnabled := true, evqHead := 0, evqTail := 0, evqPhase := true }
  else dbFault s fn

/-- A write of HX_EVQ_CFG; sq_log2 is unused. -/
def writeEvqCfg (s : State) (fn : Nat) (vector log2 : Nat) (enable : Bool) : State :=
  let f := fnOf s fn
  if f.evqEnabled then
    let s1 := if vector ≠ f.evqVector ∨ log2 ≠ f.evqLog2 then dbFault s fn else s
    modFn s1 fn (fun f => { f with evqEnable := enable, evqEnabled := enable })
  else
    let s1 := setFn s fn { f with evqVector := vector, evqLog2 := log2, evqEnable := enable }
    if enable then startEvq s1 fn else s1

/-- RING_ENABLE: a write that sets enable in HX_AQ_CFG or HX_EVQ_CFG, with its size and vector fields. -/
def execRingEnable (fn : Nat) (event : Bool) (vector cqLog2 sqLog2 : Nat) (s : State) : Host.Outcome State Fault Refusal :=
  if 9 ≤ fn || decide (256 ≤ vector) || decide (16 ≤ cqLog2) || decide (16 ≤ sqLog2) then .refused (.noSuchUnit "function or field")
  else if event then .next (writeEvqCfg s fn vector cqLog2 true) else .next (writeAqCfg s fn vector cqLog2 sqLog2 true)

/-- RING_DISABLE: a write that clears enable and leaves the other fields as they stand. -/
def execRingDisable (fn : Nat) (event : Bool) (s : State) : Host.Outcome State Fault Refusal :=
  if 9 ≤ fn then .refused (.noSuchUnit "function")
  else
    let f := fnOf s fn
    if event then .next (writeEvqCfg s fn f.evqVector f.evqLog2 false)
    else .next (writeAqCfg s fn f.aqVector f.aqCqLog2 f.aqSqLog2 false)

/-- A write of a ring base; ignored and counted while its ring is in use. -/
def writeBase (s : State) (fn : Nat) (inUse : Bool) (g : Fn → Fn) : State := if inUse then dbFault s fn else modFn s fn g

/-! ### Host window table (R330, R331) -/

/-- An entry from its 32 bytes; reserved bits are dropped (R7), and write is 0 for kind 2. -/
def winOf (b : List Byte) : HostWin :=
  let kind : Byte := BitVec.ofNat 8 (fieldAt b 0x19 1)
  let flags : Byte := BitVec.ofNat 8 (fieldAt b 0x1A 1) &&& 7
  { devBase := BitVec.ofNat 64 (fieldAt b 0 8 % 2 ^ 48), size := BitVec.ofNat 64 (fieldAt b 8 8), hostAddr := BitVec.ofNat 64 (fieldAt b 0x10 8)
    owner := BitVec.ofNat 8 (fieldAt b 0x18 1), kind := kind, flags := if kind = 2 then flags &&& 0xFB else flags }

/-- A misaligned field or a reserved value of an entry. -/
def winDefect (w : HostWin) : Bool :=
  decide (w.devBase.toNat % granule ≠ 0) || decide (w.devBase.toNat < 0x400000000000) || decide (w.size.toNat % granule ≠ 0)
    || decide (8 < w.owner.toNat) || decide (2 < w.kind.toNat)

/-- Whether two spans of addresses meet. -/
def meets (a n b m : Nat) : Bool := decide (a < b + m) && decide (b < a + n)

/-- Whether an entry overlaps another valid one. -/
def winOverlap (s : State) (i : Nat) (w : HostWin) : Bool :=
  s.host.windows.any (fun e => e.1 != i && bit e.2.flags.toNat 0 && meets e.2.devBase.toNat e.2.size.toNat w.devBase.toNat w.size.toNat)

def setWindow (s : State) (i : Nat) (w : HostWin) : State := { s with host := { s.host with windows := mset HostWin.reset s.host.windows i w } }

/-- A write of `n` bytes at an offset of an entry by the physical function (R331). -/
def writeWindow (s : State) (i o n v : Nat) : State :=
  let w := windowAt s i
  let old := winBytes w
  let new := winOf ((old.take o ++ leBytes v n ++ old.drop (o + n)).take 32)
  let flagsHit := decide (o ≤ 0x1A) && decide (0x1A < o + n)
  if bit w.flags.toNat 0 then
    let kept : HostWin := { w with flags := if flagsHit then (if w.kind = 2 then new.flags &&& 0xFB else new.flags) else w.flags }
    let s1 := setWindow s i kept
    if flagsHit && { new with flags := kept.flags } == kept then s1 else dbFault s1 0
  else if bit new.flags.toNat 0 && (winDefect new || winOverlap s i new) then
    dbFault (setWindow s i { new with flags := new.flags &&& 6 }) 0
  else setWindow s i new

/-- HOST_WINDOW_ENTRY_WRITE: only the physical function has the table; a write by another is ignored (R327). -/
def execHostWindowEntryWrite (fn index offset size value : Nat) (s : State) : Host.Outcome State Fault Refusal :=
  if 9 ≤ fn || decide (128 ≤ index) || decide (size = 0) || decide (8 < size) || decide (32 < offset + size) then .refused (.noSuchUnit "function, entry or span")
  else if fn ≠ 0 then .next s
  else .next (writeWindow s index offset size value)

/-! ### Exposure table (R343) -/

def setExposure (s : State) (i : Nat) (e : Exposure) : State := { s with host := { s.host with exposures := mset Exposure.reset s.host.exposures i e } }

/-- The valid bit of an entry. -/
def expValid (e : Exposure) : Bool := bit e.word0.toNat 63

/-- A defect of an entry: misaligned, empty, not within one stack, or a partition that does not exist as a number. -/
def expDefect (e : Exposure) : Bool :=
  decide (expBase e % granule ≠ 0) || decide (expSize e = 0) || !inStacks (expBase e) (expSize e)
    || decide (stackNo (expBase e) ≠ stackNo (expBase e + expSize e - 1)) || decide (7 < expPart e)

/-- Whether an entry overlaps another valid one. -/
def expOverlap (s : State) (i : Nat) (e : Exposure) : Bool :=
  s.host.exposures.any (fun p => p.1 != i && expValid p.2 && meets (expBase p.2) (expSize p.2) (expBase e) (expSize e))

/-- A write of one word of an entry. A valid entry takes only the clearing of its valid bit, which takes effect once the
host has given up every line the entry covers (DEDUCED, log entry 69). -/
def writeExposure (s : State) (i word : Nat) (v : BitVec 64) : State :=
  let e := exposureAt s i
  if expValid e then
    if word = 0 && !bit v.toNat 63 then endClosing (setExposure s i { e with closing := true }) else dbFault s 0
  else if word = 1 then setExposure s i { e with word1 := v &&& 0x1FFFFFFFFF }
  else
    let n : Exposure := { e with word0 := v &&& 0x8000FFFFFFFFFFFF }
    if expValid n && (expDefect n || expOverlap s i n) then dbFault (setExposure s i { n with word0 := n.word0 &&& 0x7FFFFFFFFFFFFFFF }) 0
    else setExposure s i n

/-- EXPOSURE_ENTRY_WRITE. -/
def execExposureEntryWrite (fn index word : Nat) (value : BitVec 64) (s : State) : Host.Outcome State Fault Refusal :=
  if 9 ≤ fn || decide (64 ≤ index) || decide (2 ≤ word) then .refused (.noSuchUnit "function, entry or word")
  else if fn ≠ 0 then .next s
  else .next (writeExposure s index word value)

/-! ### Reads, alarms, and the other register writes -/

/-- RC_REGISTER_READ (R5): the value of a register, which an RC register loses in the same access: 8 bytes of a function's
BAR0, or for `fn` 9 the 4 bytes of a management register over I3C (R463), which answers while 12V_AUX is present (DEDUCED, log entries 66 and 67). -/
def execRcRegisterRead (fn offset : Nat) (s : State) : Host.Outcome State Fault Refusal :=
  if 10 ≤ fn then .refused (.noSuchUnit "function")
  else if fn = 9 then
    if s.mgmt.auxOk then
      let (s1, v) := mcReg s offset
      .next { s1 with resp := { data := leBytes v 4 } }
    else .next s
  else
    let (s1, v) := regRead s fn offset
    .next { s1 with resp := { data := leBytes v 8 } }

/-- Clears the alarm bits in which a 1 is written (Table 17-10); not the stuck-line alarm of a line still asserted (R405). -/
def clearAlarm (s : State) (v : BitVec 64) : State :=
  modPower s (fun p => { p with alarmStuck := p.alarmStuck && (p.lineLow || !v[3]), alarmDisagree := p.alarmDisagree && !v[2]
                                alarmThermal := p.alarmThermal && !v[1], alarmBrake := p.alarmBrake && !v[0] })

/-- HX_PWR_ALARM: W1C, in the physical function only. -/
def execHxPwrAlarm (fn : Nat) (value : BitVec 64) (s : State) : Host.Outcome State Fault Refusal :=
  if 9 ≤ fn then .refused (.noSuchUnit "function")
  else if fn ≠ 0 then .next s
  else .next (clearAlarm s value)

/-- A write of the function registers. -/
def writeFnReg (s : State) (fn off : Nat) (v : BitVec 64) : State :=
  let n := v.toNat
  if off = 0x100 then writeBase s fn (aqEnabled s fn) (fun f => { f with aqSqBase := v &&& 0xFFFFFFFFFFFFFFC0 })
  else if off = 0x108 then writeBase s fn (aqEnabled s fn) (fun f => { f with aqCqBase := v &&& 0xFFFFFFFFFFFFFFE0 })
  else if off = 0x110 then writeAqCfg s fn (bits n 16 8) (bits n 12 4) (bits n 8 4) (bit n 0)
  else if off = 0x120 then writeBase s fn (fnOf s fn).evqEnabled (fun f => { f with evqBase := v &&& 0xFFFFFFFFFFFFFFE0 })
  else if off = 0x128 then writeEvqCfg s fn (bits n 16 8) (bits n 12 4) (bit n 0)
  else if off = 0x130 then setEvqHead s fn (bell n)
  else s

/-- A write of eight aligned bytes of BAR0: RO and RC registers and absent blocks ignore it (R5, R327) (DEDUCED, log entry 67). A write
to HX_TRACE_TAIL keeps the multiple of 32 below the value written (DESIGN CHOICE, log entry 76). -/
def regWrite (s : State) (fn off : Nat) (v : BitVec 64) : State :=
  if off % 8 ≠ 0 then s
  else if off < 0x1000 then writeFnReg s fn off v
  else if 0x8000 ≤ off ∧ off < 0x8800 then setTail s fn ((off - 0x8000) / 8) (bell v.toNat)
  else if 0x8800 ≤ off ∧ off < 0x9000 then setCqHead s fn ((off - 0x8800) / 8) (bell v.toNat)
  else if fn ≠ 0 then s
  else if 0x2000 ≤ off ∧ off < 0x3000 then writeWindow s ((off - 0x2000) / 32) (off % 32) 8 v.toNat
  else if 0xA000 ≤ off ∧ off < 0xA400 then writeExposure s ((off - 0xA000) / 16) (off % 16 / 8) v
  else if off = 0x6050 then clearAlarm s v
  else if off = 0x9210 then { s with obs := { s.obs with traceTail := bits v.toNat 5 27 * 32 } }
  else s

end Sys2Proof.Machine
end

