-- ==== Sys2Proof/Machine/Reply.lean ====
section
/-! DEFINITION. Machine/Reply.lean: how a command ends (R335, R336, R338, R340, R341, R347 to R349, R49): status replies,
rejections, acceptance for a tick or for long work, and the checks many commands share. -/

namespace Sys2Proof.Machine

open Sys2Proof

/-! ### Opcodes (chapter 15) -/

/-- The opcode of a packet command and its header; none for a step that is no command. -/
def commandOf : Instr → Option (Nat × CmdHdr)
  | .nop h => some (0x0001, h)
  | .identify h _ => some (0x0002, h)
  | .capRead h _ _ => some (0x0003, h)
  | .queueCreate h _ _ _ _ _ => some (0x0004, h)
  | .queueDelete h _ => some (0x0005, h)
  | .partCreate h _ _ _ _ _ _ => some (0x0101, h)
  | .partDestroy h _ _ => some (0x0102, h)
  | .keyInstall h _ => some (0x0103, h)
  | .attestQuote h _ _ _ _ => some (0x0104, h)
  | .fwStage h _ _ => some (0x0105, h)
  | .fwActivate h _ => some (0x0106, h)
  | .dumpKeySet h _ => some (0x0107, h)
  | .bulkLoad h _ _ _ => some (0x0202, h)
  | .bulkStore h _ _ _ => some (0x0203, h)
  | .calderaInval h _ _ => some (0x0204, h)
  | .rangeAttr h _ _ => some (0x0205, h)
  | .scrubRange h _ _ _ => some (0x0206, h)
  | .kvPagesMap h _ _ _ _ _ => some (0x0207, h)
  | .tableLoad h _ _ => some (0x0301, h)
  | .tableActivate h _ _ _ => some (0x0302, h)
  | .encodeRange h _ => some (0x0303, h)
  | .decodeCheck h _ _ _ _ _ => some (0x0304, h)
  | .ctxCreate h _ => some (0x0401, h)
  | .ctxDestroy h _ _ => some (0x0402, h)
  | .ctxPin h _ _ => some (0x0403, h)
  | .ctxEvict h _ => some (0x0404, h)
  | .ctxQuery h _ _ => some (0x0405, h)
  | .acctRead h _ _ _ => some (0x0406, h)
  | .schedLoad h _ _ _ => some (0x0501, h)
  | .schedUnload h _ _ => some (0x0502, h)
  | .stepSubmit h _ _ _ => some (0x0503, h)
  | .kernelLaunch h _ _ _ _ => some (0x0504, h)
  | .stepAbort h _ _ => some (0x0505, h)
  | .frameConfig h _ => some (0x0506, h)
  | .groupForm h _ => some (0x0601, h)
  | .groupLeave h => some (0x0602, h)
  | .linkTrain h _ _ => some (0x0603, h)
  | .linkKeyRotate h _ _ => some (0x0604, h)
  | .memberExclude h _ => some (0x0605, h)
  | .powerCapSet h _ => some (0x0701, h)
  | .powerPrioritySet h _ _ _ => some (0x0702, h)
  | .powerRead h _ => some (0x0703, h)
  | .vfTableRead h _ => some (0x0704, h)
  | .calibrate h => some (0x0705, h)
  | .cvRun h _ => some (0x0801, h)
  | .cvSave h _ _ => some (0x0802, h)
  | .cvRestore h _ _ => some (0x0803, h)
  | .resetDomain h _ _ => some (0x0901, h)
  | .healthRead h _ _ => some (0x0902, h)
  | .hangPolicySet h _ => some (0x0903, h)
  | .spareMapRead h _ => some (0x0904, h)
  | .marginRun h _ _ _ => some (0x0905, h)
  | .traceConfig h _ _ _ => some (0x0A01, h)
  | .counterRead h _ _ _ _ => some (0x0A02, h)
  | .waitgraphRead h _ _ => some (0x0A03, h)
  | .dumpRead h _ _ _ => some (0x0A04, h)
  | .stepGate h _ _ => some (0x0A05, h)
  | .cfgRead h _ => some (0x0B01, h)
  | .cfgWrite h _ _ => some (0x0B02, h)
  | .cfgCompact h _ => some (0x0B03, h)
  | _ => none

def opcodeOf (i : Instr) : Nat := match commandOf i with | some e => e.1 | none => 0

/-- Scopes of Table 15-1. -/
inductive Scope where
  | pf | p | a
  deriving DecidableEq, Repr

/-- The scope of an opcode (Tables 15-3 to 15-14); none for an opcode that is not in the tables. -/
def scopeOf (op : Nat) : Option Scope :=
  if op ∈ [0x0001, 0x0002, 0x0003, 0x0004, 0x0005, 0x0704] then some .a
  else if op ∈ [0x0101, 0x0102, 0x0105, 0x0106, 0x0506, 0x0601, 0x0602, 0x0603, 0x0604, 0x0605, 0x0701, 0x0702, 0x0703, 0x0705,
    0x0901, 0x0902, 0x0903, 0x0904, 0x0905, 0x0A01, 0x0A03, 0x0A05, 0x0B01, 0x0B02, 0x0B03] then some .pf
  else if op ∈ [0x0103, 0x0104, 0x0107, 0x0202, 0x0203, 0x0204, 0x0205, 0x0206, 0x0207, 0x0301, 0x0302, 0x0303, 0x0304, 0x0401,
    0x0402, 0x0403, 0x0404, 0x0405, 0x0406, 0x0501, 0x0502, 0x0503, 0x0504, 0x0505, 0x0801, 0x0802, 0x0803, 0x0A02, 0x0A04] then some .p
  else none

/-! ### Status replies -/

/-- The 32 bytes of a status reply (Table 14-13) (DEDUCED, log entry 29). -/
def replyBytes (h : CmdHdr) (op status result result2 detail : Nat) (phase : Bool) : List Byte :=
  let b := leBytes status 2 ++ leBytes op 2 ++ leBytes h.queue 1 ++ leBytes (b2n phase + 2 * b2n h.irq) 1 ++ leBytes h.alive 2
    ++ leBytes h.tag 4 ++ leBytes h.sqPos 2 ++ leBytes detail 2 ++ leBytes result 8 ++ leBytes result2 4
  b ++ leBytes (crc32c b) 4

/-- Removes the first command at a ring entry with an alive value from those between start and reply. -/
def dropFlight (l : List (Nat × Nat)) (h : CmdHdr) : List (Nat × Nat) := l.erase (h.sqPos, h.alive)

/-- The queue after a reply: its completion tail moves on, its phase turns at the ring's end, and a queue that has stopped
leaves use with its last reply (R329, R336). -/
def afterReply (x : Queue) (h : CmdHdr) : Queue :=
  let t := (x.cqTail + 1) % 2 ^ x.cqLog2
  let fl := dropFlight x.inFlight h
  { x with cqTail := t, phase := (if t = 0 then !x.phase else x.phase), inFlight := fl, enabled := x.enabled && (x.fetching || !fl.isEmpty) }

/-- The ring that a command came from, while it is there (DESIGN CHOICE, log entries 6 and 31). -/
def ringOf (s : State) (h : CmdHdr) : Option Queue :=
  match queueOf? s h.queue with | some x => if x.ring = h.ring then some x else none | none => none

/-- Writes a status reply and sends its interrupt (R320, R340). The reply of a command whose ring is gone is discarded (DESIGN CHOICE, log entry 31). -/
def writeReply (s : State) (h : CmdHdr) (op status result result2 detail : Nat) : State :=
  match ringOf s h with
  | none => s
  | some x =>
    let s1 := busWrite s (x.cqBase + 32 * x.cqTail) (replyBytes h op status result result2 detail x.phase)
    let s2 := setQueue s1 h.queue (some (afterReply x h))
    if h.irq then msix s2 x.owner x.vector else s2

/-- DONE, or DONE_LATE when a stretched or overrun frame lies between acceptance and completion (R49) (DEDUCED, log entry 32). -/
def doneStatus (s : State) (accepted : Nat) : Nat :=
  match s.frames.lateMark with | some t => if accepted ≤ t then stDoneLate else stDone | none => stDone

/-- A failing check: its status, detail and result; `none` where it holds. -/
abbrev Check := Option (Nat × Nat × Nat)

def noDetail : Nat := 0xFFFF

/-- The first check of a list that fails (R348). -/
def firstFail (l : List Check) : Check := l.findSome? id

/-- A check of a condition. -/
def need (ok : Bool) (status : Nat) (detail : Nat := noDetail) : Check := if ok then none else some (status, detail, 0)

/-- A check of a field of an object that the command reads from memory: 0 the image, 1 the manifest, 2 the training area;
a failure is located in the result (R340). -/
def needAt (ok : Bool) (status object off : Nat) : Check := if ok then none else some (status, noDetail, off + object * 2 ^ 32)

/-- A rejection: its reply and the queue's counter; nothing else changes (R338, R341). -/
def reject (s : State) (h : CmdHdr) (op status detail : Nat) (result : Nat := 0) : State :=
  let s1 := { s with host := { s.host with qrejRejected := madd s.host.qrejRejected h.queue 1 } }
  writeReply s1 h op status result 0 detail

/-- Ends a command with a status other than those of a rejection (DEDUCED, log entry 29). -/
def finish (s : State) (h : CmdHdr) (op : Instr) (status result result2 : Nat) : State :=
  writeReply s h (opcodeOf op) status result result2 noDetail

/-- Ends a command that succeeded. -/
def finishDone (s : State) (h : CmdHdr) (op : Instr) (accepted result result2 : Nat) : State :=
  finish s h op (doneStatus s accepted) result result2

/-! ### Shared checks (R347, R350, R362) -/

/-- The commands that a module in recovery accepts because its journal copies diverge (R362). -/
def recoveryAllows (i : Instr) : Bool :=
  match i with
  | .attestQuote h _ _ _ _ => decide (h.partition = 8)
  | .cfgCompact _ select => decide (select = 1 ∨ select = 2)
  | _ => decide (opcodeOf i / 256 = 0) || decide (opcodeOf i ∈ [0x0105, 0x0106, 0x0902, 0x0B01])

/-- Order 7 and the scope of P and A commands: who may send the command at all (R338, R347). -/
def rightsCheck (i : Instr) (h : CmdHdr) : Check :=
  need (match scopeOf (opcodeOf i) with
    | some .pf => decide (h.fn = 0)
    | _ => decide (h.fn = 0) || decide (h.partition + 1 = h.fn)) stNotPermitted

/-- A P command names a partition in its header, but for a module-level ATTEST_QUOTE (R347). -/
def partitionCheck (i : Instr) (h : CmdHdr) : Check :=
  need (decide (scopeOf (opcodeOf i) ≠ some .p) || decide (h.partition ≠ 8) || decide (opcodeOf i = 0x0104)) stParamConflict 3

/-- What order 8.4 asks of every command: the partition exists, and recovery admits the command. CFG_COMPACT select 0 has
a status of its own in recovery. -/
def stateCheck (s : State) (i : Instr) (h : CmdHdr) : Check :=
  firstFail [
    match i with
    | .cfgCompact _ 0 => need (!s.rot.divergent) stWrongState
    | _ => need (!s.rot.divergent || recoveryAllows i) stDivergent,
    need (decide (scopeOf (opcodeOf i) ≠ some .p) || decide (h.partition = 8) || (partOf s h.partition).present) stWrongState]

/-- The host window that a record's destination or a source needs (R332, R350). -/
def hostCheck (s : State) (h : CmdHdr) (addr n : Nat) (write : Bool) : Check :=
  need (isHostAddr addr && (hostTarget s h.partition addr n write).isSome) stNotPermitted

/-- Whether every byte of a span of stack addresses lies in ranges that an owner owns (DEDUCED, log entry 41). -/
def ownsSpan (s : State) (owner a n : Nat) : Bool :=
  inStacks a n && (upto (a / granule) ((a + n - 1) / granule + 1 - a / granule)).all (fun g => decide (ownerAt s (g * granule) = owner))

/-- Where a command may write its record: a writable host window, or stack memory that the header's partition owns (R350) (DEDUCED, log entry 33). -/
def dstCheck (s : State) (h : CmdHdr) (dst n : Nat) : Check :=
  if isHostAddr dst then hostCheck s h dst n true else need (decide (h.partition ≠ 8) && ownsSpan s h.partition dst n) stNotPermitted

/-- A destination that begins well and is shorter than the record (R350) (DEDUCED, log entry 33). -/
def dstRange (s : State) (h : CmdHdr) (dst n off : Nat) : Check :=
  need ((dstCheck s h dst 1).isSome || (dstCheck s h dst n).isNone) stParamRange off

/-- Writes a record at a destination that was checked (DEDUCED, log entry 33). -/
def writeDst (s : State) (h : CmdHdr) (dst : Nat) (bs : List Byte) : State :=
  if isHostAddr dst then hostWriteDev s h.partition dst bs
  else (putPiece { owner := h.partition, cluster := 0, self := none, context := 0xFFFF } dst { state := s } { off := 0, data := bs, poison := false }).state

/-- The end of a long command that writes a record and gives two results: a destination that is no longer permitted takes nothing
(R332, R350) (DEDUCED, log entry 33). -/
def deliver (s : State) (h : CmdHdr) (dst : Nat) (bs : List Byte) (result result2 : Nat) : State × Nat × Nat × Nat :=
  if (dstCheck s h dst bs.length).isSome then (s, stNotPermitted, 0, 0) else (writeDst s h dst bs, stDone, result, result2)

/-- Bytes that a command reads at a host source. -/
def readSrc (s : State) (h : CmdHdr) (src n : Nat) : State × List Byte :=
  match hostTarget s h.partition src n false with
  | some a =>
    let s1 := cacheTranslation s h.partition src n false
    ({ s1 with obs := { s1.obs with hostBytes := s1.obs.hostBytes + n } }, hostRead s a n)
  | none => (s, List.replicate n 0)

/-! ### Starting a command -/

/-- A command that has started is no longer waiting for its start (DESIGN CHOICE, log entry 6). -/
def begin (s : State) (i : Instr) : State := { s with host := { s.host with started := s.host.started.erase i } }

/-- Whether the group command gate holds a command back (R446, R447): it is a gated command, and no grant is for it. -/
def gateHolds (s : State) (i : Instr) (h : CmdHdr) : Bool :=
  let op := opcodeOf i
  s.grp.gateMember && s.grp.grantHdr != some h
    && !(decide (op / 256 = 0) || decide (op / 256 = 0x0A) || decide (op ∈ [0x0505, 0x0901, 0x0405, 0x0406, 0x0703, 0x0704, 0x0902]))

/-- Runs a command, unless the gate holds it, when nothing changes and it waits: order 7, its field checks (8.2), the header's partition, what it owns (8.3), what every command is
asked at 8.4, and its other checks in order; then its effect (DESIGN CHOICE, log entry 6). -/
def runCommand (s : State) (i : Instr) (h : CmdHdr) (inRange owned others : List Check) (effect : State → State) : Host.Outcome State Fault Refusal :=
  let s1 := begin s i
  if gateHolds s i h then .next s
  else match firstFail ([rightsCheck i h] ++ inRange ++ [partitionCheck i h] ++ owned ++ [stateCheck s i h] ++ others) with
  | some (st, d, r) => .next (reject s1 h (opcodeOf i) st d r)
  | none => .next (effect s1)

/-- An immediate command: its effect gives the state and the results (R349). -/
def immediate (i : Instr) (h : CmdHdr) (f : State → State × Nat × Nat) (s : State) : State :=
  let (s1, r, r2) := f s
  finishDone s1 h i s.frames.ticks r r2

/-- A command that takes effect at a tick: it waits until `ticks` more ticks have been applied. -/
def acceptTick (i : Instr) (h : CmdHdr) (ticks : Nat) (s : State) (data : List Nat := []) : State :=
  { s with host := { s.host with ticking := s.host.ticking ++ [{ op := i, data := data, hdr := h, accepted := s.frames.ticks, atTick := s.frames.ticks + ticks }] } }

/-- A command whose work goes on after its start. -/
def acceptLong (i : Instr) (h : CmdHdr) (s : State) (image : List Byte := []) : State :=
  { s with host := { s.host with long := s.host.long ++ [{ op := i, image := image, hdr := h, accepted := s.frames.ticks, reply := none }] } }

/-- Whether some change that waits for a tick satisfies a condition. -/
def tickPending (s : State) (f : Instr → Bool) : Bool := s.host.ticking.any (fun p => f p.op)
def longPending (s : State) (f : Instr → Bool) : Bool := s.host.long.any (fun p => f p.op)

/-- Sets how a long command will end. -/
def setLongReply (s : State) (f : LongCmd → Bool) (status result result2 : Nat) : State :=
  { s with host := { s.host with long := s.host.long.map (fun l => if f l && l.reply.isNone then { l with reply := some (status, result, result2) } else l) } }

end Sys2Proof.Machine
end

