-- ==== Sys2Proof/Machine/CxlPort.lean ====
section
/-! DEFINITION. Machine/CxlPort.lean: the CXL port (R316, R317, R321, R323, R325, R326): function and link resets, link
training, ATS and IDE. -/

namespace Sys2Proof.Machine

open Sys2Proof

/-! ### Function resets (Table 14-3) -/

/-- Takes a queue away; its rejection counters then read zero. -/
def removeQueue (s : State) (q : Nat) : State :=
  let s1 := setQueue s q none
  { s1 with host := { s1.host with qrejAlive := mset 0 s1.host.qrejAlive q 0, qrejRejected := mset 0 s1.host.qrejRejected q 0 } }

/-- The queues of a function. -/
def queuesOf (s : State) (fn : Nat) : List Nat :=
  (s.host.queues.filter (fun e => match e.2 with | some x => x.owner == fn | none => false)).map (·.1)

/-- FLR of one function: its rings are gone, so that replies to its commands are discarded, and its registers read their
reset values. -/
def flrOne (s : State) (fn : Nat) : State := setFn ((queuesOf s fn).foldl removeQueue s) fn Fn.reset

/-- Back-invalidates every line an exposure entry covers and ends the entry (R323). -/
def closeExposure (s : State) (i : Nat) : State :=
  let e := exposureAt s i
  let s1 := setExposure s i { e with closing := true }
  let s2 := (s.host.snoop.filter (fun l => expCovers e (128 * l))).foldl snoopLeave s1
  endClosing s2

/-- FLR of the physical function: as for every function; the window and exposure tables are cleared. -/
def flrAll (s : State) : State :=
  let s1 := (List.range 9).foldl flrOne s
  let s2 := (s1.host.exposures.map (·.1)).foldl closeExposure s1
  { s2 with host := { s2.host with windows := [], winNow := [], exposures := [] } }

/-- FLR (R326). -/
def execFlr (fn : Nat) (s : State) : Host.Outcome State Fault Refusal :=
  if 9 ≤ fn then .refused (.noSuchUnit "function") else if fn = 0 then .next (flrAll s) else .next (flrOne s fn)

/-- HOT_RESET, or the link going down: as FLR of the physical function; ATS translations are discarded and far-tier reads
end under R184. -/
def execHotReset (s : State) : Host.Outcome State Fault Refusal :=
  let s1 := flrAll s
  let s2 := { s1 with host := { s1.host with ats := [], linkUp := false } }
  .next ((s2.clusters.map (·.1)).foldl (fun s n => farTimeoutAll s (.gather n)) s2)

/-- CXL_LINK_TRAINING (R317): the width, rate and flit mode in which the port comes up. -/
def execCxlLinkTraining (width rate : Nat) (flit256 : Bool) (s : State) : Host.Outcome State Fault Refusal :=
  if !(width == 1 || width == 2 || width == 4 || width == 8) || !(rate == 16 || rate == 32 || rate == 64) || (rate == 64 && !flit256) then
    .refused (.noSuchUnit "width, rate or flit mode")
  else
    let s1 := { s with host := { s.host with linkWidth := width, linkRate := rate, flit256 := flit256, linkUp := true } }
    .next (if width < 8 || rate < 64 then raiseEvent s1 0 0x8005 8 0xFFFF (leBytes width 1 ++ leBytes rate 1) else s1)

/-- ATS_INVALIDATION (R321): the translations of a span are used no more (DEDUCED, log entry 69). -/
def execAtsInvalidation (base size : Nat) (s : State) : Host.Outcome State Fault Refusal :=
  .next { s with host := { s.host with ats := s.host.ats.filter (fun e => !meets (4096 * e.1) 4096 base size) } }

/-! ### IDE (R325) -/

/-- IDE_FAIL: the event is raised and the protocol stops. -/
def execIdeFail (p : HostProtocol) (s : State) : Host.Outcome State Fault Refusal :=
  match p with
  | .cxlIo =>
    let s1 := raiseEvent s 0 0x8006 8 0xFFFF [0]
    .next { s1 with host := { s1.host with ideIo := false, ideIoFailed := true } }
  | .cxlCachemem =>
    let s1 := raiseEvent s 0 0x8006 8 0xFFFF [1]
    .next { s1 with host := { s1.host with ideMem := false, ideMemFailed := true } }

/-- IDE_KM: keys are programmed inside an SPDM secured session, and IDE is in force on the protocol; outside a session
nothing changes. -/
def execIdeKm (p : HostProtocol) (s : State) : Host.Outcome State Fault Refusal :=
  if !s.rot.spdm.session then .next s
  else match p with
  | .cxlIo => .next { s with host := { s.host with ideIo := true, ideIoFailed := false } }
  | .cxlCachemem => .next { s with host := { s.host with ideMem := true, ideMemFailed := false } }

/-- DOE_DISCOVERY (Table 14-1): the vendor, the protocol at an index, and the next index: 0 discovery, 1 CMA/SPDM,
2 secured CMA/SPDM; an index past them is answered with vendor 0xFFFF (PRESUMED, log entry 27). -/
def execDoeDiscovery (index : Nat) (s : State) : Host.Outcome State Fault Refusal :=
  if 3 ≤ index then .next { s with resp := { data := leBytes 0xFFFF 2 ++ leBytes 0 2 } }
  else .next { s with resp := { data := leBytes 1 2 ++ leBytes index 1 ++ leBytes ((index + 1) % 3) 1 } }

end Sys2Proof.Machine
end

