-- ==== Sys2Proof/Machine/CmdAdmin.lean ====
section
/-! DEFINITION. Machine/CmdAdmin.lean: the admin commands (R352). -/

namespace Sys2Proof.Machine

open Sys2Proof

/-- NOP. -/
def execNop (h : CmdHdr) (s : State) : Host.Outcome State Fault Refusal :=
  runCommand s (.nop h) h [] [] [] (immediate (.nop h) h (fun s => (s, 0, 0)))

/-- The identity record (R352). -/
def identityRecord (s : State) : List Byte :=
  let print := (List.range 48).map Config.identityByte
  leBytes Config.serialNumber.toNat 8 ++ leBytes 0x2416 2 ++ leBytes 0xA1 1 ++ leBytes s.rot.bootSlot 1 ++ leBytes s.rot.fwVersion 4
    ++ print ++ print.take 16 ++ leBytes 0 48

/-- IDENTIFY. -/
def execIdentify (h : CmdHdr) (dst : Nat) (s : State) : Host.Outcome State Fault Refusal :=
  runCommand s (.identify h dst) h [dstRange s h dst 128 0x20] [dstCheck s h dst 128] []
    (immediate (.identify h dst) h (fun s => (writeDst s h dst (identityRecord s), 128, 0)))

/-- CAP_READ. -/
def execCapRead (h : CmdHdr) (id dst : Nat) (s : State) : Host.Outcome State Fault Refusal :=
  let bs := capHeaderBody id
  runCommand s (.capRead h id dst) h [need (capBody id).isSome stParamRange 0x20, dstRange s h dst bs.length 0x28] [dstCheck s h dst bs.length] []
    (immediate (.capRead h id dst) h (fun s => (writeDst s h dst bs, bs.length - 8, 1)))

/-- MSI-X vectors of a function (Table 14-1). -/
def vectors (fn : Nat) : Nat := if fn = 0 then 64 else 16

/-- The queues that QUEUE_CREATE has given a function. -/
def createdQueues (s : State) (fn : Nat) : Nat :=
  (s.host.queues.filter (fun e => decide (9 ≤ e.1) && (match e.2 with | some x => x.owner == fn | none => false))).length

/-- The lowest free queue identifier of 9 to 255. -/
def freeQueue (s : State) : Option Nat := (upto 9 247).find? (fun q => (queueOf? s q).isNone)

/-- QUEUE_CREATE. -/
def execQueueCreate (h : CmdHdr) (sqBase cqBase sqLog2 cqLog2 vector : Nat) (s : State) : Host.Outcome State Fault Refusal :=
  let i : Instr := .queueCreate h sqBase cqBase sqLog2 cqLog2 vector
  runCommand s i h
    [need (decide (sqBase ≠ 0)) stParamRange 0x20, need (decide (sqBase % 64 = 0)) stParamAlign 0x20,
      need (decide (cqBase ≠ 0)) stParamRange 0x28, need (decide (cqBase % 32 = 0)) stParamAlign 0x28,
      need (ringLog sqLog2) stParamRange 0x30, need (ringLog cqLog2) stParamRange 0x31,
      need (decide (vector < vectors h.fn)) stParamRange 0x32]
    []
    [need (freeQueue s).isSome stNoSpace,
      need (decide (h.fn = 0) || decide (createdQueues s h.fn < (partOf s (h.fn - 1)).maxQueues)) stNoSpace]
    (immediate i h (fun s =>
      match freeQueue s with
      | some q =>
        let s1 := openQueue s q h.fn sqBase cqBase sqLog2 cqLog2 vector
        ({ s1 with host := { s1.host with qrejAlive := mset 0 s1.host.qrejAlive q 0, qrejRejected := mset 0 s1.host.qrejRejected q 0 } }, q, 0)
      | none => (s, 0, 0)))

/-- Whether an operation deletes a queue. -/
def deletes (q : Nat) : Instr → Bool
  | .queueDelete _ k => k == q
  | _ => false

/-- QUEUE_DELETE: fetching stops; the queue goes once the replies of its commands have been written. -/
def execQueueDelete (h : CmdHdr) (queue : Nat) (s : State) : Host.Outcome State Fault Refusal :=
  let i : Instr := .queueDelete h queue
  runCommand s i h []
    [need (match queueOf? s queue with | some x => x.owner == h.fn | none => true) stNotPermitted]
    [need (queueOf? s queue).isSome stWrongState, need (!longPending s (deletes queue)) stBusy,
      need (decide (9 ≤ queue) && decide (queue ≠ h.queue)) stParamConflict 0x20]
    (fun s => acceptLong i h (modQueue s queue (fun x => { x with fetching := false })))

/-- The end of QUEUE_DELETE: none while commands of the queue are still between start and reply. -/
def endQueueDelete (s : State) (q : Nat) : Option (State × Nat × Nat × Nat) :=
  match queueOf? s q with
  | some x => if x.inFlight.isEmpty then some (removeQueue s q, 0, 0, 0) else none
  | none => some (s, 0, 0, 0)

end Sys2Proof.Machine
end

