-- ==== Sys2Proof/Machine/CmdMemory.lean ====
section
/-! DEFINITION. Machine/CmdMemory.lean: the memory commands (R354) with class B traffic (R25, R212), range entries (R215,
R216), SCRUB_RANGE (R206) and the KV page table's frames (R272, R471). Work that goes on after a command's start is done
when the command ends. -/

namespace Sys2Proof.Machine

open Sys2Proof

/-! ### Objects that a command reads from memory (R350) -/

/-- Reads an object in a host window or in stack memory for an owner: its bytes, and whether some of it was poisoned. -/
def readObj (s : State) (owner addr n : Nat) : State × List Byte × Bool :=
  let x : Actor := { owner := owner, cluster := 0, self := none, context := 0xFFFF }
  (cuts 128 (n / 128 + 2) addr 0 n).foldl (fun (a : State × List Byte × Bool) c =>
    let (s1, bs, p, _) := readAt a.1 x (addr + c.1) c.2
    (s1, a.2.1 ++ bs, a.2.2 || p)) (s, [], false)

/-- Whether an owner may read an object: it lies in a readable host window, or in stack memory of the owner. -/
def objReadable (s : State) (owner addr n : Nat) : Bool :=
  if isHostAddr addr then (hostTarget s owner addr n false).isSome else ownsSpan s owner addr n

/-- The bytes of a readable object as they stand, and whether some are poisoned. -/
def peekObj (s : State) (owner addr n : Nat) : List Byte := if objReadable s owner addr n then (readObj s owner addr n).2.1 else []
def peekPoison (s : State) (owner addr n : Nat) : Bool := objReadable s owner addr n && (readObj s owner addr n).2.2

/-- A source object is readable for the header's partition. -/
def sourceCheck (s : State) (h : CmdHdr) (addr n : Nat) : Check := need (objReadable s h.partition addr n) stNotPermitted

/-! ### BULK_LOAD and BULK_STORE -/

/-- The span of stack bytes that a long command works on. -/
def workSpan : Instr → Option (Nat × Nat)
  | .bulkLoad _ _ dst bytes => some (dst, bytes)
  | .bulkStore _ src _ bytes => some (src, bytes)
  | .scrubRange _ base size _ => some (base, size)
  | _ => none

def worksOver (a n : Nat) (i : Instr) : Bool := match workSpan i with | some (b, m) => meets a n b m | none => false

def bulkMax : Nat := 64 * 2 ^ 30

def bulkFields (first second bytes : Nat) (firstStack : Bool) : List Check :=
  let stack (a off : Nat) : Check := need (inStacks a 1) stParamRange off
  [if firstStack then stack first 0x20 else none, need (decide (first % 128 = 0)) stParamAlign 0x20,
    if firstStack then none else stack second 0x28, need (decide (second % 128 = 0)) stParamAlign 0x28,
    need (decide (128 ≤ bytes) && decide (bytes ≤ bulkMax)) stParamRange 0x30, need (decide (bytes % 128 = 0)) stParamAlign 0x30]

/-- BULK_LOAD: host data goes to the memory agents as class B writes. -/
def execBulkLoad (h : CmdHdr) (src dst bytes : Nat) (s : State) : Host.Outcome State Fault Refusal :=
  let i : Instr := .bulkLoad h src dst bytes
  runCommand s i h (bulkFields src dst bytes false)
    [hostCheck s h src bytes false, need (ownsSpan s h.partition dst bytes) stNotPermitted]
    [need (!longPending s (worksOver dst bytes)) stBusy] (acceptLong i h)

/-- Whether a line lies in a landing range. -/
def landing (s : State) (line : Nat) : Bool := match rangeAt s (128 * line) with | some r => r.landing | none => false

/-- Writes `n` bytes of host data from a line on, line by line, and invalidates the landing lines that were written; gives
the lines that were discarded. -/
def loadLines (s : State) (dst n : Nat) (data : List Byte) : State × Nat :=
  let first := dst / 128
  let lost := ((upto first (n / 128)).filter (lineGone s)).length
  let s1 := (upto first (n / 128)).foldl (fun s l => classBHost s (128 * l) (bytesAt data (128 * (l - first)) 128)) s
  ((calInvalidate s1 (fun l => lineIn dst n l && landing s1 l.line) false).1, lost)

/-- A granule that a load has covered whole, without a discarded line, is poisoned no more; a DEGRADED context that has
none left returns to RESIDENT at the next tick (R258, R280). -/
def healGranules (s : State) (part dst n : Nat) : State :=
  let whole (g : Nat) : Bool := decide (dst ≤ g * granule) && decide ((g + 1) * granule ≤ dst + n)
    && (upto (g * 16384) 16384).all (fun l => !lineGone s l)
  (allCtxs s).foldl (fun s e =>
    let x := e.2
    if x.partition = part && x.degradedGranules.any whole then
      setCtx s e.1 { x with degradedGranules := x.degradedGranules.filter (fun g => !whole g) }
    else s) s

/-- The end of a load after `n` of its bytes have come. -/
def loadEnd (s : State) (h : CmdHdr) (src dst n : Nat) : State × Nat :=
  let (s1, data) := readSrc s h src n
  let (s2, lost) := loadLines s1 dst n data
  (healGranules s2 h.partition dst n, lost)

/-- The end of BULK_LOAD: a load that discarded any line completes with UNCORRECTABLE; a source that is no longer permitted, or whose
translation fails, ends it with NOT_PERMITTED (R321, R332). -/
def endBulkLoad (s : State) (h : CmdHdr) (src dst bytes : Nat) : State × Nat × Nat × Nat :=
  if (hostTarget s h.partition src bytes false).isNone then (s, stNotPermitted, 0, 0)
  else
    let (s1, lost) := loadEnd s h src dst bytes
    (s1, if lost = 0 then stDone else stUncorrectable, bytes - 128 * lost, lost)

/-- HOST_READ_UNANSWERED: the load of a queue's ring entry ends with INTERNAL_TIMEOUT after the bytes that had come. -/
def execHostReadUnanswered (q sqPos bytesDone : Nat) (s : State) : Host.Outcome State Fault Refusal :=
  match s.host.long.find? (fun l => l.hdr.queue == q && l.hdr.sqPos == sqPos && (match l.op with | .bulkLoad _ _ _ _ => true | _ => false)) with
  | some l =>
    match l.op with
    | .bulkLoad h src dst bytes =>
      let n := if (hostTarget s h.partition src bytes false).isNone then 0 else min bytesDone bytes / 128 * 128
      let s0 := { s with host := { s.host with long := s.host.long.erase l } }
      let (s1, lost) := loadEnd s0 h src dst n
      .next (finish s1 h l.op stTimeout (n - 128 * lost) lost)
    | _ => .next s
  | none => .next s

/-- BULK_STORE. -/
def execBulkStore (h : CmdHdr) (src dst bytes : Nat) (s : State) : Host.Outcome State Fault Refusal :=
  let i : Instr := .bulkStore h src dst bytes
  runCommand s i h (bulkFields src dst bytes true)
    [need (ownsSpan s h.partition src bytes) stNotPermitted, hostCheck s h dst bytes true]
    [need (!longPending s (worksOver src bytes)) stBusy] (acceptLong i h)

/-- The end of BULK_STORE: dirty lines of the source are written back first; poisoned lines go out as zeros. -/
def endBulkStore (s : State) (h : CmdHdr) (src dst bytes : Nat) : State × Nat × Nat × Nat :=
  if (hostTarget s h.partition dst bytes true).isNone then (s, stNotPermitted, 0, 0)
  else
    let s0 := calClean s (lineIn src bytes) false
    let (s1, bad) := (upto (src / 128) (bytes / 128)).foldl (fun (a : State × Nat) l =>
      let (s1, d) := classBRead a.1 l
      (writeDst s1 h (dst + 128 * l - src) (if d.poison then zeroLine else d.data), a.2 + b2n d.poison)) (s0, 0)
    (s1, if bad = 0 then stDone else stUncorrectable, bytes, bad)

/-! ### CALDERA_INVAL -/

def rangeFields (base size : Nat) : List Check :=
  [need (inStacks base 1) stParamRange 0x20, need (decide (base % granule = 0)) stParamAlign 0x20,
    need (decide (0 < size) && inStacks base size) stParamRange 0x28, need (decide (size % granule = 0)) stParamAlign 0x28]

/-- CALDERA_INVAL. -/
def execCalderaInval (h : CmdHdr) (base size : Nat) (s : State) : Host.Outcome State Fault Refusal :=
  let i : Instr := .calderaInval h base size
  runCommand s i h (rangeFields base size) [need (ownsSpan s h.partition base size) stNotPermitted] [] (acceptLong i h)

/-- Its end: the range's lines are written back and invalidated. -/
def endCalderaInval (s : State) (base size : Nat) : State × Nat × Nat × Nat :=
  let (s1, n) := calInvalidate s (lineIn base size) true
  (s1, stDone, n, 0)

/-! ### RANGE_ATTR (R216) -/

/-- Whether an entry's range lies within one stack. -/
def inOneStack (base size : Nat) : Bool := inStacks base size && decide (0 < size) && decide (stackNo base = stackNo (base + size - 1))

/-- The field checks of a written entry; a removal is asked its Reserved fields only. -/
def rangeEntryFields (r : RangeEntry) : List Check :=
  [match r.reserved with | some o => need false stParamRange (0x28 + o) | none => none] ++
    (if r.owner = 0xFF then [] else
      [need (decide (r.base % granule = 0)) stParamAlign 0x28, need (decide (0 < r.size)) stParamRange 0x30,
        need (decide (r.size % granule = 0)) stParamAlign 0x30, need (inOneStack r.base r.size) stParamRange 0x28, need (decide (r.owner ≤ 8)) stParamRange 0x38])

/-- Whether the residency manager has bound an entry to a context other than EVICTED. -/
def boundEntry (s : State) (r : RangeEntry) : Bool :=
  r.owner != 0xFF && (match ctxOf s r.context with
    | some x => x.state != .evicted && x.sources.any (fun e => e.base == r.base && e.size == r.size)
    | none => false)

/-- Whether another valid entry overlaps. -/
def rangeOverlap (s : State) (index : Nat) (r : RangeEntry) : Bool :=
  s.mem.ranges.any (fun e => e.1 != index && e.2.owner != 0xFF && meets e.2.base e.2.size r.base r.size)

def changesRange (index : Nat) : Instr → Bool
  | .rangeAttr _ k _ => k == index
  | _ => false

/-- What a virtual function may change: the attributes and context of an entry that its partition owns. -/
def mayChangeRange (s : State) (h : CmdHdr) (index : Nat) (r : RangeEntry) : Bool :=
  let old := rangeOf s index
  decide (h.fn = 0) || (old.owner == h.partition && r.owner == old.owner && r.base == old.base && r.size == old.size)

/-- RANGE_ATTR. The management function may write any entry whatever the header's partition (R354) (DEDUCED, log entry 41). -/
def execRangeAttr (h : CmdHdr) (index : Nat) (entry : RangeEntry) (s : State) : Host.Outcome State Fault Refusal :=
  let i : Instr := .rangeAttr h index entry
  let gone := decide (entry.owner = 0xFF)
  runCommand s i h ([need (decide (index < 256)) stParamRange 0x20] ++ rangeEntryFields entry)
    [need (mayChangeRange s h index entry) stNotPermitted]
    [need (!boundEntry s (rangeOf s index)) stWrongState, need (!tickPending s (changesRange index)) stBusy,
      need (gone || !rangeOverlap s index entry) stParamConflict 0x28,
      need (gone || !(entry.landing && entry.plain)) stParamConflict 0x39]
    (acceptTick i h 1)

/-- The change at the tick (R213, R216): lines whose owner changes are zeroed before the new owner can use them: every line of a range
that gets another owner, the lines that a range of the same owner no longer holds, and lines of others in the new range. -/
def applyRange (s : State) (index : Nat) (r : RangeEntry) : State :=
  let old := rangeOf s index
  let left (l : CalLine) : Bool := lineIn old.base old.size l && (r.owner != old.owner || !lineIn r.base r.size l)
  let s1 := if old.owner = 0xFF then s else calZeroLines s left
  if r.owner = 0xFF then setRange s1 index noRange
  else setRange (calZeroLines s1 (fun l => lineIn r.base r.size l && l.owner != r.owner)) index { r with reserved := none }

/-! ### SCRUB_RANGE (R206) -/

/-- Whether a span meets the footprint of a context with a step queued or in flight. -/
def busyFootprint (s : State) (a n : Nat) : Bool :=
  (allCtxs s).any (fun e => (e.2.inFlight.isSome || !e.2.queue.isEmpty) && e.2.sources.any (fun r => meets r.base r.size a n))

/-- SCRUB_RANGE. -/
def execScrubRange (h : CmdHdr) (base size mode : Nat) (s : State) : Host.Outcome State Fault Refusal :=
  let i : Instr := .scrubRange h base size mode
  runCommand s i h (rangeFields base size ++ [need (decide (mode < 2)) stParamRange 0x30])
    [need (ownsSpan s h.partition base size) stNotPermitted]
    [need (decide (mode = 0) || !busyFootprint s base size) stWrongState, need (!longPending s (worksOver base size)) stBusy]
    (acceptLong i h)

/-- Writes lines of one 64 KiB block as zeros under the key of their owner, as R201 has it of one line. -/
def zeroLines (s : State) (line n : Nat) : State :=
  let a := 128 * line
  if lineGone s line then modStack s (stackNo a) (fun x => { x with discards := x.discards + n })
  else
    let m : LineMeta := { key := ownerKey s (ownerAt s a), poison := false, errs := [] }
    { s with mem := { s.mem with
        bytes := zeroBytes s.mem.bytes a (128 * n)
        lines := msplice s.mem.lines line n (if m = LineMeta.reset then [] else (upto line n).map (fun l => (l, m))) } }

/-- ZERO: the caldera's lines go without write-back, and every line is written as zeros under the owner's key, block by block. -/
def zeroRange (s : State) (base size : Nat) : State :=
  (List.range (size / 65536)).foldl (fun s k => zeroLines s (base / 128 + 512 * k) 512) (calInvalidate s (lineIn base size) false).1

/-- Corrected and uncorrectable lines counted on all stacks. -/
def lineCounts (s : State) : Nat × Nat := (List.range 24).foldl (fun a k => (a.1 + (stackOf s k).ce, a.2 + (stackOf s k).ue)) (0, 0)

/-- Its end: CHECK runs a patrol pass over the range at once. -/
def endScrubRange (s : State) (base size mode : Nat) : State × Nat × Nat × Nat :=
  if mode = 1 then (zeroRange s base size, stDone, 0, 0)
  else
    let s1 := (upto (base / 128) (size / 128)).foldl (fun s l => scrubLine s l []) s
    (s1, stDone, (lineCounts s1).1 - (lineCounts s).1, (lineCounts s1).2 - (lineCounts s).2)

/-! ### KV_PAGES_MAP (R272, R354, R471) -/

/-- The frames of a list of R180 entries. -/
def kvFrames (list : List Byte) (count : Nat) : List Nat := (List.range count).map (fun j => fieldAt list (8 * j) 8)

/-- Bytes that a frame spans: frame_lines lines, or 35 for a spill frame. -/
def frameBytes (x : Ctx) (spill : Bool) : Nat := 128 * (if spill then 35 else x.params.frameLines)

/-- Whether a frame lies within a state entry of a context. -/
def inStateEntry (x : Ctx) (a n : Nat) : Bool := x.sources.any (fun e => e.kind == 1 && decide (e.base ≤ a) && decide (a + n ≤ e.base + e.size))

/-- Whether frames of a list meet one another, or a mapped page. -/
def framesMeet (x : Ctx) (fs : List Nat) (n : Nat) : Bool :=
  (fs.zipIdx.any (fun e => (fs.drop (e.2 + 1)).any (fun b => meets e.1 n b n)))
    || x.pages.any (fun g => g.mapped && fs.any (fun a => meets a n g.frame (frameBytes x g.spill)))

/-- FREE normal frames, and the claims of accepted steps that have not run their first row (R471). -/
def freeFrames (x : Ctx) : Nat := (x.pages.filter (fun g => g.mapped && g.state == .free && !g.spill)).length
def claims (x : Ctx) : Nat := (x.queue.map (·.need)).sum + (match x.inFlight with | some t => if t.started then 0 else t.need | none => 0)

/-- The mapped page whose frame has an address. -/
def pageAt (x : Ctx) (a : Nat) (spill : Bool) : Option Page := x.pages.find? (fun g => g.mapped && g.frame == a && g.spill == spill)

def mapsPages (c : Nat) : Instr → Bool
  | .kvPagesMap _ k _ _ _ _ => k == c
  | _ => false

/-- A context that belongs to the header's partition, where it exists (8.3). -/
def ctxOwned (s : State) (h : CmdHdr) (c : Nat) : Check :=
  need (match ctxOf s c with | some x => x.partition == h.partition | none => true) stNotPermitted

/-- A context exists in one of some states (8.4). -/
def ctxIn (s : State) (c : Nat) (p : CtxState → Bool) : Check :=
  need (match ctxOf s c with | some x => p x.state | none => false) stWrongState

def ctxRange (c : Nat) : Check := need (decide (c < 32)) stParamRange 0x20

/-- KV_PAGES_MAP (DEDUCED, log entry 41). -/
def execKvPagesMap (h : CmdHdr) (context op spill count list : Nat) (s : State) : Host.Outcome State Fault Refusal :=
  let i : Instr := .kvPagesMap h context op spill count list
  let bytes := peekObj s h.partition list (8 * count)
  let fs := kvFrames bytes count
  let sp := decide (spill = 1)
  let withCtx (f : Ctx → Check) : Check := match ctxOf s context with | some x => f x | none => none
  runCommand s i h
    [ctxRange context, need (decide (op < 2)) stParamRange 0x21, need (decide (spill < 2)) stParamRange 0x22, need (decide (0 < count)) stParamRange 0x24]
    [ctxOwned s h context, sourceCheck s h list (8 * count),
      need (!peekPoison s h.partition list (8 * count)) stUncorrectable,
      need (fs.all (fun a => decide (a < 2 ^ 48))) stParamRange, need (fs.all (fun a => decide (a % 128 = 0))) stParamAlign,
      need (fs.all (fun a => ownsSpan s h.partition a 1)) stNotPermitted]
    [ctxIn s context (fun t => t == .loading || t == .resident),
      withCtx (fun x => need (decide (op = 0) || fs.all (fun a => match pageAt x a sp with | some g => g.state == .free | none => true)) stWrongState),
      need (!tickPending s (mapsPages context)) stBusy,
      withCtx (fun x => need (decide (op = 1) || (fs.all (fun a => inStateEntry x a (frameBytes x sp)) && !framesMeet x fs (frameBytes x sp))) stParamConflict),
      withCtx (fun x => need (decide (op = 0) || (fs.all (fun a => (pageAt x a sp).isSome) && fs.zipIdx.all (fun e => !(fs.drop (e.2 + 1)).contains e.1))) stParamConflict),
      withCtx (fun x => need (decide (op = 1) || decide ((x.pages.filter (·.mapped)).length + count ≤ x.params.pageEntries)) stNoSpace),
      withCtx (fun x => need (decide (op = 0) || sp || decide (claims x + count ≤ freeFrames x)) stNoSpace)]
    (fun s => acceptTick i h 1 (readObj s h.partition list (8 * count)).1 fs)

/-- A page that maps a frame as FREE. -/
def newPage (a : Nat) (spill : Bool) : Page :=
  { mapped := true, frame := a, storedLines := 0, state := .free, spill := spill, kindV := false, slot := 0xFFFF, phaseSet := 0, supersedes := none, row := 0, place := 0 }

/-- Puts a page into the first entry without a frame, or at the table's end. -/
def addPage : List Page → Page → List Page
  | [], p => [p]
  | g :: t, p => if g.mapped then g :: addPage t p else p :: t

/-- The change at the tick: all named frames or none; gives the status and the pages now mapped. A REMOVE whose frames have been taken since
it was accepted, or are needed by then, leaves the state unchanged (R471) (DESIGN CHOICE, log entry 41). -/
def applyKvPages (s : State) (context op spill : Nat) (fs : List Nat) : State × Nat × Nat :=
  match ctxOf s context with
  | none => (s, stWrongState, 0)
  | some x =>
    let sp := decide (spill = 1)
    let pages := if op = 0 then fs.foldl (fun l a => addPage l (newPage a sp)) x.pages
      else x.pages.map (fun g => if g.mapped && g.spill == sp && fs.contains g.frame then { g with mapped := false } else g)
    if op = 1 ∧ !fs.all (fun a => match pageAt x a sp with | some g => g.state == .free | none => false) then (s, stWrongState, 0)
    else if op = 1 ∧ spill = 0 ∧ freeFrames x < claims x + fs.length then (s, stNoSpace, 0)
    else (setCtx s context { x with pages := pages }, stDone, (pages.filter (·.mapped)).length)

end Sys2Proof.Machine
end

