-- ==== Sys2Proof/Machine/Steps.lean ====
section
/-! DEFINITION. Machine/Steps.lean: the life of a step (R139 to R141, R189, R261, R271, R273, R278 to R282, R471): its
first row, commit, abort, replay, and how its command ends. -/

namespace Sys2Proof.Machine

open Sys2Proof

/-! ### How a step's command ends (R49, R357) -/

/-- The result field of a step's reply. -/
def stepResult (t : Step) (skipped : Bool) : Nat :=
  t.seq.getD 0 + t.replays * 2 ^ 32 + b2n skipped * 2 ^ 48 + b2n (decide (0 < t.overflowFrames)) * 2 ^ 49

/-- The command of a step gets its reply; it is written when the command ends. The session tags, which the reply has no field for,
stand at the module's output (R269) (DESIGN CHOICE, log entry 64). -/
def endStep (s : State) (t : Step) (status : Nat) (skipped : Bool) (result2 : Nat) : State :=
  setLongReply { s with resp := { data := t.sessions.flatMap (fun r => leBytes r.tag 8) } } (fun l => l.hdr == t.hdr) status (stepResult t skipped) result2

/-- DONE, or DONE_LATE: a stretched or overrun frame, a replay, or an inserted overflow frame (R49). -/
def stepDone (s : State) (t : Step) : Nat :=
  if 0 < t.replays ∨ 0 < t.overflowFrames then stDoneLate else doneStatus s t.accepted

/-- Ends every step of a list alike, each counted as aborted. -/
def endSteps (s : State) (c : Nat) (l : List Step) (status : Nat) : State :=
  l.foldl (fun s t => account (endStep s t status false 0) c acAborted 1) s

/-! ### Gradient targets (R131, R139) -/

/-- A gradient target of section 4 (Table 6-3). -/
structure Target where
  id : Nat
  kind : Nat
  gran : Nat
  rows : Nat
  cols : Nat
  maxUnits : Nat
  format : Nat
  optimizer : Nat
  half0 : Nat
  half1 : Nat
  deriving DecidableEq, Repr

def targetAt (sec : List Byte) (i : Nat) : Target :=
  let r := (sec.drop (48 * i)).take 48
  { id := fieldAt r 0 2, kind := fieldAt r 2 1, gran := fieldAt r 3 1, rows := fieldAt r 4 4, cols := fieldAt r 8 4
    maxUnits := fieldAt r 0xC 4, format := fieldAt r 0x10 1, optimizer := fieldAt r 0x11 1, half0 := fieldAt r 0x18 8, half1 := fieldAt r 0x20 8 }

def targetsOf (img : List Byte) : List Target :=
  let sec := section_ img 4
  (List.range (sec.length / 48)).map (targetAt sec)

/-- Rows of a unit, and the unit count (R131). -/
def unitRows (t : Target) : Nat := if t.gran = 1 then 128 else 1
def unitCount (t : Target) : Nat := ceilDiv t.rows (unitRows t)

/-- A scale's block size of a block format (Table 3-1). -/
def scaleBlock (fmt : Nat) : Nat := if fmt < 10 then 32 else 16

/-- Bytes per row of each part of a half, in order: serving elements, scales, master, moments. The scales follow the
elements within the first part; every other part starts on a 4,096 B boundary. Each is given as its offset and its bytes per row: a row's
last block of scales may be short of elements (R62). -/
def halfParts (t : Target) : List (Nat × Nat) :=
  let up (n : Nat) : Nat := ceilDiv n 4096 * 4096
  let elem := t.cols * fmtBits t.format / 8
  let scale := if 6 ≤ t.format then ceilDiv t.cols (scaleBlock t.format) else 0
  let w := t.cols * 4
  let a := t.rows * elem
  let b := up (a + t.rows * scale)
  let c := b + up (t.rows * w)
  let d := c + up (t.rows * w)
  [(0, elem)] ++ (if scale = 0 then [] else [(a, scale)]) ++ [(b, w)] ++ (if 1 ≤ t.optimizer then [(c, w)] else [])
    ++ (if t.optimizer = 2 then [(d, w)] else [])

/-- The bytes of a half. -/
def halfBytesOf (t : Target) : Nat := match (halfParts t).getLast? with | some (o, w) => o + t.rows * w | none => 0

/-- The spans of a half that a committed step wrote: whole for kinds 0 and 1, the selected units for kind 2. -/
def writtenSpans (t : Target) (masks : List (Nat × List Byte)) : List (Nat × Nat) :=
  if t.kind ≠ 2 then (halfParts t).map (fun p => (p.1, t.rows * p.2))
  else
    let m := match masks.find? (fun e => e.1 == t.id) with | some e => e.2 | none => []
    let units := (List.range (unitCount t)).filter (fun u => (m.getD (u / 8) 0).toNat.testBit (u % 8))
    units.flatMap (fun u => (halfParts t).map (fun p => (p.1 + u * unitRows t * p.2, (min (unitRows t) (t.rows - u * unitRows t)) * p.2)))

/-- The copies due before the next training step: from the half that became active to the other (R139). -/
def copiesAfter (x : Ctx) (masks : List (Nat × List Byte)) : List (Nat × Nat × Nat) :=
  (targetsOf (activeImage x)).flatMap (fun t =>
    let src := if x.targetHalf then t.half1 else t.half0
    let dst := if x.targetHalf then t.half0 else t.half1
    (writtenSpans t masks).map (fun p => (src + p.1, dst + p.1, p.2)))

/-- Umango makes those copies, for the context's partition. -/
def copyHalves (s : State) (c : Nat) : State :=
  match ctxOf s c with
  | none => s
  | some x =>
    let a : Actor := { owner := x.partition, cluster := 0, self := none, context := c }
    modCtx (charge s (x.trainCopy.foldl (fun s p => (moveBytes s a p.1 p.2.1 p.2.2).state) s) c) c (fun x => { x with trainCopy := [] })

/-! ### Pages of a step (R272, R273, R471) -/

def modelOf (x : Ctx) : Nat := imgModel (activeImage x)

/-- The page rows that a session record's appends touch. -/
def touchedRows (r : SessRec) : List Nat :=
  if r.newTokens = 0 then [] else upto (r.kvTokens / 32) ((r.kvTokens + r.newTokens - 1) / 32 + 1 - r.kvTokens / 32)

/-- A step's need (R471) (DESIGN CHOICE, log entry 21). -/
def stepNeed (x : Ctx) (l : List SessRec) : Nat := (l.map (fun r => (touchedRows r).length * Config.pagesPerRow (modelOf x))).sum

/-- The page numbers of FREE normal frames. -/
def freeNormal (pages : List Page) : List Nat :=
  (pages.zipIdx.filter (fun e => e.1.mapped && e.1.state == .free && !e.1.spill)).map (·.2)

/-- The OWNED page of a slot's page row at a place. -/
def ownedAt (pages : List Page) (slot row place : Nat) : Option Nat :=
  pages.findIdx? (fun g => g.mapped && g.state == .owned && g.slot == slot && g.row == row && g.place == place)

/-- Takes a FREE normal frame for a page: which of them is not the spec's to say (log entry 18). -/
def claimPage (x : Ctx) (r : SessRec) (row place n : Nat) : Ctx :=
  let free := freeNormal x.pages
  match free[Config.pick n % free.length]? with
  | none => x
  | some i =>
    let old := if row * 32 < r.kvTokens then ownedAt x.pages r.slot row place else none
    match x.pages[i]? with
    | none => x
    | some g =>
      let g1 : Page := { g with state := .tentative, slot := r.slot, phaseSet := r.phaseSet, supersedes := old, row := row, place := place, kindV := Config.pageIsV (modelOf x) place }
      { x with pages := x.pages.set i g1 }

/-- The pages that a step's appends touch become TENTATIVE; gives the next free draw (DESIGN CHOICE, log entry 21; DEDUCED, log entry 73). -/
def claimPages (x : Ctx) (l : List SessRec) (n : Nat) : Ctx × Nat :=
  let places := l.flatMap (fun r => (touchedRows r).flatMap (fun row => (List.range (Config.pagesPerRow (modelOf x))).map (fun p => (r, row, p))))
  places.foldl (fun (a : Ctx × Nat) e => (claimPage a.1 e.1 e.2.1 e.2.2 a.2, a.2 + 1)) (x, n)

/-- A page at commit: TENTATIVE becomes OWNED, a superseded page FREE. -/
def commitPage (gone : List Nat) (e : Page × Nat) : Page :=
  if e.1.state = .tentative then { e.1 with state := .owned, supersedes := none }
  else if gone.contains e.2 && e.1.state == .owned then freePage e.1
  else e.1

/-- A page of a session that ends: FREE, or QUARANTINED and owned by nobody. -/
def releasePage (g : Page) : Page := if g.state = .quarantined then { g with slot := 0xFFFF } else freePage g

/-- Applies one session record at commit. -/
def commitSession (x : Ctx) (r : SessRec) : Ctx :=
  if r.finish then
    { x with
      pages := x.pages.map (fun g => if g.mapped && g.slot == r.slot then releasePage g else g)
      sessions := mset Session.reset x.sessions r.slot {} }
  else
    { x with
      pages := if r.handoff then x.pages.map (fun g => if g.mapped && g.slot == r.slot then { g with phaseSet := r.handoffSet } else g) else x.pages
      sessions := mmod Session.reset x.sessions r.slot (fun z => { z with occupied := true, tokens := r.kvTokens + r.newTokens }) }

/-- All the changes of one commit (R273). -/
def commitPages (x : Ctx) (l : List SessRec) : Ctx :=
  let gone := x.pages.filterMap (fun g => if g.state = .tentative then g.supersedes else none)
  l.foldl commitSession { x with pages := x.pages.zipIdx.map (commitPage gone) }

/-! ### First row and commit -/

/-- A step's first row (R471, R273, R139): its pages, and the copies of training halves; or its end with NO_SPACE. The step
at the queue head becomes the step in flight, with the rows that its bucket has in the active image (R43) (DEDUCED, log entry 73). -/
def startStep (s : State) (c : Nat) : State :=
  match ctxOf s c with
  | none => s
  | some x =>
    match x.queue with
    | [] => s
    | t :: rest =>
      let x1 := { x with queue := rest }
      if freeFrames x < t.need then account (endStep (setCtx s c x1) t stNoSpace false 0) c acAborted 1
      else
        let (x2, n) := claimPages x1 t.sessions s.freeCount
        let t1 := match findBucket (activeImage x) t.bucket with | some b => { t with firstRow := bucketFirstRow b, rowCount := bucketRowCount b } | none => t
        let s1 := setCtx { s with freeCount := n } c { x2 with inFlight := some { t1 with started := true, row := 0, latch := false, startFrame := frameNow s } }
        if t.phase = 3 then copyHalves s1 c else s1

/-- The commit of the step in flight (R139, R140, R271, R273) (DEDUCED, log entry 73). -/
def commitStep (s : State) (c : Nat) : State :=
  match ctxOf s c with
  | none => s
  | some x =>
    match x.inFlight with
    | none => s
    | some t =>
      let skipped := decide (t.phase = 3) && t.latch
      let x1 := { commitPages x t.sessions with inFlight := none }
      let x2 := if t.phase = 3 && !t.latch then { x1 with targetHalf := !x1.targetHalf } else x1
      let x3 := if t.phase = 3 && !t.latch then { x2 with trainCopy := copiesAfter x2 t.masks } else x2
      let s1 := account (endStep (setCtx s c x3) t (stepDone s t) skipped 0) c acDone 1
      if skipped then account s1 c acSkipped 1 else s1

/-! ### Abort, replay, DEGRADED -/

/-- Whether a cause leaves nothing to replay. -/
def hardCause : AbortCause → Bool
  | .poisonWeight _ => false
  | .poisonKv _ => false
  | .poisonTransient _ => false
  | _ => true

/-- A step goes back to the head of its queue to be run again from its first row (R279); its training latch starts clear, as its rows run anew
(DEDUCED, log entry 73). -/
def replayStep (s : State) (c : Nat) (x : Ctx) (t : Step) (addrs : List Nat) : State :=
  let t1 := { t with started := false, row := 0, latch := false, overflowLeft := 0, replays := t.replays + 1 }
  account (setCtx s c { x with inFlight := none, queue := t1 :: x.queue, reload := addrs }) c acReplays 1

/-- The lost slots of pages that poison struck: first and number (R281, R357). -/
def lostSlots (x : Ctx) (ps : List Nat) : Nat :=
  let slots := (ps.filterMap (fun p => (x.pages[p]?).bind (fun g => if g.slot = 0xFFFF then none else some g.slot))).eraseDups
  match slots with | [] => 0 | a :: r => r.foldl min a + 65536 * slots.length

/-- The abort of the step in flight at its tick, by the causes that have been noted (R189, R273, R278 to R281) (DEDUCED, log entry 73). -/
def abortStep (s : State) (c : Nat) (causes : List AbortCause) : State :=
  let running := (ctxOf s c).bind (·.inFlight)
  let s1 := match running with | some t => if s.residency.current = some c then abortWork s c t.id else s | none => s
  match ctxOf s1 c with
  | none => s
  | some x =>
    match x.inFlight with
    | none => setCtx s1 c { x with abortNext := [] }
    | some t =>
      let kv := causes.filterMap (fun k => match k with | .poisonKv p => some p | _ => none)
      let weights := causes.filterMap (fun k => match k with | .poisonWeight a => some a | _ => none)
      let lines := weights ++ causes.filterMap (fun k => match k with | .poisonTransient a => a | _ => none)
      let x1 := kv.foldl kvPoison (dropTentative { x with abortNext := [], reconcile := true })
      if causes.any hardCause || !kv.isEmpty then
        account (endStep (setCtx s1 c { x1 with inFlight := none }) t stAborted false (lostSlots x kv)) c acAborted 1
      else if 3 ≤ t.replays then
        setCtx s1 c (degradeCtx { x1 with inFlight := none, queue := t :: x1.queue } (lines.map granuleOf).eraseDups)
      else replayStep s1 c x1 t weights

/-- STEP_ABORT and its like: a step in flight or queued ends with STEP_ABORTED (R357). -/
def abortQueued (s : State) (c : Nat) (p : Step → Bool) : State :=
  match ctxOf s c with
  | none => s
  | some x => endSteps (setCtx s c { x with queue := x.queue.filter (fun t => !p t) }) c (x.queue.filter p) stAborted

/-- Ends the step in flight and every queued step with a status (R280, R356). -/
def endAllSteps (s : State) (c status : Nat) : State :=
  let s1 := match (ctxOf s c).bind (·.inFlight) with | some t => if s.residency.current = some c then abortWork s c t.id else s | none => s
  match ctxOf s1 c with
  | none => s
  | some x =>
    let x1 := dropTentative { x with inFlight := none, queue := [], abortNext := [], reload := [], reconcile := x.reconcile || x.inFlight.isSome }
    endSteps (setCtx s1 c x1) c (x.inFlight.toList ++ x.queue) status

/-- A RESIDENT context enters DEGRADED (R258, R280): its steps end, the counter, and the event at the VF and the PF. -/
def enterDegraded (s : State) (c : Nat) : State :=
  match ctxOf s c with
  | none => s
  | some x =>
    let s1 := endAllSteps (setCtx s c { x with state := .degraded, degradeDue := false }) c stUncorrectable
    let s2 := account s1 c acDegraded 1
    let g := match x.degradedGranules with | [] => 0 | a :: r => r.foldl min a
    let d := leBytes (stackNo (g * granule)) 2 ++ leBytes (g * granule) 6
    raiseEvent (raiseEvent s2 (x.partition + 1) 0x0501 x.partition c d) 0 0x0501 x.partition c d

/-! ### Weight reload (R279, R280) -/

/-- Reads a span of an entry back from its host source into the stacks (R266, R279): a landing range is written at the
memory agents and its caldera lines go, any other range passes the home caldera. Nothing where the host refuses. -/
def restoreSpan (s : State) (part context : Nat) (landing : Bool) (host dst n : Nat) : Option State :=
  match hostTarget s part host n false with
  | none => none
  | some a =>
    let s1 := cacheTranslation s part host n false
    let data := hostRead s1 a n
    let s2 := { s1 with obs := { s1.obs with hostBytes := s1.obs.hostBytes + n } }
    if landing then some (loadLines s2 dst n data).1
    else
      let x : Actor := { owner := part, cluster := 0, self := none, context := context }
      some (putPiece x dst { state := s2 } { off := 0, data := data, poison := false }).state

/-- Reloads the aligned 64 KiB block of a poisoned weights line, and checks every block that meets it; none where the host copy is
unavailable. -/
def reloadBlock (s : State) (c : Nat) (a : Nat) : Option State :=
  match ctxOf s c with
  | none => none
  | some x =>
    match entryOf x a with
    | none => none
    | some e =>
      let b := a / 65536 * 65536
      if e.host = 0 || lineGone s (a / 128) then none
      else
        match restoreSpan s x.partition c e.landing (e.host + (b - e.base)) b 65536 with
        | none => none
        | some s1 =>
          let act : Actor := { owner := x.partition, cluster := 0, self := none, context := c }
          match if e.plain then (s1, none) else walkBlocks act x.tables (e.size / 128) s1 e.base b (b + 65536) with
          | (s2, none) => some (charge s s2 c)
          | (_, some _) => none

/-- WEIGHT_RELOAD_COMPLETE: every block named is reloaded and checked; then the step may run again, or the context is due
to enter DEGRADED. -/
def execWeightReloadComplete (context : Nat) (s : State) : Host.Outcome State Fault Refusal :=
  match ctxOf s context with
  | none => .next s
  | some x =>
    let go := x.reload.foldl (fun (acc : State × List Nat) a =>
      match reloadBlock acc.1 context a with
      | some s1 => (s1, acc.2)
      | none => (acc.1, acc.2 ++ [granuleOf a])) (s, [])
    if go.2.isEmpty then .next (modCtx go.1 context (fun x => { x with reload := [] }))
    else .next (modCtx go.1 context (fun x => degradeCtx { x with reload := [] } go.2.eraseDups))

/-! ### Reconciling (R161, R189 steps 3 to 5) -/

/-- ABORT_RECONCILE: once the context's engines are idle, its semaphores and credits take their initial values, and the
units that were missing are counted (DEDUCED, log entry 73). -/
def execAbortReconcile (context : Nat) (s : State) : Host.Outcome State Fault Refusal :=
  match ctxOf s context with
  | none => .next s
  | some x =>
    if !x.reconcile || !workIdle s context then .next s
    else
      let img := activeImage x
      if s.residency.current = some context then
        let gap := ((List.range 4096).map (fun n => creditGap img (cellOf s n))).sum
        let s1 := mapCells s (resetSync img)
        .next (account (modCtx s1 context (fun x => { x with reconcile := false })) context acReconciled gap)
      else
        let gap := ((List.range 4096).map (fun n => creditGap img { Cell.reset with credit := (mget SavedCell.reset x.saved n).credit })).sum
        let fresh := initSync img Cell.reset
        let saved := ((List.range 4096).map (fun i =>
          (i, { mget SavedCell.reset x.saved i with sem := fresh.sem, credit := fresh.credit }))).filter (fun e => decide (e.2 ≠ SavedCell.reset))
        .next (account (setCtx s context { x with reconcile := false, saved := saved }) context acReconciled gap)

end Sys2Proof.Machine
end

