-- ==== Sys2Proof/Machine/CmdContext.lean ====
section
/-! DEFINITION. Machine/CmdContext.lean: the context commands (R256, R259, R260, R265, R283, R356). -/

namespace Sys2Proof.Machine

open Sys2Proof

/-! ### Helpers -/

/-- A check that concerns a context that exists. -/
def withCtx (s : State) (c : Nat) (f : Ctx → Check) : Check := match ctxOf s c with | some x => f x | none => none

/-- The control entry of a context, and the descriptor area that its range begins with (R260). -/
def controlEntry (x : Ctx) : Option SourceEntry := x.sources.find? (fun e => e.kind == 3)
def descBase (x : Ctx) : Nat := match controlEntry x with | some e => e.base | none => 0
def descBytes (x : Ctx) : Nat := x.params.descUnits * granule

/-- Where the image banks and the KV page table of a context begin (R260): bank A stands before bank B, and the two keep their places
when the other becomes active (DESIGN CHOICE, log entry 61). -/
def bankBase (x : Ctx) (b : Bool) : Nat := descBase x + descBytes x + b2n b * (x.params.imageUnits * granule)
def pageTableBase (x : Ctx) : Nat := descBase x + descBytes x + 2 * (x.params.imageUnits * granule)

/-- Umango as the source of an access, for a context. -/
def umango (x : Ctx) (c : Nat) : Actor := { owner := x.partition, cluster := 0, self := none, context := c }

/-- Umango writes bytes of a context's control range; nothing where the context has none. -/
def controlWrite (s : State) (c : Nat) (x : Ctx) (addr : Nat) (bs : List Byte) : State :=
  if (controlEntry x).isNone then s else (putPiece (umango x c) addr { state := s } { off := 0, data := bs, poison := false }).state

/-- The 16 bytes of a page table entry (Table 12-9); an entry without a frame is zero. -/
def pageState : PageState → Nat
  | .free => 0 | .tentative => 1 | .owned => 2 | .quarantined => 3
def pageEntry (g : Page) : List Byte :=
  if !g.mapped then List.replicate 16 0
  else leBytes (g.frame % 2 ^ 48 + g.storedLines % 256 * 2 ^ 48 + pageState g.state * 2 ^ 56 + b2n g.spill * 2 ^ 58 + b2n g.kindV * 2 ^ 59) 8
    ++ leBytes (if g.state = .free then 0xFFFF else g.slot) 2 ++ leBytes g.phaseSet 1 ++ leBytes 0 1 ++ leBytes (g.supersedes.getD 0xFFFFFFFF) 4

/-- Umango brings the page table in a context's control range up to date: it writes the entries that differ (DESIGN CHOICE, log entry 61). -/
def storePages (s : State) (c : Nat) : State :=
  match ctxOf s c with
  | none => s
  | some x => x.pages.zipIdx.foldl (fun s e =>
      let a := pageTableBase x + 16 * e.2
      if peekObj s x.partition a 16 = pageEntry e.1 then s else controlWrite s c x a (pageEntry e.1)) s

/-- Whether a context cannot be evicted: an entry of kind 0, 1 or 3 has no host address (R260). -/
def noHostSource (l : List SourceEntry) : Bool := l.any (fun e => e.kind != 2 && e.host == 0)

/-- The index of the valid range entry that coincides with a source entry. -/
def coinciding (s : State) (e : SourceEntry) : Option Nat :=
  (s.mem.ranges.find? (fun r => r.2.owner != 0xFF && r.2.base == e.base && r.2.size == e.size)).map (·.1)

/-- Binds the entries of a context into the range table: their attributes and the context's identifier (R259). -/
def bindEntries (s : State) (c : Nat) (l : List SourceEntry) : State :=
  l.foldl (fun s e =>
    match coinciding s e with
    | some i => setRange s i { rangeOf s i with hint := e.hint, landing := e.landing, plain := e.plain, prewarm := e.prewarm, context := c }
    | none => s) s

/-- Releases the range entries of a context. -/
def unbindEntries (s : State) (c : Nat) : State :=
  { s with mem := { s.mem with ranges := s.mem.ranges.map (fun r => if r.2.context = c then (r.1, { r.2 with context := 0xFFFF }) else r) } }

/-! ### CTX_CREATE -/

/-- The field checks of a source entry at a packet offset (Table 12-3). -/
def sourceFields (e : SourceEntry) (o : Nat) : List Check :=
  [need (decide (e.reserved ≠ some 0)) stParamRange o, need (inStacks e.base 1) stParamRange o, need (decide (e.base % granule = 0)) stParamAlign o,
    need (inOneStack e.base e.size) stParamRange (o + 8), need (decide (e.size % granule = 0)) stParamAlign (o + 8),
    need (decide (e.host = 0) || (isHostAddr e.host && decide (e.host < 2 ^ 48))) stParamRange (o + 0x10), need (decide (e.host % 128 = 0)) stParamAlign (o + 0x10),
    need (decide (e.kind < 4)) stParamRange (o + 0x18),
    match e.reserved with | some k => need false stParamRange (o + k) | none => none]

/-- The identifiers that CTX_CREATE commands waiting for their tick will give. -/
def pendingIds (s : State) : List Nat :=
  s.host.ticking.flatMap (fun p => match p.op with | .ctxCreate _ _ => p.data | _ => [])
def pendingSources (s : State) : List SourceEntry :=
  s.host.ticking.flatMap (fun p => match p.op with | .ctxCreate _ q => q.sources | _ => [])
def pendingOf (s : State) (part : Nat) : Nat :=
  s.host.ticking.countP (fun p => match p.op with | .ctxCreate h _ => h.partition == part | _ => false)

/-- The lowest identifier that is neither in use nor about to be. -/
def freeCtx (s : State) : Option Nat := (List.range 32).find? (fun c => (ctxOf s c).isNone && !(pendingIds s).contains c)

/-- Bytes that the control range must hold (R260). -/
def controlNeed (p : CtxCreateParams) : Nat :=
  (p.descUnits + 2 * p.imageUnits + p.dirUnits + p.saveUnits + ceilDiv (p.pageEntries * 16) granule) * granule

/-- Where a list of entries first fails a test, as the packet offset of the entry. -/
def firstEntry (l : List SourceEntry) (bad : SourceEntry × Nat → Bool) : Check :=
  match l.zipIdx.find? bad with | some e => need false stParamConflict (0x40 + 32 * e.2) | none => none

/-- Whether entry `e.2` meets an earlier one, a resident context's footprint, or one about to be bound. -/
def entryMeets (s : State) (l : List SourceEntry) (e : SourceEntry × Nat) : Bool :=
  let hit (r : SourceEntry) : Bool := meets r.base r.size e.1.base e.1.size
  (l.take e.2).any hit || (residents s).any (fun x => x.2.sources.any hit) || (pendingSources s).any hit

/-- CTX_CREATE. -/
def execCtxCreate (h : CmdHdr) (p : CtxCreateParams) (s : State) : Host.Outcome State Fault Refusal :=
  let i : Instr := .ctxCreate h p
  let n := p.sources.length
  let id := if p.requestedId = 0xFF then freeCtx s else some p.requestedId
  let inGroup := decide (s.grp.state ≠ .standalone)
  let control := p.sources.filter (fun e => e.kind == 3)
  runCommand s i h
    ([need (decide (p.requestedId < 32 ∨ p.requestedId = 0xFF)) stParamRange 0x20, need (decide (p.priority < 4)) stParamRange 0x21,
      need (decide (1 ≤ n ∧ n ≤ 24)) stParamRange 0x23, need (decide (1 ≤ p.frameLines ∧ p.frameLines ≤ 65)) stParamRange 0x24,
      need (decide (1 ≤ p.sessionSlots ∧ p.sessionSlots ≤ 4096)) stParamRange 0x2C]
      ++ p.sources.zipIdx.flatMap (fun e => sourceFields e.1 (0x40 + 32 * e.2)))
    []
    [need (!p.group || (inGroup && decide (p.requestedId ≠ 0xFF))) stWrongState,
      need (decide (p.requestedId = 0xFF) || !(pendingIds s).contains p.requestedId) stBusy,
      need (decide (p.requestedId = 0xFF) || (ctxOf s p.requestedId).isNone) stParamConflict 0x20,
      need (decide (control.length = 1)) stParamConflict 0x58,
      firstEntry p.sources (fun e => match coinciding s e.1 with
        | some k => (rangeOf s k).owner != h.partition || (rangeOf s k).context != 0xFFFF
        | none => true),
      firstEntry p.sources (entryMeets s p.sources),
      need (control.all (fun e => decide (controlNeed p ≤ e.size))) stParamConflict 0x28,
      need (id.isSome && decide ((allCtxs s).length + (pendingIds s).length < 32)
        && decide (((allCtxs s).filter (fun e => e.2.partition == h.partition)).length + pendingOf s h.partition < (partOf s h.partition).maxContexts)
        && decide ((residents s).length + (pendingIds s).length < 8)) stNoSpace]
    (fun s => acceptTick i h 1 s id.toList)

/-- A context as CTX_CREATE leaves it. -/
def newCtx (part : Nat) (p : CtxCreateParams) : Ctx :=
  { partition := part, state := .loading, residentSlot := true, priority := p.priority, group := p.group, pinned := false
    unevictable := noHostSource p.sources, sources := p.sources, params := p, bankA := none, bankB := none, activeB := false
    imageActive := false, switchPending := false, tables := [], pages := [], sessions := [], lastSeq := none, nextStep := 0, queue := []
    inFlight := none, abortNext := [], reload := [], blocked := true, stamp := 0, runnableSince := 0, holdOff := false
    targetHalf := false, trainCopy := [], saved := [], degradedGranules := [], degradeDue := false, acct := [], acctTick := [], change := none
    reconcile := false, spanLost := false }

/-- The change at the tick: the context is LOADING and resident, its entries bound, its control and scratch ranges zero. -/
def applyCtxCreate (s : State) (h : CmdHdr) (p : CtxCreateParams) (c : Nat) : State :=
  let s1 := bindEntries (setCtx s c (newCtx h.partition p)) c p.sources
  (p.sources.filter (fun e => e.kind == 2 || e.kind == 3)).foldl (fun s e => zeroRange s e.base e.size) s1

/-! ### CTX_DESTROY -/

def destroysCtx (c : Nat) : Instr → Bool
  | .ctxDestroy _ k _ => k == c
  | _ => false

/-- CTX_DESTROY: the context enters DESTROYING at a tick; the reply follows the end of its destruction. -/
def execCtxDestroy (h : CmdHdr) (context : Nat) (scrub : Bool) (s : State) : Host.Outcome State Fault Refusal :=
  let i : Instr := .ctxDestroy h context scrub
  runCommand s i h [ctxRange context] [ctxOwned s h context]
    [ctxIn s context (fun t => t != .destroying), need (!longPending s (destroysCtx context)) stBusy] (acceptLong i h)

/-- At a tick, a context that is to be destroyed and is in no change of its own enters DESTROYING, and its steps end. -/
def beginDestroy (s : State) (c : Nat) : State :=
  match ctxOf s c with
  | some x =>
    if x.state = .evicting ∨ x.state = .admitting ∨ x.state = .destroying then s
    else endAllSteps (setCtx s c { x with state := .destroying, change := none }) c stAborted
  | none => s

/-- A context that has left the cells (R166 to R169): nothing of its own stands on them any more. -/
def leaveCells (s : State) (c : Nat) : State :=
  let r := s.residency
  { s with residency := { r with
      current := if r.current = some c then none else r.current
      outgoing := if r.outgoing = some c then none else r.outgoing
      incoming := if r.incoming = some c then none else r.incoming
      switchStep := if r.outgoing = some c ∨ r.incoming = some c then 0 else r.switchStep } }

/-- The end of CTX_DESTROY; none before its tick, or while its work still runs out. With scrub, cells that no context runs on are zeroed too
where they hold the contents of its partition (R168, R169) (DESIGN CHOICE, log entry 13). -/
def endCtxDestroy (s : State) (c : Nat) (scrub : Bool) : Option (State × Nat × Nat × Nat) :=
  match ctxOf s c with
  | none => some (s, 0, 0, 0)
  | some x =>
    if x.state ≠ .destroying || !workIdle s c then none
    else
      let here := decide (s.residency.current = some c)
      let idle := decide (s.residency.current = none) && decide (s.residency.switchStep = 0) && s.residency.holder == some x.partition
      let s1 := if scrub && (here || idle) then mapCells s zeroCell else if here then mapCells s (scrubCell (layoutOf s)) else s
      let mine (l : CalLine) : Bool := match rangeAt s1 (128 * l.line) with | some r => r.context == c | none => false
      let s2 := if scrub then calZeroLines s1 mine else s1
      let s3 := leaveCells (unbindEntries s2 c) c
      some ({ s3 with ctxs := mset none s3.ctxs c none }, 0, 0, 0)

/-! ### CTX_PIN and CTX_EVICT (R265) -/

def pinnedCount (s : State) : Nat := ((allCtxs s).filter (fun e => e.2.pinned)).length

def pinsCtx (c : Nat) : Instr → Bool
  | .ctxPin _ k _ => k == c
  | _ => false
def pins : Instr → Bool
  | .ctxPin _ _ p => p == 1
  | _ => false

/-- CTX_PIN. -/
def execCtxPin (h : CmdHdr) (context pin : Nat) (s : State) : Host.Outcome State Fault Refusal :=
  let i : Instr := .ctxPin h context pin
  runCommand s i h [ctxRange context, need (decide (pin < 2)) stParamRange 0x21] [ctxOwned s h context]
    [ctxIn s context (fun t => t != .destroying), need (!tickPending s (pinsCtx context)) stBusy,
      withCtx s context (fun x => need (decide (pin = 0) || x.pinned || decide (pinnedCount s + s.host.ticking.countP (fun p => pins p.op) < 7)) stNoSpace)]
    (acceptTick i h 1)

/-- The pin at the tick, and the number of pinned contexts. -/
def applyPin (s : State) (c pin : Nat) : State × Nat :=
  let s1 := modCtx s c (fun x => { x with pinned := decide (pin = 1) })
  (s1, pinnedCount s1)

def evictsCtx (c : Nat) : Instr → Bool
  | .ctxEvict _ k => k == c
  | _ => false

/-- CTX_EVICT: the context enters EVICTING at a tick; the reply follows the EVICTED state. -/
def execCtxEvict (h : CmdHdr) (context : Nat) (s : State) : Host.Outcome State Fault Refusal :=
  let i : Instr := .ctxEvict h context
  runCommand s i h [ctxRange context] [ctxOwned s h context]
    [ctxIn s context (fun t => t == .resident), withCtx s context (fun x => need (!x.pinned && !x.unevictable) stWrongState),
      need (!longPending s (evictsCtx context) && !longPending s (destroysCtx context)) stBusy,
      withCtx s context (fun x => need (x.change.isNone) stBusy)]
    (fun s => acceptLong i h (modCtx s context (fun x => { x with change := some .evict })))

/-! ### CTX_QUERY and ACCT_READ -/

def stateCode : CtxState → Nat
  | .loading => 0 | .resident => 1 | .evicting => 2 | .evicted => 3 | .admitting => 4 | .degraded => 5 | .destroying => 6

/-- The 512-byte lost-slot bitmap. -/
def lostMap (x : Ctx) : List Byte :=
  (List.range 512).map (fun i => BitVec.ofNat 8 (((List.range 8).map (fun b => b2n (mget Session.reset x.sessions (8 * i + b)).lost * 2 ^ b)).sum))

/-- The CTX_QUERY record. -/
def ctxRecord (x : Ctx) : List Byte :=
  let lost := (x.sessions.filter (fun e => e.2.lost)).length
  let flags := b2n x.pinned + 2 * b2n x.unevictable + 4 * b2n x.group + 8 * b2n x.switchPending
  leBytes (stateCode x.state) 1 ++ leBytes x.priority 1 ++ leBytes flags 1 ++ leBytes x.queue.length 1 ++ leBytes (x.lastSeq.getD 0) 4
    ++ leBytes (imgModel (activeImage x)) 8 ++ leBytes (match activeBank x with | some b => b.generation | none => 0) 2 ++ leBytes lost 2
    ++ leBytes x.degradedGranules.length 4 ++ leBytes (pageCount x .free) 4 ++ leBytes (pageCount x .tentative) 4
    ++ leBytes (pageCount x .owned) 4 ++ leBytes (pageCount x .quarantined) 4 ++ leBytes (x.stamp % 2 ^ 48) 8 ++ leBytes 0 16 ++ lostMap x

/-- CTX_QUERY. -/
def execCtxQuery (h : CmdHdr) (context dst : Nat) (s : State) : Host.Outcome State Fault Refusal :=
  let i : Instr := .ctxQuery h context dst
  runCommand s i h [ctxRange context, dstRange s h dst 576 0x28] [ctxOwned s h context, dstCheck s h dst 576] [ctxIn s context (fun _ => true)]
    (immediate i h (fun s => match ctxOf s context with
      | some x => (writeDst s h dst (ctxRecord x), stateCode x.state, 0)
      | none => (s, 0, 0)))

/-- The ACCT_READ record: the frame counter and the counters as they stood at its tick. -/
def acctRecord (s : State) (m : SMap Nat) : List Byte := leBytes (frameNow s) 8 ++ (List.range 95).flatMap (fun i => leBytes (mget 0 m i) 8)

/-- ACCT_READ. -/
def execAcctRead (h : CmdHdr) (scope id dst : Nat) (s : State) : Host.Outcome State Fault Refusal :=
  let i : Instr := .acctRead h scope id dst
  runCommand s i h
    [need (decide (scope < 2)) stParamRange 0x20, need (decide (id < if scope = 0 then 32 else 8)) stParamRange 0x21, dstRange s h dst 768 0x28]
    [if scope = 0 then ctxOwned s h id else need (decide (id = h.partition)) stNotPermitted, dstCheck s h dst 768]
    [if scope = 0 then ctxIn s id (fun _ => true) else none]
    (immediate i h (fun s =>
      let m := if scope = 0 then (match ctxOf s id with | some x => x.acctTick | none => []) else (partOf s id).acctTick
      (writeDst s h dst (acctRecord s m), frameNow s, 0)))

end Sys2Proof.Machine
end

