-- ==== Sys2Proof/Machine/CmdStep.lean ====
section
/-! DEFINITION. Machine/CmdStep.lean: manifests and their checks (R135 to R137, R268 to R271, R471), STEP_SUBMIT,
KERNEL_LAUNCH, STEP_ABORT, SCHED_UNLOAD and FRAME_CONFIG (R33, R50, R56, R58, R357). -/

namespace Sys2Proof.Machine

open Sys2Proof

/-! ### Manifests -/

def manSession (m : List Byte) (i : Nat) : List Byte := bytesAt m (64 + 32 * i) 32
def manCount (m : List Byte) : Nat := fieldAt m 4 2

/-- Session record `i` of a manifest (Table 12-7). -/
def sessRec (m : List Byte) (i : Nat) : SessRec :=
  let r := manSession m i
  let f := fieldAt r 3 1
  { slot := fieldAt r 0 2, phaseSet := fieldAt r 2 1, admits := bit f 0, finish := bit f 1, handoff := bit f 2
    kvTokens := fieldAt r 4 4, newTokens := fieldAt r 8 4, handoffSet := fieldAt r 0xC 1, tag := fieldAt r 0x10 8 }

def sessRecs (m : List Byte) : List SessRec := (List.range (manCount m)).map (sessRec m)

/-- Rows of section 1, in order, as byte strings from each row's header on. -/
def rowWalk : Nat → List Byte → List (List Byte)
  | 0, _ => []
  | fuel + 1, sec =>
    let n := 32 + 8 * fieldAt sec 8 2
    if sec.length < 32 ∨ sec.length < n then [] else sec.take n :: rowWalk fuel (sec.drop n)

def imageRows (img : List Byte) : List (List Byte) := let sec := section_ img 1; rowWalk (sec.length / 32) sec

/-- The phase sets that an image uses (Table 2-6): 0 alone without flags[1]. -/
def phaseSets (img : List Byte) : List Nat :=
  if bit (imgFlags img) 1 then ((imageRows img).flatMap (fun r => (rowEntries r).map entPhase)).eraseDups else [0]

def zeroSpan (m : List Byte) (o n : Nat) : Bool := decide (fieldAt m o n = 0)

/-- The PARAM_RANGE row of Table 12-8 for the header, in ascending offset. -/
def headerRange (m b : List Byte) : List Check :=
  let at_ (ok : Bool) (o : Nat) : Check := needAt ok stParamRange 1 o
  let recs := sessRecs m
  let flag := bit (fieldAt m 3 1) 0
  [at_ (decide (fieldAt m 0 2 = 0x4D41)) 0, at_ (!b.isEmpty) 2, at_ (decide (fieldAt m 3 1 < 2)) 3,
    at_ (decide (1 ≤ manCount m ∧ manCount m ≤ bucketMaxSessions b)) 4, at_ (zeroSpan m 6 2) 6,
    at_ (decide (fieldAt m 0xC 4 = (recs.map (·.newTokens)).sum ∧ fieldAt m 0xC 4 ≤ bucketMaxNew b)) 0xC,
    at_ (zeroSpan m 0x16 2) 0x10, at_ (zeroSpan m 0x1E 2) 0x18, at_ (zeroSpan m 0x26 2 && (flag || zeroSpan m 0x20 8)) 0x20, at_ (zeroSpan m 0x28 20) 0x28]

/-- The same row for session record `i`. -/
def sessionRange (x : Ctx) (m b : List Byte) (sets : List Nat) (i : Nat) : List Check :=
  let r := sessRec m i
  let raw := manSession m i
  let at_ (ok : Bool) (o : Nat) : Check := needAt ok stParamRange 1 (64 + 32 * i + o)
  [at_ (decide (r.slot < x.params.sessionSlots)) 0, at_ (sets.contains r.phaseSet) 2, at_ (decide (fieldAt raw 3 1 < 8)) 3,
    at_ (decide (r.kvTokens + r.newTokens ≤ bucketMaxKv b)) 4, at_ (decide (1 ≤ r.newTokens)) 8,
    at_ (if r.handoff then sets.contains r.handoffSet else decide (r.handoffSet = 0)) 0xC, at_ (zeroSpan raw 0xD 3) 0xD, at_ (zeroSpan raw 0x18 8) 0x18]

/-- The PARAM_CONFLICT row for session record `i`. -/
def sessionConflict (x : Ctx) (m : List Byte) (i : Nat) : List Check :=
  let r := sessRec m i
  let z := mget Session.reset x.sessions r.slot
  let at_ (ok : Bool) (o : Nat) : Check := needAt ok stParamConflict 1 (64 + 32 * i + o)
  [at_ ((List.range i).all (fun j => (sessRec m j).slot != r.slot)) 0, at_ (r.admits != z.occupied) 3, at_ (decide (r.kvTokens = z.tokens)) 4]

/-! ### The training area (R135 to R137) -/

/-- Mask records from an offset of the training area on: each its offset and its bytes. -/
def maskWalk (read : Nat → Nat → List Byte) : Nat → Nat → List (Nat × List Byte)
  | 0, _ => []
  | n + 1, o =>
    let k := 16 + ceilDiv (fieldAt (read o 16) 4 4) 64 * 8
    (o, read o k) :: maskWalk read n (o + k)

def maskTargets (img : List Byte) : List Target := (targetsOf img).filter (fun t => t.kind == 2)

/-- The mask records of a training area. -/
def masksAt (s : State) (owner addr : Nat) (img : List Byte) : List (Nat × List Byte) :=
  maskWalk (fun o n => peekObj s owner (addr + o) n) (maskTargets img).length 32

def popCount (bs : List Byte) : Nat := (bs.map (fun b => ((List.range 8).map (fun i => b2n (b.toNat.testBit i))).sum)).sum

/-- Whether a bit at or above `n` of a bitmap is set. -/
def padBits (bm : List Byte) (n : Nat) : Bool := (upto n (8 * bm.length - n)).any (fun u => (bm.getD (u / 8) 0).toNat.testBit (u % 8))

/-- R136 for one mask record; `seen` are the targets that earlier records named. -/
def maskChecks (ts : List Target) (seen : List Nat) (e : Nat × List Byte) : List Check :=
  let (o, r) := e
  let id := fieldAt r 0 2
  let bm := r.drop 16
  let at_ (ok : Bool) (st k : Nat) : Check := needAt ok st 2 (o + k)
  let t := ts.find? (fun t => t.id == id)
  let on (f : Target → Bool) : Bool := match t with | some t => f t | none => false
  [at_ (decide (fieldAt r 0xC 4 = crc32c (r.take 12 ++ bm))) stBadCrc 0xC, at_ (!seen.contains id) stParamConflict 0, at_ t.isSome stParamRange 0,
    at_ (on (fun t => decide (fieldAt r 2 1 = t.gran))) stParamRange 2, at_ (zeroSpan r 3 1) stParamRange 3, at_ (on (fun t => decide (fieldAt r 4 4 = unitCount t))) stParamRange 4,
    at_ (on (fun t => decide (fieldAt r 8 4 = popCount bm ∧ fieldAt r 8 4 ≤ t.maxUnits))) stParamRange 8, at_ (!padBits bm (fieldAt r 4 4)) stParamRange 0x10]

def f32Finite (b : Nat) : Bool := decide (bits b 23 8 ≠ 255)
def f32NotNegative (b : Nat) : Bool := decide (b ≤ 0x80000000)
def f32BelowOne (b : Nat) : Bool := decide (b < 0x3F800000 ∨ b = 0x80000000)

/-- R137 for the training parameter block: lr, beta1, beta2, eps, wd, c1, c2, grad_scale. -/
def blockChecks (p : List Byte) : List Check :=
  (List.range 8).map (fun k =>
    let b := fieldAt p (4 * k) 4
    needAt (f32Finite b && (match k with | 1 => f32BelowOne b | 2 => f32BelowOne b | 5 => true | 6 => true | _ => f32NotNegative b)) stParamRange 2 (4 * k))

/-- The training row of Table 12-8: the block, then mask by mask. -/
def trainChecks (s : State) (h : CmdHdr) (x : Ctx) (addr : Nat) : List Check :=
  let ms := masksAt s h.partition addr (activeImage x)
  [sourceCheck s h addr 32] ++ blockChecks (peekObj s h.partition addr 32)
    ++ ms.zipIdx.flatMap (fun e =>
      sourceCheck s h (addr + e.1.1) e.1.2.length :: maskChecks (maskTargets (activeImage x)) ((ms.take e.2).map (fun m => fieldAt m.2 0 2)) e.1)

/-! ### STEP_SUBMIT -/

/-- FREE normal frames that an accepted REMOVE takes at its tick (R471). -/
def framesLeaving (s : State) (c : Nat) : Nat :=
  (s.host.ticking.map (fun p => match p.op with | .kvPagesMap _ k 1 0 _ _ => if k = c then p.data.length else 0 | _ => 0)).sum

/-- Claims that a new step must leave room for, and the queue's limit (R471, Table 12-8). -/
def roomChecks (s : State) (c : Nat) (x : Ctx) (need_ : Nat) : List Check :=
  [need (decide (need_ + claims x + framesLeaving s c ≤ freeFrames x)) stNoSpace, need (decide (x.queue.length < 16)) stBusy]

/-- The states that let a step in (Table 12-8, first two rows). -/
def stepStates (x : Ctx) : List Check :=
  [need (x.state != .degraded) stUncorrectable, need (x.state != .loading && x.state != .destroying) stWrongState]

/-- Table 12-8, in its order. -/
def manifestChecks (s : State) (h : CmdHdr) (c : Nat) (x : Ctx) (m : List Byte) : List Check :=
  let img := activeImage x
  let b := (findBucket img (fieldAt m 2 1)).getD []
  let n := manCount m
  let seq := fieldAt m 8 4
  let train := decide (bucketPhase b = 3)
  stepStates x ++ [need (decide (m.length = 64 + 32 * n)) stParamRange 0x24, needAt (decide (fieldAt m 0x3C 4 = crc32c (m.take 0x3C ++ m.drop 64))) stBadCrc 1 0x3C]
    ++ (List.range n).map (fun i => let r := sessRec m i; needAt (r.finish || !(mget Session.reset x.sessions r.slot).lost) stUncorrectable 1 (64 + 32 * i))
    ++ [needAt (decide (x.lastSeq ≠ some seq)) stAliveRepeat 1 8, needAt (match x.lastSeq with | some l => decide (seq = (l + 1) % 2 ^ 32) | none => true) stAliveGap 1 8]
    ++ headerRange m b ++ (List.range n).flatMap (sessionRange x m b (phaseSets img))
    ++ [needAt (bit (fieldAt m 3 1) 0 == train) stParamConflict 1 3] ++ (List.range n).flatMap (sessionConflict x m)
    ++ (if train then trainChecks s h x (fieldAt m 0x20 6) else []) ++ roomChecks s c x (stepNeed x (sessRecs m))

/-- The step that a manifest names. -/
def stepOfManifest (s : State) (h : CmdHdr) (x : Ctx) (m : List Byte) : Step :=
  let img := activeImage x
  let b := (findBucket img (fieldAt m 2 1)).getD []
  { id := x.nextStep, hdr := h, seq := some (fieldAt m 8 4), bucket := fieldAt m 2 1, phase := bucketPhase b, firstRow := bucketFirstRow b, rowCount := bucketRowCount b
    startFrame := 0, sessions := sessRecs m, need := stepNeed x (sessRecs m), accepted := s.frames.ticks, row := 0, started := false, latch := false, replays := 0
    overflowFrames := 0, overflowLeft := 0, masks := if bucketPhase b = 3 then (masksAt s h.partition (fieldAt m 0x20 6) img).map (fun e => (fieldAt e.2 0 2, e.2.drop 16)) else []
    outputAddr := fieldAt m 0x18 6 }

/-- A step joins its context's queue. A context with work that was blocked takes its stamp at the next tick. -/
def queueStep (s : State) (c : Nat) (t : Step) : State := modCtx s c (fun x => { x with queue := x.queue ++ [t], nextStep := x.nextStep + 1, lastSeq := if t.seq.isSome then t.seq else x.lastSeq })

/-- STEP_SUBMIT. -/
def execStepSubmit (h : CmdHdr) (context manifestBytes manifest : Nat) (s : State) : Host.Outcome State Fault Refusal :=
  let i : Instr := .stepSubmit h context manifestBytes manifest
  let m := peekObj s h.partition manifest manifestBytes
  runCommand s i h
    [ctxRange context, need (decide (96 ≤ manifestBytes ∧ manifestBytes ≤ 131104)) stParamRange 0x24, need (decide (manifestBytes % 32 = 0)) stParamAlign 0x24]
    [ctxOwned s h context, sourceCheck s h manifest manifestBytes]
    ([ctxIn s context (fun _ => true), need (unitsWhole s) stUncorrectable, need (!peekPoison s h.partition manifest manifestBytes) stUncorrectable]
      ++ (match ctxOf s context with | some x => manifestChecks s h context x m | none => []))
    (fun s =>
      let s1 := acceptLong i h (readObj s h.partition manifest manifestBytes).1
      match ctxOf s1 context with
      | some x => queueStep s1 context (stepOfManifest s1 h x m)
      | none => s1)

/-! ### KERNEL_LAUNCH and STEP_ABORT -/

/-- KERNEL_LAUNCH. -/
def execKernelLaunch (h : CmdHdr) (context bucketId inputAddr outputAddr : Nat) (s : State) : Host.Outcome State Fault Refusal :=
  let i : Instr := .kernelLaunch h context bucketId inputAddr outputAddr
  let bucket (x : Ctx) : List Byte := (findBucket (activeImage x) bucketId).getD []
  runCommand s i h
    [ctxRange context, need (decide (bucketId < 64)) stParamRange 0x21, need (decide (inputAddr < 2 ^ 48)) stParamRange 0x28, need (decide (outputAddr < 2 ^ 48)) stParamRange 0x30]
    [ctxOwned s h context]
    ([ctxIn s context (fun _ => true)] ++ (match ctxOf s context with | some x => stepStates x | none => [])
      ++ [withCtx s context (fun x => need (!(bucket x).isEmpty) stParamRange 0x21), withCtx s context (fun x => need (decide (x.queue.length < 16)) stBusy),
        withCtx s context (fun x => need (decide (bucketPhase (bucket x) < 2)) stParamConflict 0x21)])
    (fun s =>
      let s1 := acceptLong i h s
      match ctxOf s1 context with
      | some x =>
        let b := bucket x
        queueStep s1 context
          { id := x.nextStep, hdr := h, seq := none, bucket := bucketId, phase := bucketPhase b, firstRow := bucketFirstRow b, rowCount := bucketRowCount b, startFrame := 0, sessions := [], need := 0
            accepted := s.frames.ticks, row := 0, started := false, latch := false, replays := 0, overflowFrames := 0, overflowLeft := 0, masks := [], outputAddr := outputAddr }
      | none => s1)

/-- Whether STEP_ABORT names a step. -/
def namesStep (seq : Nat) (t : Step) : Bool := decide (seq = 0xFFFFFFFF) || t.seq == some seq

/-- Whether a context has a step that STEP_ABORT names, queued or in flight. -/
def hasStep (x : Ctx) (seq : Nat) : Bool := x.queue.any (namesStep seq) || x.inFlight.toList.any (namesStep seq)

/-- STEP_ABORT: it acts at the first tick after its start. -/
def execStepAbort (h : CmdHdr) (context stepSeq : Nat) (s : State) : Host.Outcome State Fault Refusal :=
  let i : Instr := .stepAbort h context stepSeq
  runCommand s i h [ctxRange context] [ctxOwned s h context]
    [ctxIn s context (fun _ => true), withCtx s context (fun x => need (hasStep x stepSeq) stWrongState)] (acceptTick i h 1)

/-- STEP_ABORT at its tick, after the commits of that tick; gives the command's status. -/
def applyStepAbort (s : State) (c seq : Nat) : State × Nat :=
  match ctxOf s c with
  | none => (s, stWrongState)
  | some x =>
    if !hasStep x seq then (s, stWrongState)
    else
      let s1 := if x.inFlight.toList.any (namesStep seq) then abortStep s c (x.abortNext ++ [.command]) else s
      (abortQueued s1 c (namesStep seq), stDone)

/-! ### SCHED_UNLOAD -/

/-- The bank that is not active. -/
def inactiveBank (x : Ctx) : Option Bank := if x.imageActive && !x.activeB then x.bankB else x.bankA

def unloads (c : Nat) : Instr → Bool
  | .schedUnload _ k _ => k == c
  | _ => false
def loads (c : Nat) : Instr → Bool
  | .schedLoad _ k _ _ => k == c
  | _ => false

/-- SCHED_UNLOAD. -/
def execSchedUnload (h : CmdHdr) (context bank : Nat) (s : State) : Host.Outcome State Fault Refusal :=
  let i : Instr := .schedUnload h context bank
  runCommand s i h [ctxRange context, need (decide (bank < 2)) stParamRange 0x21] [ctxOwned s h context]
    [ctxIn s context (fun t => t == .loading || t == .resident),
      withCtx s context (fun x => need (if bank = 1 then x.imageActive else (inactiveBank x).isSome) stWrongState),
      withCtx s context (fun x => need (decide (bank = 0) || (x.queue.isEmpty && x.inFlight.isNone)) stWrongState),
      need (!tickPending s (unloads context) && !longPending s (loads context)) stBusy]
    (acceptTick i h 1)

/-- Whether SCHED_UNLOAD of the active bank may still act at its tick: a step accepted since, or a change of the context's state, stands
against it (R258) (DESIGN CHOICE, log entry 41). -/
def unloadable (x : Ctx) (bank : Nat) : Bool :=
  decide (bank ≠ 1) || (x.state == .resident && x.queue.isEmpty && x.inFlight.isNone && x.change.isNone && !x.degradeDue)

/-- SCHED_UNLOAD at its tick: the active bank clears both banks and the context returns to LOADING. -/
def applyUnload (s : State) (c bank : Nat) : State :=
  modCtx s c (fun x =>
    if !unloadable x bank then x
    else if bank = 1 then { x with bankA := none, bankB := none, activeB := false, imageActive := false, switchPending := false, state := .loading }
    else if x.imageActive && !x.activeB then { x with bankB := none, switchPending := false }
    else { x with bankA := none, switchPending := false })

/-! ### FRAME_CONFIG (R33, R56, R58) -/

/-- The largest min_period_us of the loaded images. -/
def longestPeriod (s : State) : Nat :=
  (allCtxs s).foldl (fun m e => (e.2.bankA.toList ++ e.2.bankB.toList).foldl (fun m b => max m (imgMinPeriod b.image)) m) 0

def cfgOf (p : FrameParams) : FrameCfg :=
  { lateLead := p.lateLead, periodUs := p.periodUs, quantumUs := p.quantumUs, maxQuanta := p.maxQuanta, syncOutEn := p.syncOutEn, source := p.source }

/-- Whether a stretched frame stays below the limit of R56: quanta and 1.5 µs below half a period. -/
def stretchOk (p : FrameParams) : Bool := decide (2 * p.maxQuanta * p.quantumUs + 3 < p.periodUs)

/-- Whether a setting changes what the keystone owns (R357). -/
def timingChanged (c : FrameCfg) (p : FrameParams) : Bool :=
  decide (c.periodUs ≠ p.periodUs ∨ c.quantumUs ≠ p.quantumUs ∨ c.maxQuanta ≠ p.maxQuanta ∨ c.lateLead ≠ p.lateLead)

/-- How many ticks ahead a FRAME_CONFIG takes effect (R58): the second tick on a module alone; the keystone of a group names the
tick in the TICK messages at least 2 frames ahead of it. -/
def configAhead (s : State) : Nat := if s.grp.state == .keystone && decide (1 < s.grp.size) then 3 else 2

/-- FRAME_CONFIG. -/
def execFrameConfig (h : CmdHdr) (p : FrameParams) (s : State) : Host.Outcome State Fault Refusal :=
  let i : Instr := .frameConfig h p
  let c := s.frames.cfg
  runCommand s i h
    [need (decide (8 ≤ p.periodUs ∧ p.periodUs ≤ 80)) stParamRange 0x20, need (decide (1 ≤ p.quantumUs ∧ p.quantumUs ≤ 8)) stParamRange 0x21,
      need (decide (p.maxQuanta ≤ 4)) stParamRange 0x22, need (decide (5 ≤ p.lateLead ∧ p.lateLead ≤ 40)) stParamRange 0x23, need (decide (p.source ≤ 2)) stParamRange 0x24]
    []
    [need (isKeystone s || !timingChanged c p) stWrongState, need s.frames.announced.isNone stBusy, need (stretchOk p) stParamConflict 0x20,
      need (decide (c.periodUs ≤ p.periodUs) || decide (longestPeriod s ≤ p.periodUs)) stParamConflict 0x20]
    (fun s => acceptTick i h (configAhead s) { s with frames := { s.frames with announced := some (cfgOf p, s.frames.ticks + configAhead s) } })

end Sys2Proof.Machine
end

