-- ==== Sys2Proof/Machine/ImageCheck.lean ====
section
/-! DEFINITION. Machine/ImageCheck.lean: the checks that SCHED_LOAD makes of an image, in the order of R42 (R36, R41, R44,
R66, R67, R109, R132, R149 to R151, R230, R231, R276, R307, Table 13-9). A failure is located by its image offset. -/

namespace Sys2Proof.Machine

open Sys2Proof

/-- A check of a field of the image at an offset. -/
def img_ (ok : Bool) (status off : Nat) : Check := needAt ok status 0 off

/-- The directory entry of a section. -/
def dirOff (n : Nat) : Nat := 0x28 + 16 * n

/-! ### Steps 1 and 2: header and directory -/

/-- The header (Table 2-2); `given` is the command's image_bytes (DEDUCED, log entry 60). -/
def headerChecks (img : List Byte) (given : Nat) : List Check :=
  [img_ (decide (crc32c (img.take 0xFC) = fieldAt img 0xFC 4)) stBadCrc 0xFC, img_ (decide (fieldAt img 0 4 = 0x53435848)) stParamRange 0,
    img_ (decide (fieldAt img 4 2 = 0x0100)) stParamRange 4, img_ (decide (fieldAt img 6 2 = 0x0100)) stParamRange 6,
    img_ (decide (imgBytes img % 4096 = 0)) stParamAlign 8, img_ (decide (8 ≤ imgMinPeriod img ∧ imgMinPeriod img ≤ 80)) stParamRange 0x10,
    img_ (decide (1 ≤ imgPoint img ∧ imgPoint img ≤ 7)) stParamRange 0x11, img_ (decide (1 ≤ imgBuckets img ∧ imgBuckets img ≤ 64)) stParamRange 0x12,
    img_ (decide (imgFlags img < 8)) stParamRange 0x14, img_ (zeroSpan img 0x22 6) stParamRange 0x22, img_ (zeroSpan img 0x98 100) stParamRange 0x98,
    img_ (decide (imgBytes img = given)) stParamConflict 8]

/-- Whether two present sections share a byte. -/
def sectionsMeet (img : List Byte) (n m : Nat) : Bool :=
  decide (secLen img m ≠ 0 ∧ secOff img n < secOff img m + secLen img m ∧ secOff img m < secOff img n + secLen img n)

/-- The directory entry of a section: alignment, overlap and extent, presence. -/
def sectionChecks (img : List Byte) (n : Nat) : List Check :=
  if secLen img n = 0 then [img_ (decide (n ≠ 0 ∧ n ≠ 1 ∧ n ≠ 3)) stParamRange (dirOff n + 6)]
  else
    [img_ (decide (secOff img n % 4096 = 0)) stParamAlign (dirOff n),
      img_ (decide (4096 ≤ secOff img n) && (List.range 7).all (fun m => m == n || !sectionsMeet img n m)) stParamRange (dirOff n),
      img_ (decide (secOff img n + secLen img n ≤ imgBytes img)) stParamRange (dirOff n + 6)]

def directoryChecks (img : List Byte) : List Check :=
  (List.range 7).flatMap (sectionChecks img)
    ++ (List.range 7).map (fun n => img_ (decide (secLen img n = 0 ∨ crc32c (section_ img n) = secCrc img n)) stBadCrc (dirOff n + 12))

/-! ### Step 3: the layout block (Table 7-3) -/

/-- Whether two regions overlap. -/
def regionsMeet (a b : Region) : Bool := decide (a.base < b.base + regionSpan b ∧ b.base < a.base + regionSpan a)

/-- The conditions of Table 7-3 in its order, each over every valid region in turn. A source of zero is no source, and is reported as such;
a tile record below 0x400 is reported under Table 2-3, as R44 asks (DEDUCED, log entry 60). -/
def layoutChecks (img : List Byte) : List Check :=
  let o := secOff img 0
  let lay := (section_ img 0).take 0x400
  let regs := regions img
  let valid := regs.zipIdx.filter (fun e => e.1.valid)
  let each (ok : Region → Bool) (status off : Nat) : List Check := valid.map (fun e => img_ (ok e.1) status (o + 32 * e.2 + off))
  let z (i k n : Nat) : Bool := zeroSpan (lay.drop (32 * i)) k n
  [img_ (decide (1024 ≤ secLen img 0)) stParamRange (dirOff 0 + 6), img_ (decide (crc32c (lay.take 0x3FC) = fieldAt lay 0x3FC 4)) stBadCrc (o + 0x3FC)]
    ++ each (fun r => decide (r.base % 2048 = 0)) stParamAlign 0 ++ each (fun r => decide (r.halfBytes % 2048 = 0)) stParamAlign 4
    ++ each (fun r => !r.resident || decide (r.source % 4096 = 0)) stParamAlign 0x10
    ++ each (fun r => decide (r.base + regionSpan r ≤ 0x40000)) stParamRange 0 ++ each (fun r => decide (r.halfBytes ≠ 0)) stParamRange 4
    ++ (List.range 32).map (fun j => img_ (decide (fieldAt lay (0x280 + 2 * j) 2 ≤ 2047)) stParamRange (o + 0x280 + 2 * j))
    ++ each (fun r => !r.resident || decide (r.source = 0) || inStacks r.source 0x8000) stParamRange 0x10
    ++ valid.map (fun e => img_ (valid.all (fun f => decide (e.2 ≤ f.2) || !regionsMeet e.1 f.1)) stParamConflict (o + 32 * e.2))
    ++ each (fun r => !r.resident || decide (r.source ≠ 0)) stParamConflict 0x10 ++ each (fun r => !(r.resident && r.double)) stParamConflict 8
    ++ valid.flatMap (fun e =>
      [img_ (decide (fieldAt lay (32 * e.2 + 8) 2 < 128)) stParamRange (o + 32 * e.2 + 8), img_ (z e.2 0xA 6) stParamRange (o + 32 * e.2 + 0xA),
        img_ (z e.2 0x18 8) stParamRange (o + 32 * e.2 + 0x18)])
    ++ [img_ (zeroSpan lay 0x2C0 316) stParamRange (o + 0x2C0)]
    ++ each (fun r => r.resident || decide (r.source = 0)) stParamRange 0x10
    ++ (regs.zipIdx.filter (fun e => !e.1.valid)).map (fun e => img_ (z e.2 0 32) stParamRange (o + 32 * e.2))

/-! ### Step 4: buckets (Table 2-4) -/

/-- The rows of section 1 with their image offsets, and the offset of a row that runs past its end. -/
def rowPlaces : Nat → List Byte → Nat → List (Nat × List Byte) × Option Nat
  | 0, _, _ => ([], none)
  | fuel + 1, sec, o =>
    if sec.isEmpty then ([], none)
    else
      let n := 32 + 8 * fieldAt sec 8 2
      if sec.length < 32 ∨ sec.length < n then ([], some o)
      else
        let (l, bad) := rowPlaces fuel (sec.drop n) (o + n)
        ((o, sec.take n) :: l, bad)

def imagePlaces (img : List Byte) : List (Nat × List Byte) × Option Nat :=
  rowPlaces (secLen img 1 / 32 + 1) (section_ img 1) (secOff img 1)

def bucketChecks (img : List Byte) : List Check :=
  let n := imgBuckets img
  let rows := (imagePlaces img).1.length
  let b (i : Nat) : List Byte := bucketRec img i
  img_ (decide (secLen img 3 = 24 * n)) stParamRange (dirOff 3 + 6)
    :: (List.range n).flatMap (fun i =>
      let o := secOff img 3 + 24 * i
      let r := b i
      [img_ (decide (fieldAt r 0 1 < 64)) stParamRange o, img_ (decide (bucketPhase r < 4)) stParamRange (o + 1),
        img_ (decide (1 ≤ bucketMaxSessions r ∧ bucketMaxSessions r ≤ 4095)) stParamRange (o + 2),
        img_ (decide (1 ≤ bucketRowCount r)) stParamRange (o + 0x10), img_ (zeroSpan r 0x14 4) stParamRange (o + 0x14),
        img_ (decide (bucketFirstRow r < rows)) stParamRange (o + 0xC),
        img_ (decide (bucketFirstRow r + bucketRowCount r ≤ rows)) stParamRange (o + 0x10),
        img_ ((List.range i).all (fun j => decide (fieldAt (b j) 0 1 ≠ fieldAt r 0 1))) stParamConflict o])

/-! ### Step 5: rows (Tables 2-5, 2-6) -/

/-- The number of targets of a kind (Table 2-6). -/
def targetCount (kind : Nat) : Nat :=
  if kind = 1 ∨ kind = 2 ∨ kind = 7 then 4096 else if kind = 3 ∨ kind = 4 then 256 else if kind = 5 then 2 else if kind = 6 then 14 else 0

/-- The place that a kind names, as a span of offsets (R44). -/
def kindPlace (img : List Byte) (desc kind : Nat) : Nat × Nat :=
  if kind = 1 ∨ kind = 7 then (0x400, secLen img 0) else if kind = 5 then (0, secLen img 6) else (0, desc)

/-- The target of an entry: the tile of a cell is one target (R44). -/
def entryTarget (e : Nat) : Nat × Nat := (if entKind e = 7 then 1 else entKind e, entTarget e)

/-- One entry, located at `o`; `before` are those earlier in its row. An idle entry names nothing (DEDUCED, log entry 60). -/
def entryChecks (img : List Byte) (desc o : Nat) (before : List Nat) (e : Nat) : List Check :=
  if entKind e = 0 then []
  else
    let (lo, hi) := kindPlace img desc (entKind e)
    [img_ (decide (entKind e < 8)) stParamRange (o + 7), img_ (decide (entTarget e < targetCount (entKind e))) stParamRange (o + 6),
      img_ (bit (imgFlags img) 1 || decide (entPhase e = 0)) stParamRange (o + 5), img_ (decide (lo ≤ entOffset e ∧ entOffset e < hi)) stParamRange o,
      img_ (decide (entOffset e % 8 = 0)) stParamAlign o,
      img_ (before.all (fun f => entKind f == 0 || entryTarget f != entryTarget e)) stParamConflict (o + 6)]

/-- Frequency of a point in MHz (Table 17-3). -/
def pointMhz : Nat → Nat
  | 0 => 1600 | 1 => 1500 | 2 => 1400 | 3 => 1300 | 4 => 1200 | 5 => 1050 | 6 => 900 | _ => 700

/-- R36: the row's budget fits the shortest period less the guard at the schedule clock. -/
def budgetFits (img row : List Byte) : Bool :=
  decide (fieldAt row 4 4 * 1000 + 2000 * pointMhz (imgPoint img) ≤ imgMinPeriod img * 1000 * pointMhz (imgPoint img))

/-- The step-end rule of Table 2-3 for row `i`. -/
def stepEndOk (img row : List Byte) (i : Nat) : Bool :=
  (List.range (imgBuckets img)).all (fun k =>
    let b := bucketRec img k
    let last := bucketFirstRow b + bucketRowCount b - 1
    !decide (bucketFirstRow b ≤ i ∧ i ≤ last) || (bit (fieldAt row 0xA 2) 2 == decide (i = last)))

def rowChecks (img : List Byte) (desc : Nat) (p : (Nat × List Byte) × Nat) : List Check :=
  let ((o, row), i) := p
  let es := rowEntries row
  [img_ (decide (crc32c (rowCrcBytes row) = fieldAt row 0x1C 4)) stBadCrc (o + 0x1C), img_ (decide (fieldAt row 0 4 = i)) stParamRange o,
    img_ (decide (es.length ≤ 8810)) stParamRange (o + 8), img_ (decide (fieldAt row 0xA 2 < 8)) stParamRange (o + 0xA), img_ (zeroSpan row 0xC 16) stParamRange (o + 0xC)]
    ++ es.zipIdx.flatMap (fun e => entryChecks img desc (o + 32 + 8 * e.2) (es.take e.2) e.1)
    ++ [img_ (budgetFits img row) stParamRange (o + 4), img_ (stepEndOk img row i) stParamConflict (o + 0xA)]

def allRowChecks (img : List Byte) (desc : Nat) : List Check :=
  let (l, bad) := imagePlaces img
  l.zipIdx.flatMap (rowChecks img desc) ++ (match bad with | some o => [img_ false stParamRange (o + 8)] | none => [])

/-! ### Step 6: tiles (Table 4-13) -/

/-- Every entry of the image with its row's budget. -/
def allEntries (img : List Byte) : List (Nat × Nat) :=
  (imagePlaces img).1.flatMap (fun p => (rowEntries p.2).map (fun e => (e, fieldAt p.2 4 4)))

/-- Inserts an offset into a rising list. -/
def insertOff (x : Nat) : List Nat → List Nat
  | [] => [x]
  | y :: t => if x < y then x :: y :: t else if x = y then y :: t else y :: insertOff x t

/-- The offsets of the tiles that rows name, ascending. -/
def tileOffsets (img : List Byte) : List Nat :=
  (((allEntries img).filter (fun e => entKind e.1 == 1 || entKind e.1 == 7)).map (fun e => entOffset e.1)).foldl (fun l x => insertOff x l) []

/-- The ranges of a word of a tile (third to sixth rows of Table 4-13, without its loops). -/
def opInRange : TileOp → Bool
  | .run f => f.inRange
  | .drain f => f.inRange
  | op => op.ok

/-- The PARAM_CONFLICT row: the multiply classes, and the region of a SWAP. -/
def opAgrees (regs : List Region) : TileOp → Bool
  | .run f => f.classOk
  | .swap r => match regs[r]? with | some g => g.valid && g.double | none => false
  | _ => true

/-- The PARAM_ALIGN row. -/
def opAligned : TileOp → Bool
  | .run f => f.aligned
  | .drain f => f.aligned
  | _ => true

/-- The loop row for the operation at index `i` of `n`; `live` holds the enclosing loops, each its k register and its last
operation. Gives whether it holds, and the loops that enclose the next operation. -/
def loopStep (n : Nat) (live : List (Nat × Nat)) (i : Nat) (op : TileOp) : Bool × List (Nat × Nat) :=
  let l := live.filter (fun e => decide (i ≤ e.2))
  match op with
  | .loopBegin k body =>
    (decide (i + body < n) && l.all (fun e => decide (i + body ≤ e.2) && e.1 != k) && decide (l.length < 4), (k, i + body) :: l)
  | .loopKset k _ => (l.all (fun e => e.1 != k), l)
  | _ => (true, l)

/-- The operation words of a tile in order: each word that fails, with its status. -/
def wordChecks (regs : List Region) (n o : Nat) : List Nat → Nat → List (Nat × Nat) → List Check
  | [], _, _ => []
  | w :: t, i, live =>
    match decodeTile w with
    | none => [img_ false stParamRange (o + 8 * i)]
    | some op =>
      let (ok, next) := loopStep n live i op
      [img_ (opInRange op && ok) stParamRange (o + 8 * i), img_ (opAgrees regs op) stParamConflict (o + 8 * i), img_ (opAligned op) stParamAlign (o + 8 * i)]
        ++ wordChecks regs n o t (i + 1) next

/-- One tile of section 0, in the order of R109 (DEDUCED, log entry 60). -/
def tileChecks (img : List Byte) (off : Nat) : List Check :=
  let sec := section_ img 0
  let o := secOff img 0 + off
  let t := sec.drop off
  let n := fieldAt t 0 2
  let words := (List.range n).map (fun j => fieldAt t (0x10 + 8 * j) 8)
  let whole := decide (1 ≤ n ∧ n ≤ 1024 ∧ off + 16 + 8 * n ≤ sec.length)
  if !whole then [img_ false stParamRange o]
  else
    [img_ (decide (crc32c ((t.drop 16).take (8 * n)) = fieldAt t 8 4)) stBadCrc (o + 8),
      img_ ((allEntries img).all (fun e => !((entKind e.1 == 1 || entKind e.1 == 7) && entOffset e.1 == off) || decide (fieldAt t 4 4 ≤ e.2))) stParamRange (o + 4),
      img_ (zeroSpan t 2 2) stParamRange (o + 2), img_ (zeroSpan t 0xC 4) stParamRange (o + 0xC)]
      ++ wordChecks (regions img) n (o + 16) words 0 []

/-! ### Step 7: code tables (R230, R231) -/

def tableRecBytes : Nat := 2064

/-- The table records of section 2. -/
def imageTables (img : List Byte) : List (List Byte) :=
  let sec := section_ img 2
  (List.range (sec.length / tableRecBytes)).map (fun i => (sec.drop (tableRecBytes * i)).take tableRecBytes)

/-- Whether a slot awaits a load or a switch. -/
def slotBusy (t : TableSlot) : Bool := t.pendingLoad.isSome || t.pendingSwitch.isSome

/-- The generation that the next record for a slot must carry (R231): none where any may. -/
def nextGeneration (x : Ctx) (before : List (List Byte)) (slot : Nat) : Option Nat :=
  match (before.filter (fun r => recordSlot r == slot)).getLast? with
  | some r => some (((recordTable r).generation + 1) % 65536)
  | none => (activeTable (mget TableSlot.reset x.tables slot)).map (fun c => (c.generation + 1) % 65536)

def tableChecks (x : Ctx) (img : List Byte) : List Check :=
  let rs := imageTables img
  img_ (decide (secLen img 2 % tableRecBytes = 0)) stParamRange (dirOff 2 + 6)
    :: rs.zipIdx.flatMap (fun e =>
      let o := secOff img 2 + tableRecBytes * e.2
      [match recordDefect e.1 with | some (st, k) => img_ false st (o + k) | none => none,
        need (!slotBusy (mget TableSlot.reset x.tables (recordSlot e.1))) stBusy,
        img_ (match nextGeneration x (rs.take e.2) (recordSlot e.1) with | some g => decide ((recordTable e.1).generation = g) | none => true) stParamConflict (o + 2)])

/-! ### Steps 8 and 9: gradient targets (Table 6-4) and expert capacities (R276) -/

/-- The fields of a gradient target against Table 6-3, in ascending offset. -/
def targetFields (t : Target) (r : List Byte) (o : Nat) : List Check :=
  let rankOk (n : Nat) : Bool := decide (8 ≤ n ∧ n ≤ 256 ∧ n % 8 = 0)
  [img_ (decide (t.id < 1024)) stParamRange o, img_ (decide (t.kind < 3)) stParamRange (o + 2),
    img_ (decide (t.gran < if t.kind = 2 then 2 else 1)) stParamRange (o + 3),
    img_ (if t.kind = 0 then rankOk t.rows else decide (1 ≤ t.rows ∧ t.rows ≤ 65536)) stParamRange (o + 4),
    img_ (if t.kind = 1 then rankOk t.cols else decide (8 ≤ t.cols ∧ t.cols ≤ 65536 ∧ t.cols % 8 = 0)) stParamRange (o + 8),
    img_ (if t.kind = 2 then decide (1 ≤ t.maxUnits ∧ t.maxUnits ≤ unitCount t) else decide (t.maxUnits = 0)) stParamRange (o + 0xC),
    img_ (decide (1 ≤ t.format ∧ t.format ≤ 13)) stParamRange (o + 0x10), img_ (decide (t.optimizer < 3)) stParamRange (o + 0x11),
    img_ (zeroSpan r 0x12 6) stParamRange (o + 0x12), img_ (zeroSpan r 0x28 8) stParamRange (o + 0x28),
    img_ (decide (t.half0 % 4096 = 0)) stParamAlign (o + 0x18), img_ (decide (t.half1 % 4096 = 0)) stParamAlign (o + 0x20),
    img_ (inStacks t.half0 (halfBytesOf t)) stParamRange (o + 0x18), img_ (inStacks t.half1 (halfBytesOf t)) stParamRange (o + 0x20)]

/-- Whether a half of `n` bytes at `a` meets a half of a target. -/
def meetsHalf (a n : Nat) (t : Target) : Bool := meets a n t.half0 (halfBytesOf t) || meets a n t.half1 (halfBytesOf t)

def gradientChecks (img : List Byte) : List Check :=
  let ts := targetsOf img
  let on := bit (imgFlags img) 0
  let o := secOff img 4
  [img_ (on == decide (secLen img 4 ≠ 0)) stParamConflict 0x14]
    ++ (List.range (imgBuckets img)).map (fun k => img_ (on || decide (bucketPhase (bucketRec img k) ≠ 3)) stParamConflict (secOff img 3 + 24 * k + 1))
    ++ [img_ (decide (secLen img 4 % 48 = 0 ∧ secLen img 4 ≤ 48 * 1024)) stParamRange (dirOff 4 + 6)]
    ++ ts.zipIdx.flatMap (fun e =>
      let r := o + 48 * e.2
      let before := ts.take e.2
      targetFields e.1 ((section_ img 4).drop (48 * e.2)) r
        ++ [img_ (before.all (fun t => t.id != e.1.id)) stParamConflict r,
          img_ (before.all (fun t => !meetsHalf e.1.half0 (halfBytesOf e.1) t)) stParamConflict (r + 0x18),
          img_ (!meets e.1.half1 (halfBytesOf e.1) e.1.half0 (halfBytesOf e.1) && before.all (fun t => !meetsHalf e.1.half1 (halfBytesOf e.1) t)) stParamConflict (r + 0x20)])

def expertChecks (img : List Byte) : List Check :=
  let sec := section_ img 5
  let o := secOff img 5
  [img_ (bit (imgFlags img) 2 == decide (secLen img 5 ≠ 0)) stParamConflict 0x14, img_ (decide (secLen img 5 % 16 = 0)) stParamRange (dirOff 5 + 6)]
    ++ (List.range (sec.length / 16)).flatMap (fun i =>
      let r := sec.drop (16 * i)
      let k := o + 16 * i
      [img_ (decide (fieldAt r 0 2 ≠ 0) && (findBucket img (fieldAt r 0 2)).isSome) stParamRange k,
        img_ (decide (fieldAt r 2 2 ≠ 0) && Config.layerKnown (imgModel img) (fieldAt r 2 2)) stParamRange (k + 2),
        img_ (decide (fieldAt r 4 2 ≠ 0)) stParamRange (k + 4), img_ (decide (1 ≤ fieldAt r 6 1 ∧ fieldAt r 6 1 ≤ fieldAt r 4 2)) stParamRange (k + 6),
        img_ (zeroSpan r 7 1) stParamRange (k + 7), img_ (decide (fieldAt r 8 4 ≠ 0)) stParamRange (k + 8), img_ (decide (fieldAt r 0xC 4 ≠ 0)) stParamRange (k + 0xC)])

/-! ### Step 10: collective operations (Tables 13-7 to 13-9) -/

/-- Where lists of operations are named: offset, engine, and the index of the row. -/
def listNames (img : List Byte) : List (Nat × Nat × Nat) :=
  (imagePlaces img).1.zipIdx.flatMap (fun p =>
    ((rowEntries p.1.2).filter (fun e => entKind e == 5)).map (fun e => (entOffset e, entTarget e, p.2)))

/-- The ports of a die (R285), as a mask. -/
def diePorts (die : Nat) : Nat := if die = 0 then 0x007F else 0x3F80

/-- One operation record at `o`, named by `names` (engine, row). -/
def collChecks (img : List Byte) (rank : Nat) (r : List Byte) (o : Nat) (names : List (Nat × Nat)) : List Check :=
  let op := fieldAt r 0 1
  let elem := fieldAt r 1 1
  let red := fieldAt r 2 1
  let flagged (row : Nat) : Bool := match (imagePlaces img).1[row]? with | some p => bit (fieldAt p.2 0xA 2) 1 | none => false
  [img_ (decide (op < 8)) stParamRange o, img_ (decide (elem < 4)) stParamRange (o + 1), img_ (decide (red < 3)) stParamRange (o + 2),
    img_ (decide (fieldAt r 3 1 < 16)) stParamRange (o + 3), img_ (decide (op ∈ [0, 1, 6]) || zeroSpan r 4 1) stParamRange (o + 4),
    img_ (decide (fieldAt r 5 1 < 2)) stParamRange (o + 5), img_ (zeroSpan r 6 2) stParamRange (o + 6), img_ (zeroSpan r 0x16 2) stParamRange (o + 0x16),
    img_ (zeroSpan r 0x1E 2) stParamRange (o + 0x1E), img_ (decide (fieldAt r 0x20 4 ≠ 0)) stParamRange (o + 0x20),
    img_ (decide (fieldAt r 0x24 2 < 2 ^ 14)) stParamRange (o + 0x24), img_ (zeroSpan r 0x26 2) stParamRange (o + 0x26),
    img_ (decide (fieldAt r 0x28 8 % 2 ^ 30 = 0)) stParamRange (o + 0x28), img_ (decide (fieldAt r 0x30 8 % 2 ^ 30 = 0)) stParamRange (o + 0x30),
    img_ (zeroSpan r 0x3C 4) stParamRange (o + 0x3C), img_ (decide (fieldAt r 0x10 6 % 128 = 0)) stParamAlign (o + 0x10),
    img_ (decide (fieldAt r 0x18 6 % 128 = 0)) stParamAlign (o + 0x18), img_ (decide (fieldAt r 0x20 4 % 128 = 0)) stParamAlign (o + 0x20),
    img_ (bit (fieldAt r 8 8) rank) stParamConflict (o + 8),
    img_ (names.all (fun n => decide (fieldAt r 0x24 2 &&& diePorts n.1 = fieldAt r 0x24 2))) stParamConflict (o + 0x24),
    img_ (decide (red = 0 ∨ elem ≠ 3)) stParamConflict (o + 1), img_ (decide (red ≠ 2 ∨ elem = 0)) stParamConflict (o + 2),
    img_ (names.all (fun n => flagged (n.2 + fieldAt r 3 1))) stParamConflict (o + 3)]

def collectiveChecks (img : List Byte) (rank : Nat) : List Check :=
  let sec := section_ img 6
  let names := listNames img
  ((names.map (·.1)).foldl (fun l x => insertOff x l) []).flatMap (fun off =>
    let l := sec.drop off
    let n := fieldAt l 0 2
    let o := secOff img 6 + off
    let by_ := (names.filter (fun e => e.1 == off)).map (·.2)
    if !decide (1 ≤ n ∧ n ≤ 64 ∧ off + 16 + 64 * n ≤ sec.length) then [img_ false stParamRange o]
    else img_ (zeroSpan l 2 14) stParamRange (o + 2) :: (List.range n).flatMap (fun i => collChecks img rank (l.drop (16 + 64 * i)) (o + 16 + 64 * i) by_))

/-! ### The whole -/

/-- R42: the first defect of an image for a context, given the image_bytes of the command (DEDUCED, log entry 60). -/
def imageDefect (s : State) (x : Ctx) (img : List Byte) (given : Nat) : Check :=
  firstFail (headerChecks img given ++ directoryChecks img ++ layoutChecks img ++ bucketChecks img ++ allRowChecks img (x.params.descUnits * granule)
    ++ (tileOffsets img).flatMap (tileChecks img) ++ tableChecks x img ++ gradientChecks img ++ expertChecks img ++ collectiveChecks img s.grp.rank
    ++ [img_ (decide (imgMinPeriod img ≤ s.frames.cfg.periodUs)) stParamConflict 0x10])

/-! ### SCHED_LOAD -/

/-- An accepted image is measured: its header_crc and section CRCs, and each of its tables (Table 16-11) (DEDUCED, log entry 37). -/
def measureImage (s : State) (p : Nat) (img : List Byte) : State :=
  (imageTables img).foldl (fun s r => extendReg s (10 + 3 * p) r)
    (extendReg s (9 + 3 * p) (bytesAt img 0xFC 4 ++ (List.range 7).flatMap (fun n => leBytes (secCrc img n) 4)))

/-- SCHED_LOAD: the image is read and checked when the command starts, and written when it ends (R50, R357) (DEDUCED, log entry 61). -/
def execSchedLoad (h : CmdHdr) (context src imageBytes : Nat) (s : State) : Host.Outcome State Fault Refusal :=
  let i : Instr := .schedLoad h context src imageBytes
  let img := peekObj s h.partition src imageBytes
  runCommand s i h
    [ctxRange context, need (decide (src < 2 ^ 48)) stParamRange 0x28, need (decide (0 < imageBytes)) stParamRange 0x30]
    [ctxOwned s h context, sourceCheck s h src imageBytes]
    [ctxIn s context (fun t => t == .loading || t == .resident), need (unitsWhole s) stUncorrectable,
      withCtx s context (fun x => need (!x.switchPending) stBusy), need (!longPending s (loads context) && !tickPending s (unloads context)) stBusy,
      withCtx s context (fun x => need (decide (imageBytes ≤ x.params.imageUnits * granule)) stNoSpace),
      need (!peekPoison s h.partition src imageBytes) stUncorrectable,
      withCtx s context (fun x => imageDefect s x img imageBytes),
      withCtx s context (fun x => match activeBank x with
        | some b => img_ (decide (imgGeneration img = (b.generation + 1) % 65536)) stParamConflict 0x20
        | none => none)]
    (fun s => acceptLong i h (measureImage (readObj s h.partition src imageBytes).1 h.partition img) img)

/-- The end of SCHED_LOAD: the bank that is not active holds the image, in the control range too (R260), and its switch waits for a tick (R50)
(DEDUCED, log entry 61). -/
def endSchedLoad (s : State) (c : Nat) (img : List Byte) : State × Nat × Nat × Nat :=
  match ctxOf s c with
  | none => (s, 0, 0, 0)
  | some x =>
    let b : Bank := { image := img, generation := imgGeneration img }
    let toB := x.imageActive && !x.activeB
    let x1 := if toB then { x with bankB := some b, switchPending := true } else { x with bankA := some b, switchPending := true }
    (controlWrite (setCtx s c x1) c x (bankBase x toB) img, 0, 0, 0)

/-- Loads and activates one record of section 2 at the tick of its image (R231). -/
def activateRecord (m : SMap TableSlot) (r : List Byte) : SMap TableSlot :=
  mmod TableSlot.reset m (recordSlot r) (fun t =>
    if (activeTable t).isNone then { t with bank0 := some (recordTable r), active := false }
    else if t.active then { t with bank0 := some (recordTable r), active := false }
    else { t with bank1 := some (recordTable r), active := true })

/-- The bank switch at a tick: the image becomes active, with its tables and its synchronisation state (R50, R152, R231) (DEDUCED, log entry 61).
The active halves and the copies that are still due stay as the old image left them (DESIGN CHOICE, log entry 61). -/
def switchBank (s : State) (c : Nat) : State :=
  match ctxOf s c with
  | none => s
  | some x =>
    if !x.switchPending || x.inFlight.isSome then s
    else
      let toB := x.imageActive && !x.activeB
      match if toB then x.bankB else x.bankA with
      | none => setCtx s c { x with switchPending := false }
      | some b =>
        let x1 := { x with activeB := toB, imageActive := true, switchPending := false, spanLost := false, state := if x.state = CtxState.loading then CtxState.resident else x.state }
        startImage (setCtx s c { x1 with tables := (imageTables b.image).foldl activateRecord x1.tables }) c b.image

end Sys2Proof.Machine
end

