-- ==== Sys2Proof/Machine/CmdCodec.lean ====
section
/-! DEFINITION. Machine/CmdCodec.lean: the codec commands (R51, R230, R231, R355). -/

namespace Sys2Proof.Machine

open Sys2Proof

def notDestroying (t : CtxState) : Bool := t != .destroying

/-- Whether section 2 of an image that awaits its switch names a slot (R231), from the moment at which SCHED_LOAD has checked it. -/
def awaitedSlot (s : State) (c : Nat) (x : Ctx) (slot : Nat) : Bool :=
  let names (img : List Byte) : Bool := (imageTables img).any (fun r => recordSlot r == slot)
  (x.switchPending && (match inactiveBank x with | some b => names b.image | none => false)) || s.host.long.any (fun l => loads c l.op && names l.image)

/-- A slot of a context, and a change of it. -/
def tableSlot (x : Ctx) (slot : Nat) : TableSlot := mget TableSlot.reset x.tables slot
def modSlot (s : State) (c slot : Nat) (f : TableSlot → TableSlot) : State := modCtx s c (fun x => { x with tables := mmod TableSlot.reset x.tables slot f })

/-- The bank that the next load of a slot writes: bank 0 of an empty slot, else the inactive bank. -/
def loadBank (t : TableSlot) : Nat := if (activeTable t).isNone then 0 else if t.active then 0 else 1

/-- TABLE_LOAD (DEDUCED, log entry 61). -/
def execTableLoad (h : CmdHdr) (context : Nat) (record : List Byte) (s : State) : Host.Outcome State Fault Refusal :=
  let i : Instr := .tableLoad h context record
  let slot := recordSlot record
  runCommand s i h
    [ctxRange context, match recordDefect record with | some (st, o) => need false st (if st = stBadCrc then noDetail else 0x28 + o) | none => none]
    [ctxOwned s h context]
    [ctxIn s context notDestroying, withCtx s context (fun x => need (!slotBusy (tableSlot x slot) && !awaitedSlot s context x slot) stBusy),
      withCtx s context (fun x => need (match activeTable (tableSlot x slot) with
        | some a => decide ((recordTable record).generation = (a.generation + 1) % 65536) | none => true) stParamConflict 0x2A)]
    (fun s => modSlot (acceptTick i h 1 (extendReg s (10 + 3 * h.partition) record) (match ctxOf s context with | some x => [loadBank (tableSlot x slot)] | none => [])) context slot
      (fun t => { t with pendingLoad := some (recordTable record) }))

/-- The load at its tick. -/
def writeSlot (t : TableSlot) : TableSlot :=
  match t.pendingLoad with
  | none => t
  | some r =>
    if (activeTable t).isNone then { t with bank0 := some r, active := false, pendingLoad := none }
    else if t.active then { t with bank0 := some r, pendingLoad := none }
    else { t with bank1 := some r, pendingLoad := none }

/-- How far ahead of the frame counter a frame lies. -/
def framesAhead (s : State) (frame : Nat) : Nat := (frame + 2 ^ 48 - frameNow s) % 2 ^ 48

/-- TABLE_ACTIVATE. -/
def execTableActivate (h : CmdHdr) (context slot frame : Nat) (s : State) : Host.Outcome State Fault Refusal :=
  let i : Instr := .tableActivate h context slot frame
  let ready (t : TableSlot) : Bool :=
    match activeTable t, (if t.active then t.bank0 else t.bank1) with
    | some a, some b => decide (b.generation = (a.generation + 1) % 65536)
    | _, _ => false
  runCommand s i h
    [ctxRange context, need (decide (slot < 16)) stParamRange 0x21, need (decide (frame < 2 ^ 48 ∧ 2 ≤ framesAhead s frame ∧ framesAhead s frame ≤ 65536)) stParamRange 0x28]
    [ctxOwned s h context]
    [ctxIn s context notDestroying, withCtx s context (fun x => need (ready (tableSlot x slot)) stWrongState),
      withCtx s context (fun x => need ((tableSlot x slot).pendingSwitch.isNone && !awaitedSlot s context x slot) stBusy)]
    (fun s => modSlot (acceptTick i h (framesAhead s frame) s) context slot (fun t => { t with pendingSwitch := some frame }))

/-- The switch at its tick. -/
def turnSlot (t : TableSlot) : TableSlot := { t with active := !t.active, pendingSwitch := none }

/-! ### ENCODE_RANGE -/

/-- Whether every byte of a span lies in plain ranges. -/
def plainSpan (s : State) (a n : Nat) : Bool :=
  (upto (a / granule) ((a + n - 1) / granule + 1 - a / granule)).all (fun g => match rangeAt s (g * granule) with | some r => r.plain | none => false)

/-- ENCODE_RANGE (DEDUCED, log entry 61). -/
def execEncodeRange (h : CmdHdr) (p : EncodeParams) (s : State) : Host.Outcome State Fault Refusal :=
  let i : Instr := .encodeRange h p
  let d := 128 * p.decUnits
  runCommand s i h
    [ctxRange p.context, need (decide (p.format < 16 ∧ p.format ≠ 14)) stParamRange 0x21, need (decide (p.modeReq < 4)) stParamRange 0x22,
      need (decide (p.slot < 16)) stParamRange 0x23, need (decide (1 ≤ p.decUnits ∧ p.decUnits ≤ 64)) stParamRange 0x24,
      need (decide (p.dst % 128 = 0)) stParamAlign 0x38, need (decide (p.count * (p.decUnits + 1) * 128 ≤ p.dstBytes)) stParamRange 0x40,
      need (decide (p.index % 8 = 0)) stParamAlign 0x48]
    [ctxOwned s h p.context, need (ownsSpan s h.partition p.src (p.count * d) && plainSpan s p.src (p.count * d)) stNotPermitted,
      need (ownsSpan s h.partition p.dst p.dstBytes) stNotPermitted, need (ownsSpan s h.partition p.index (8 * p.count)) stNotPermitted]
    [ctxIn s p.context (fun t => t == .resident), need (!(decide (p.modeReq = 2) && (planeParams p.format).isNone)) stParamConflict 0x22] (acceptLong i h)

/-- One block of ENCODE_RANGE: the state, where the next block goes, and how many were poisoned. The packer is cluster 0's
(DESIGN CHOICE, log entry 61). -/
def encodeBlock (x : Actor) (p : EncodeParams) (table : Option CodeTable) (a : State × Nat × Nat) (k : Nat) : State × Nat × Nat :=
  let (s, at_, bad) := a
  let d := 128 * p.decUnits
  let (s1, bs, poison) := readObj s x.owner (p.src + k * d) d
  let req : PackReq := { modeReq := p.modeReq, format := p.format, slot := p.slot, padOk := p.padOk, decUnits := p.decUnits, seq := (p.seqBase + k) % 65536 }
  let cand := bestCand req table bs
  let s2 := if poison then (writeAt s1 x at_ zeroLine true).1 else writeBlock s1 x at_ (blockBytes req cand)
  let s3 := (putPiece x (p.index + 8 * k) { state := s2 } { off := 0, data := leBytes at_ 8, poison := false }).state
  let c := s3.codec
  let s4 := if poison then countErr { s3 with codec := { c with packPoison := c.packPoison + 1 } } x.cluster 5 1
    else countOp { s3 with codec := { c with packed := c.packed + 1 } } x.cluster (25 + cand.mode) 1
  (s4, at_ + (if poison then 128 else 128 * candLines req cand), bad + b2n poison)

/-- The end of ENCODE_RANGE. -/
def endEncodeRange (s : State) (h : CmdHdr) (p : EncodeParams) : State × Nat × Nat × Nat :=
  let x : Actor := { owner := h.partition, cluster := 0, self := none, context := p.context }
  let table := activeTable (mget TableSlot.reset (tablesOf s p.context) p.slot)
  let (s1, at_, bad) := (List.range p.count).foldl (encodeBlock x p table) (s, p.dst, 0)
  (charge s s1 p.context, if bad = 0 then stDone else stPoison, at_ - p.dst, bad)

/-! ### DECODE_CHECK -/

/-- DECODE_CHECK (DEDUCED, log entry 61). -/
def execDecodeCheck (h : CmdHdr) (context walk expectUnits count src : Nat) (s : State) : Host.Outcome State Fault Refusal :=
  let i : Instr := .decodeCheck h context walk expectUnits count src
  runCommand s i h
    [ctxRange context, need (decide (walk < 2)) stParamRange 0x21, need (decide (expectUnits ≤ 64)) stParamRange 0x22,
      need (decide (src % (if walk = 0 then 128 else 8) = 0)) stParamAlign 0x30]
    [ctxOwned s h context, sourceCheck s h src (if walk = 0 then 128 else 8 * count)] [ctxIn s context notDestroying] (acceptLong i h)

/-- The checks of one block, without output: its status (0 passes), and whether the walk ends with it. -/
def checkBlock (tabs : SMap TableSlot) (b : BlockRead) (expect : Nat) (prev : Option Nat) : Nat × Bool :=
  let ok := headerOk tabs b.bytes && (decide (expect = 0) || decide ((blkOf b.bytes).decUnits = expect))
  if b.denied.isSome then (stNotPermitted, true)
  else if b.poison then (stUncorrectable, b.headPoison || !ok)
  else if !ok then (stCheck, true)
  else ((decodeBody tabs (b.bytes.take 32) (payloadOf b.bytes) prev).1, false)

/-- The outcome of DECODE_CHECK so far: the first failing block with its status, and how many failed. -/
abbrev CheckSum := Option (Nat × Nat) × Nat

def noteBlock (a : CheckSum) (k st : Nat) : CheckSum := if st = 0 then a else (a.1.or (some (k, st)), a.2 + 1)

/-- Walk 0: consecutive blocks; a header failure ends it (R236). -/
def checkWalk (x : Actor) (tabs : SMap TableSlot) (expect : Nat) : Nat → State → Nat → Nat → Option Nat → CheckSum → CheckSum
  | 0, _, _, _, _, a => a
  | n + 1, s, k, at_, prev, a =>
    let (s1, b) := readBlock s x at_
    let (st, ends) := checkBlock tabs b expect prev
    let a1 := noteBlock a k st
    if ends then a1
    else checkWalk x tabs expect n s1 (k + 1) (at_ + b.bytes.length) (some (blkOf b.bytes).seq) a1

/-- Walk 1: the blocks of a page list (R180); a pad entry names none. -/
def checkList (s : State) (x : Actor) (tabs : SMap TableSlot) (expect count list : Nat) : CheckSum :=
  let (_, bs, _) := readObj s x.owner list (8 * count)
  (List.range count).foldl (fun a k =>
    let e := fieldAt bs (8 * k) 8
    if bits e 48 15 ≠ 0 then noteBlock a k stParamRange
    else if bit e 63 then a
    else if e % 128 ≠ 0 then noteBlock a k stParamAlign
    else noteBlock a k (checkBlock tabs (readBlock s x (e % 2 ^ 48)).2 expect none).1) (none, 0)

/-- The end of DECODE_CHECK: it changes nothing. -/
def endDecodeCheck (s : State) (h : CmdHdr) (context walk expectUnits count src : Nat) : State × Nat × Nat × Nat :=
  let x : Actor := { owner := h.partition, cluster := 0, self := none, context := context }
  let tabs := tablesOf s context
  let a := if walk = 0 then checkWalk x tabs expectUnits count s 0 src none (none, 0) else checkList s x tabs expectUnits count src
  match a.1 with
  | some (k, st) => (s, st, k, a.2)
  | none => (s, stDone, 0xFFFFFFFF, 0)

end Sys2Proof.Machine
end

