-- ==== Sys2Proof/Machine/Counters.lean ====
section
/-! DEFINITION. Machine/Counters.lean: the counter classes of Table 19-1, their records (R433 to R437), the baseline from which
a virtual function's values count (R435), and the always-on totals (R438). -/

namespace Sys2Proof.Machine

open Sys2Proof

/-! ### Instances and record sizes (Table 19-1) -/

def classInstances : Nat → Nat
  | 0 => 4096 | 1 => 256 | 2 => 256 | 3 => 24 | 4 => 32 | 5 => 19 | 6 => 4096 | _ => 4096

def classRecord : Nat → Nat
  | 0 => 64 | 1 => 256 | 2 => 64 | 3 => 64 | 4 => 64 | 5 => 64 | 6 => 16 | _ => 1120

/-! ### Counters as they stand -/

/-- Counter `i` of an instance of a class 0 to 6; classes 7 and 8 are the engine totals of a cell's mover and of a cluster's
gather engine: four ledger counts, the records written and those overwritten. -/
def counterNow (s : State) (cls inst i : Nat) : Nat :=
  let engine (e : Eng) : Nat :=
    match i with
    | 0 => e.ledger.accepted | 1 => e.ledger.completed | 2 => e.ledger.failed | 3 => e.ledger.cancelled | 4 => e.errTotal | _ => e.overwritten
  match cls with
  | 0 => mget 0 (cellOf s inst).bytes i
  | 1 => mget 0 (clusterOf s inst).ops i
  | 2 => mget 0 (clusterOf s inst).errors i
  | 3 => mget 0 (stackOf s inst).bytes i
  | 4 => mget 0 s.mem.sliceCounts (8 * inst + i)
  | 5 => if inst = 18 then (if i = 0 then s.obs.hostSent else s.obs.hostBytes - s.obs.hostSent) else mget 0 s.mem.linkCounts (8 * inst + i)
  | 6 =>
    let c := cellOf s inst
    (match i with | 0 => c.spCorrected | 1 => c.semOvf | 2 => c.creditOvf | 3 => c.windowFault | _ => c.sameRow)
  | 7 => engine (cellOf s inst).mover
  | _ => engine (clusterOf s inst).gather

/-- Counters that the steps of this model do not determine: row activations of a stack, flits and waits of the viaduct (its replays
apart) and of the host link, and of a port the flits sent, of which no rule says how many are idle, and the waits. They read as free values (log
entry 23). -/
def undetermined (cls inst i : Nat) : Bool :=
  match cls with
  | 3 => decide (i = 4)
  | 5 => decide (2 ≤ i) && ((decide (14 ≤ inst) && (decide (i ≠ 4) || decide (inst = 18))) || decide (i = 2) || decide (4 < i))
  | _ => false

/-- The key under which the baseline holds a counter. -/
def baseKey (cls inst i : Nat) : Nat := (cls * 4096 + inst) * 32 + i

/-- The counters of cells and clusters at a switch-in (R435). -/
def takeBaseline (s : State) : State :=
  let cells := s.cells.map (·.1)
  let clusters := s.clusters.map (·.1)
  let one (cls n : Nat) (insts : List Nat) : SMap Nat :=
    (insts.flatMap (fun k => (List.range n).map (fun i => (baseKey cls k i, counterNow s cls k i)))).filter (fun e => decide (e.2 ≠ 0))
  let b := one 0 8 cells ++ one 1 32 clusters ++ one 2 8 clusters ++ one 6 5 cells ++ one 7 6 cells ++ one 8 6 clusters
  { s with obs := { s.obs with baseline := b } }

/-- A counter as a reader sees it: from module reset, or from the last switch-in. -/
def counterSeen (s : State) (vf : Bool) (cls inst i : Nat) : Nat :=
  counterNow s cls inst i - (if vf then mget 0 s.obs.baseline (baseKey cls inst i) else 0)

/-! ### Records (Tables 19-2 to 19-6, 19-14) -/

/-- A field of a record; the draw serves the counters that are free (DESIGN CHOICE, log entry 23). -/
def counterField (s : State) (vf : Bool) (cls inst : Nat) (i : Nat) : List Byte :=
  leBytes (if undetermined cls inst i then Config.pick (s.freeCount + baseKey cls inst i) else counterSeen s vf cls inst i) 8

/-- A cell fault record. -/
def faultRecord (s : State) (vf : Bool) (inst : Nat) : List Byte :=
  let f (i : Nat) : Nat := counterSeen s vf 6 inst i
  leBytes (min (f 3) 0xFFFF) 2 ++ leBytes (min (f 2) 0xFFFF) 2 ++ leBytes (min (f 1) 0xFFFF) 2 ++ leBytes (min (f 0) 0xFFFF) 2 ++ leBytes (f 4) 4 ++ leBytes 0 4

/-- Whether the error record in slot `i` of a ring was written after the first `t0` records of `total`. -/
def writtenSince (total t0 i : Nat) : Bool := (upto (max t0 (total - 16)) (total - max t0 (total - 16))).any (fun n => n % 16 == i)

/-- One engine's part of a class 7 record; `cls` is 7 for a mover, 8 for a gather engine. -/
def enginePart (s : State) (vf : Bool) (cls inst : Nat) (e : Eng) : List Byte :=
  let t0 := if vf then mget 0 s.obs.baseline (baseKey cls inst 4) else 0
  let n := e.errTotal - t0
  (List.range 16).flatMap (fun i => if writtenSince e.errTotal t0 i then errBytes e i else List.replicate 32 0)
    ++ leBytes (n % 65536 * 65536 + e.errTotal % 16) 8 ++ leBytes (counterSeen s vf cls inst 5) 4 ++ leBytes 0 4
    ++ (List.range 4).flatMap (fun i => leBytes (counterSeen s vf cls inst i % 2 ^ 48) 8)

/-- A count record. -/
def countRecord (s : State) (vf : Bool) (cls inst : Nat) : List Byte :=
  match cls with
  | 6 => faultRecord s vf inst
  | 7 => enginePart s vf 7 inst (cellOf s inst).mover
      ++ (if inst % 16 = 0 then enginePart s vf 8 (inst / 16) (clusterOf s (inst / 16)).gather else List.replicate 560 0)
  | 1 => (List.range 32).flatMap (counterField s vf 1 inst)
  | _ => (List.range 8).flatMap (counterField s vf cls inst)

/-- Marks the error records that a class 7 record copied as read (R437). -/
def markRecord (s : State) (vf : Bool) (inst : Nat) : State :=
  let seen (cls k : Nat) (e : Eng) : Eng :=
    let t0 := if vf then mget 0 s.obs.baseline (baseKey cls k 4) else 0
    { e with errs := e.errs.map (fun p => if writtenSince e.errTotal t0 p.1 then (p.1, { p.2 with read := true }) else p) }
  let s1 := modCell s inst (fun c => { c with mover := seen 7 inst c.mover })
  if inst % 16 = 0 then modCluster s1 (inst / 16) (fun x => { x with gather := seen 8 (inst / 16) x.gather }) else s1

/-- COUNTER_READ. -/
def execCounterRead (h : CmdHdr) (cls first count dst : Nat) (s : State) : Host.Outcome State Fault Refusal :=
  let i : Instr := .counterRead h cls first count dst
  let vf := decide (h.fn ≠ 0)
  let n := count * classRecord cls
  runCommand s i h
    [need (decide (cls < 8)) stParamRange 0x20, need (decide (1 ≤ count) && decide (first + count ≤ classInstances cls)) stParamRange 0x24,
      dstRange s h dst n 0x28]
    [need (!vf || !(decide (3 ≤ cls) && decide (cls ≤ 5))) stNotPermitted, need (!vf || decide (runningPart s = some h.partition)) stNotPermitted,
      dstCheck s h dst n] []
    (immediate i h (fun s =>
      let bs := (upto first count).flatMap (countRecord s vf cls)
      let s1 := writeDst { s with freeCount := s.freeCount + 1 } h dst bs
      (if cls = 7 then (upto first count).foldl (fun s k => markRecord s vf k) s1 else s1, frameNow s, n)))

/-! ### The always-on totals (Table 19-7) -/

/-- The events that HX_ERR_SUM counts, over the whole module, since module reset. -/
def errTotalOf (s : State) (k : Nat) : Nat :=
  if k ≤ 6 then (s.clusters.map (fun e => mget 0 e.2.errors k)).sum
  else (s.cells.map (fun e => match k with | 7 => e.2.windowFault | 8 => e.2.creditOvf | _ => e.2.semOvf)).sum

/-- The HX_UTIL and HX_ERR_SUM registers at a tick; `ran` is whether a row ran in the frame that ended (DEDUCED, log entry 68). -/
def publishTotals (s : State) (ran : Bool) : State :=
  let o := s.obs
  let ops (i : Nat) : Nat := (s.clusters.map (fun e => mget 0 e.2.ops i)).sum
  let sums := (List.range 10).foldl (fun (m : SMap Nat × SMap Nat) k =>
    let t := errTotalOf s k
    (madd m.1 k (t - mget 0 m.2 k), mset 0 m.2 k t)) (o.errSum, o.errSeen)
  { s with obs := { o with
      cellFrames := ops 31, arrayCycles := ops 30, macs := ((List.range 16).map ops).sum
      stackBytes := (s.mem.stackUnits.map (fun e => mget 0 e.2.bytes 0 + mget 0 e.2.bytes 1 + mget 0 e.2.bytes 2 + mget 0 e.2.bytes 3)).sum
      glonyBytes := ((List.range 14).map (fun p => mget 0 s.mem.linkCounts (8 * p))).sum, hostShown := o.hostBytes
      runFrames := o.runFrames + b2n ran, errSum := sums.1, errSeen := sums.2 } }

end Sys2Proof.Machine
end

