-- ==== Sys2Proof/Machine/Residency.lean ====
section
/-! DEFINITION. Machine/Residency.lean: which context runs and which is resident (R59, R166 to R169, R214, R258, R261 to
R267, Table 12-5): choices at a tick, the steps of a switch, eviction and admission, and the steps that end them. -/

namespace Sys2Proof.Machine

open Sys2Proof

/-! ### Runnable contexts (R261) -/

def hasWork (x : Ctx) : Bool := !x.queue.isEmpty || x.inFlight.isSome

/-- Whether the head of a context's step queue holds an accepted step that the context's span still allows (R261, R305). -/
def wantsRun (x : Ctx) : Bool := !x.spanLost && hasWork x

/-- Whether nothing on this module keeps the rows of a context's head step from running. -/
def ableHere (x : Ctx) : Bool := wantsRun x && x.imageActive && !x.reconcile && x.reload.isEmpty && x.change.isNone && !x.degradeDue

/-- Whether every other member reports a group context runnable and no rank of the group is lost, as the keystone knows
(R261, R303); a module outside every group runs no group context (R306) (DEDUCED, log entry 59). -/
def groupReady (s : State) (c : Nat) : Bool :=
  match s.grp.state with
  | .member => true
  | .keystone => s.grp.lost.isEmpty && s.grp.members.all (fun r => r == s.grp.rank || bit (mget 0 s.grp.runnable r) c)
  | _ => false

/-- Whether a domain contains cells. -/
def hasCells (d : Domain) : Bool := decide (d.cls = 0 ∨ d.cls = 1 ∨ d.cls = 4 ∨ d.cls = 5)

/-- Whether hangs and resets leave the cells to a context: no sample is being taken, no reset of more than a slice runs, no
domain with cells is held, no die has failed, and it is not the context whose hang is being cured (R421, R425, R427). -/
def unitsReady (s : State) (c : Nat) : Bool :=
  let h := s.health
  !h.sampling && h.hangAt.isNone && h.resetting.all (fun d => decide (d.cls = 3)) && (match h.hold with | some d => !hasCells d | none => true)
    && decide (mget 0 h.dieState 0 = 0) && decide (mget 0 h.dieState 1 = 0) && !(h.recovering && h.graph.context == c)

/-- Whether a resident context is runnable (R261): what else may hold its rows back does not make it blocked. -/
def runnable (s : State) (c : Nat) (x : Ctx) : Bool := x.state == .resident && wantsRun x && (!x.group || groupReady s c)

/-- Whether this module takes the decisions about a context: those of a group context are the keystone's (R261) (DEDUCED, log entry 59). -/
def decides (s : State) (x : Ctx) : Bool := !x.group || isKeystone s

/-- The step that a context would run next. -/
def headStep (x : Ctx) : Option Step := match x.inFlight with | some t => some t | none => x.queue.head?

/-- The place of a step's command in the order of acceptance (DEDUCED, log entry 42). -/
def acceptedPos (s : State) (x : Ctx) : Nat :=
  match headStep x with | some t => s.host.long.findIdx (fun l => l.hdr == t.hdr) | none => s.host.long.length

/-- Whether context `a` is chosen before context `b` (R262): priority, earliest accepted head step, lowest identifier. -/
def before (s : State) (a b : Nat × Ctx) : Bool :=
  decide (b.2.priority < a.2.priority)
    || (a.2.priority == b.2.priority && (decide (acceptedPos s a.2 < acceptedPos s b.2)
      || (acceptedPos s a.2 == acceptedPos s b.2 && decide (a.1 < b.1))))

/-- The runnable resident context that is chosen first. -/
def bestRunnable (s : State) : Option (Nat × Ctx) :=
  ((residents s).filter (fun e => decides s e.2 && runnable s e.1 e.2)).foldl
    (fun b e => match b with | some y => if before s e y then some e else b | none => some e) none

/-! ### Announcements of a keystone (R261, Table 13-15) -/

/-- A RESIDENCY entry. -/
def residencyEntry (action c frame : Nat) : List Byte := leBytes 3 1 ++ leBytes action 1 ++ leBytes c 2 ++ leBytes frame 6 ++ leBytes 0 6

/-- The keystone of a group announces a decision about a group context for the tick two frames ahead, once. -/
def announceCtx (s : State) (action c : Nat) : State :=
  let f := (frameNow s + 2) % 2 ^ 48
  if s.grp.announced.any (fun a => a.kind == 3 && fieldAt a.entry 1 3 == action + 256 * c) then s
  else { s with grp := { s.grp with announced := s.grp.announced ++ [{ frame := f, kind := 3, entry := residencyEntry action c f }] } }

/-! ### Changes of a context's state at a tick (Table 12-2) -/

/-- The command that waits for an eviction of a context, if there is one. -/
def evictWaits (s : State) (c : Nat) : Bool := longPending s (evictsCtx c)
def endEvict (s : State) (c status bytes : Nat) : State := setLongReply s (fun l => evictsCtx c l.op) status bytes 0

/-- Bytes that an eviction writes to the host: the state and control entries. -/
def evictBytes (x : Ctx) : Nat := ((x.sources.filter (fun e => e.kind == 1 || e.kind == 3)).map (·.size)).sum

/-- A context leaves the stacks: its dirty lines are written back, its entries and its residency slot are released (R266). What was
poisoned is read anew at its admission. -/
def releaseCtx (s : State) (c : Nat) (x : Ctx) : State :=
  let mine (l : CalLine) : Bool := x.sources.any (fun e => lineIn e.base e.size l)
  let s1 := (calInvalidate s mine true).1
  setCtx (unbindEntries s1 c) c { x with state := .evicted, residentSlot := false, change := none, runnableSince := 0, degradedGranules := [], degradeDue := false }

/-- The step at the head of a context's queue ends UNCORRECTABLE (Table 12-2). -/
def endHead (s : State) (c : Nat) (x : Ctx) : State :=
  match x.inFlight, x.queue with
  | some t, _ => account (endStep (setCtx s c { x with inFlight := none }) t stUncorrectable false 0) c acAborted 1
  | none, t :: rest => account (endStep (setCtx s c { x with queue := rest }) t stUncorrectable false 0) c acAborted 1
  | none, [] => s

/-- The change of a context's state that is due at this tick (R258). -/
def changeCtx (s : State) (c : Nat) : State :=
  match ctxOf s c with
  | none => s
  | some x =>
    match x.change with
    | none => s
    | some .evict => setCtx s c { x with state := .evicting, change := none }
    | some .evicted => endEvict (account (releaseCtx s c x) c acEvictions 1) c (if evictWaits s c then doneStatus s (match s.host.long.find? (fun l => evictsCtx c l.op) with | some l => l.accepted | none => 0) else 0) (evictBytes x)
    | some .returned => setCtx s c { x with state := .resident, change := none }
    | some .admitted => account (setCtx s c { x with state := .resident, change := none, stamp := frameNow s }) c acAdmissions 1
    | some .refused => match ctxOf (releaseCtx s c x) c with | some y => endHead (releaseCtx s c x) c y | none => s

/-- A RESIDENT context whose weights cannot be restored enters DEGRADED, and leaves it at a later tick, once no granule is poisoned any more
(R258, R280). -/
def degradeTick (s : State) (c : Nat) : State :=
  match ctxOf s c with
  | none => s
  | some x =>
    if x.degradeDue && x.state == .resident then enterDegraded s c
    else if x.state == .degraded && x.degradedGranules.isEmpty then setCtx s c { x with state := .resident } else s

/-- Every context's change, and the destructions that begin at this tick. -/
def changeCtxs (s : State) : State :=
  let s1 := (allCtxs s).foldl (fun s e => degradeTick (changeCtx s e.1) e.1) s
  s1.host.long.foldl (fun s l => match l.op with | .ctxDestroy _ c _ => beginDestroy s c | _ => s) s1

/-- The stamps of R264 and the order in which contexts that are not resident became runnable. -/
def stampCtx (s : State) (e : Nat × Ctx) : State :=
  let x := e.2
  let run := runnable s e.1 x
  if x.residentSlot then setCtx s e.1 { x with blocked := !run, stamp := if run && x.blocked then frameNow s else x.stamp }
  else setCtx s e.1 { x with runnableSince := if !hasWork x then 0 else if x.runnableSince = 0 then s.frames.ticks else x.runnableSince }

def stampCtxs (s : State) : State := (allCtxs s).foldl stampCtx s

/-! ### Admission (R263) -/

/-- Contexts outside the stacks that are runnable, in the order in which they became so. -/
def waitingCtxs (s : State) : List (Nat × Ctx) :=
  let l := (allCtxs s).filter (fun e => e.2.state == .evicted && wantsRun e.2 && decides s e.2 && (!e.2.group || groupReady s e.1))
  l.foldl (fun (acc : List (Nat × Ctx)) e => acc.filter (fun f => decide (f.2.runnableSince ≤ e.2.runnableSince)) ++ [e] ++ acc.filter (fun f => decide (e.2.runnableSince < f.2.runnableSince))) []

def slotsTaken (s : State) : Nat := (residents s).length + (pendingIds s).length

/-- Residents whose footprint overlaps that of a context. -/
def footprintMeets (x y : Ctx) : Bool := x.sources.any (fun e => y.sources.any (fun f => meets e.base e.size f.base f.size))

def canAdmitCtx (s : State) (x : Ctx) : Bool :=
  decide (slotsTaken s < 8) && (residents s).all (fun e => !footprintMeets x e.2)

/-- A context begins its admission: it takes a slot, and its entries are bound again (R259). -/
def beginAdmission (s : State) (c : Nat) (x : Ctx) : State :=
  bindEntries (setCtx { s with residency := { s.residency with stallMs := mset 0 s.residency.stallMs c 0 } } c { x with state := .admitting, residentSlot := true }) c x.sources

def admitAll (s : State) : State :=
  (waitingCtxs s).foldl (fun s e =>
    match ctxOf s e.1 with
    | some x => if !canAdmitCtx s x then s else if x.group && decide (s.grp.size > 1) then announceCtx s 3 e.1 else beginAdmission s e.1 x
    | none => s) s

/-! ### Eviction under the blocked grace period (R264) -/

/-- Whether every resident context is blocked, and the first waiting context that cannot be admitted. -/
def graceCtx (s : State) : Option (Nat × Ctx) :=
  if (residents s).all (fun e => !runnable s e.1 e.2) then (waitingCtxs s).find? (fun e => !canAdmitCtx s e.2) else none

/-- The residents that stand in the way of a context. -/
def inTheWay (s : State) (x : Ctx) : List (Nat × Ctx) :=
  (residents s).filter (fun e => e.2.state == .resident && (decide (8 ≤ slotsTaken s) || footprintMeets x e.2))

def pinnedCtx (x : Ctx) : Bool := x.pinned || x.unevictable

/-- The blocked candidate that was least recently unblocked, ties to the lower identifier (DEDUCED, log entry 42). -/
def evictionChoice (s : State) (x : Ctx) : Option (Nat × Ctx) :=
  ((inTheWay s x).filter (fun e => !runnable s e.1 e.2 && !pinnedCtx e.2 && !e.2.holdOff && e.2.change.isNone && decides s e.2)).foldl
    (fun b e => match b with | some y => if e.2.stamp < y.2.stamp then some e else b | none => some e) none

/-- The waiting context for whose sake the grace period has elapsed: until it is admitted, no further period is needed. -/
def graceOver (s : State) : Option (Nat × Ctx) :=
  (waitingCtxs s).find? (fun e => s.residency.graceFor == some e.1 && !canAdmitCtx s e.2)

/-- The grace period at a tick: it runs while its condition holds; once it has elapsed, a blocked candidate begins its eviction,
one after the other, until the context is admitted (DEDUCED, log entry 42). -/
def graceTick (s : State) : State :=
  match graceOver s with
  | none => { s with residency := { s.residency with graceRunning := (graceCtx s).isSome, graceFor := none } }
  | some e =>
    if (allCtxs s).any (fun f => f.2.state == .evicting) then s
    else
      match evictionChoice s e.2 with
      | some (c, x) => if x.group && decide (s.grp.size > 1) then announceCtx s 2 c else setCtx s c { x with state := .evicting }
      | none => s

/-! ### The switch (Table 12-5) -/

/-- KEEP lines of the prewarm ranges of a context, at most 8 MiB on each die (R214). -/
def prewarmLine (owner : Nat) (s : State) (line : Nat) : State :=
  match calFind s line with
  | some l => calPut s { l with keep := true } true
  | none => let (s1, d) := agentRead s line []; (calFill s1 line owner true false d true).1

def prewarm (s : State) (c : Nat) : State :=
  match ctxOf s c with
  | none => s
  | some x =>
    let lines := (x.sources.filter (fun e => e.prewarm)).flatMap (fun e => upto (e.base / 128) (e.size / 128))
    charge s (([0, 1].flatMap (fun d => (lines.filter (fun l => dieOf (128 * l) == d)).take 65536)).foldl (prewarmLine x.partition) s) c

/-- Step 4: the outgoing context's cells are saved, its dirty lines written back and their KEEP bits cleared. -/
def switchOut (s : State) (c : Nat) : State :=
  let regs := layoutOf s
  let mine (l : CalLine) : Bool := match rangeAt s (128 * l.line) with | some r => r.context == c | none => false
  let s1 := calClean (saveCells s c) mine true
  let s2 := mapCells (charge s s1 c) (scrubCell regs)
  { s2 with residency := { s2.residency with current := none } }

/-- Step 5: the cells are zeroed where the partition changes (R168); the entries are bound to the incoming context. -/
def handOver (s : State) (c : Nat) : State :=
  match ctxOf s c with
  | none => s
  | some x =>
    let s1 := if s.residency.holder = some x.partition then s else mapCells s zeroCell
    bindEntries { s1 with residency := { s1.residency with holder := some x.partition } } c x.sources

/-- Step 6: the incoming context stands on the cells. -/
def switchIn (s : State) (c : Nat) : State := takeBaseline (reloadResidents (restoreCells { s with residency := { s.residency with current := some c } } c) c)

def setSwitch (s : State) (out inc : Option Nat) (n : Nat) : State := { s with residency := { s.residency with outgoing := out, incoming := inc, switchStep := n } }

/-- Frames of a switch are charged to the outgoing context in steps 2 to 4 and to the incoming one in steps 5 to 7 (DEDUCED, log entry 42). -/
def chargeSwitch (s : State) : State :=
  let r := s.residency
  match if r.switchStep ≤ 4 then r.outgoing else r.incoming with
  | some c => if 2 ≤ r.switchStep then account s c acSwitchFrames 1 else s
  | none => s

/-- One tick of a switch. Steps 1 and 2 wait for the tick after the next; step 4 waits until the outgoing context's work
has run out. A switch without an outgoing context begins at step 5, one without an incoming context ends with step 4. -/
def stepSwitch (s : State) : State :=
  let r := s.residency
  match r.switchStep, r.outgoing, r.incoming with
  | 0, _, _ => s
  | 1, o, i => setSwitch s o i 2
  | 2, o, i => setSwitch s o i 3
  | 3, some c, i => if workIdle s c then setSwitch (switchOut s c) (some c) i 4 else s
  | 3, none, i => setSwitch s none i 4
  | 4, _, none => setSwitch s none none 0
  | 4, o, some c => setSwitch (handOver s c) o (some c) 5
  | 5, o, some c => setSwitch (switchIn s c) o (some c) 6
  | 6, o, some c => setSwitch (prewarm s c) o (some c) 7
  | _, _, _ => setSwitch s none none 0

/-- Whether rows of the running context are issued: not between the stop of one context and the first row of the next. -/
def rowsRun (s : State) : Bool := decide (s.residency.switchStep < 3)

/-- A context comes to cells that no context holds: no switch between two contexts (R267), so it runs from this tick on
(R262). What Table 12-5 gives the incoming context is done at the tick (DEDUCED, log entry 39). -/
def takeCells (s : State) (c : Nat) : State := prewarm (switchIn (handOver s c) c) c

/-- Begins a switch, or lets a context take empty cells (DEDUCED, log entry 39). -/
def beginSwitch (s : State) (inc : Option Nat) : State :=
  match s.residency.current, inc with
  | some c, _ => setSwitch s (some c) inc 1
  | none, some d => takeCells s d
  | none, none => s

/-- The keystone announces a switch between contexts of the group (R261). -/
def announceSwitch (s : State) (c : Nat) (x : Ctx) : State := if x.group && decide (s.grp.size > 1) then announceCtx s 4 c else s

/-- The decision of a tick (R262), and the stop of a running context that is evicted (R266) (DEDUCED, log entry 42). -/
def chooseCtx (s : State) : State :=
  match s.residency.current, bestRunnable s with
  | some c, b =>
    match ctxOf s c with
    | none => s
    | some x =>
      if x.state = .evicting then setSwitch s (some c) none 3
      else if !decides s x then s
      else
        match b with
        | some (d, y) =>
          let free := x.inFlight.isNone || !runnable s c x || decide (x.priority < y.priority)
          if d = c ∨ !free then s
          else
            let s1 := beginSwitch (announceSwitch s d y) (some d)
            if x.group && !y.group && decide (s.grp.size > 1) then announceCtx s1 1 c else s1
        | none => s
  | none, some (d, y) =>
    if y.group && decide (s.grp.size > 1) then setSwitch (announceCtx s 0 d) none (some d) 1 else beginSwitch s (some d)
  | none, none => s

/-- A RESIDENCY decision that takes effect at this tick on a member (Table 13-15) (DEDUCED, log entry 59). -/
def obeyResidency (s : State) (action c : Nat) : State :=
  match ctxOf s c with
  | none => s
  | some x =>
    match action with
    | 1 => if s.residency.current = some c then setSwitch s (some c) none 3 else s
    | 2 => if x.state = .resident then setCtx s c { x with state := .evicting } else s
    | 3 => if x.state = .evicted then beginAdmission s c x else s
    | _ =>
      if s.residency.current = some c ∨ s.residency.incoming = some c then s
      else
        match s.residency.current with
        | some d => setSwitch s (some d) (some c) 3
        | none => setSwitch s none (some c) 3

/-- Action 3 of Table 2-1. -/
def residencyTick (s : State) : State :=
  let s1 := graceTick (admitAll (stampCtxs (changeCtxs s)))
  let s2 := chargeSwitch s1
  if s2.residency.switchStep = 0 then chooseCtx s2 else stepSwitch s2

/-! ### The steps of the residency family -/

/-- BLOCKED_GRACE_EXPIRY: for the sake of the first waiting context, the manager may evict from the next tick on. -/
def execBlockedGraceExpiry (s : State) : Host.Outcome State Fault Refusal :=
  match if s.residency.graceRunning then graceCtx s else none with
  | some e => .next { s with residency := { s.residency with graceFor := some e.1 } }
  | none => .next s

/-- Whether a context waits because every resident context is blocked and every one that stands in its way is pinned (R264). -/
def stalled (s : State) (c : Nat) (x : Ctx) : Bool :=
  x.state == .evicted && wantsRun x && !canAdmitCtx s x && ((residents s).all (fun e => !runnable s e.1 e.2) || s.residency.graceFor == some c)
    && !(inTheWay s x).isEmpty && (inTheWay s x).all (fun e => !runnable s e.1 e.2 && pinnedCtx e.2)

/-- RESIDENCY_STALL: while a context is stalled, the event is raised again (DEDUCED, log entry 42). -/
def execResidencyStall (context : Nat) (s : State) : Host.Outcome State Fault Refusal :=
  match ctxOf s context with
  | none => .next s
  | some x =>
    if stalled s context x then
      let ms := mget 0 s.residency.stallMs context + 100
      let s1 := { s with residency := { s.residency with stallMs := mset 0 s.residency.stallMs context ms } }
      .next (raiseEvent s1 (x.partition + 1) 0x8001 x.partition context (leBytes ms 4 ++ leBytes (inTheWay s x).length 1))
    else .next { s with residency := { s.residency with stallMs := mset 0 s.residency.stallMs context 0 } }

/-- EVICTION_HOLD_EXPIRY. -/
def execEvictionHoldExpiry (context : Nat) (s : State) : Host.Outcome State Fault Refusal :=
  .next (modCtx s context (fun x => { x with holdOff := false }))

/-- A host write of an eviction fails or stays unanswered (R266): the context returns at the next tick; the command ends,
or the event is raised and the context is left out of the choice for a while. -/
def evictionFails (s : State) (c entry : Nat) : State :=
  match ctxOf s c with
  | none => s
  | some x =>
    if x.state ≠ .evicting then s
    else if evictWaits s c then endEvict (setCtx s c { x with change := some .returned }) c stTimeout 0
    else
      let d := leBytes (match x.sources[entry]? with | some e => e.host | none => 0) 6
      let s1 := setCtx s c { x with change := some .returned, holdOff := true }
      raiseEvent (raiseEvent s1 (x.partition + 1) 0x8008 x.partition c d) 0 0x8008 x.partition c d

/-- Writes an entry to its host source line by line, poisoned lines as zeros; none where the host refuses (DEDUCED, log entry 42). -/
def entryOut (s : State) (part : Nat) (e : SourceEntry) : Option State :=
  match hostTarget s part e.host e.size true with
  | none => none
  | some _ =>
    some ((upto (e.base / 128) (e.size / 128)).foldl (fun s l =>
      let (s1, d) := classBRead s l
      hostWriteDev s1 part (e.host + 128 * l - e.base) (if d.poison then zeroLine else d.data)) (calClean s (lineIn e.base e.size) false))

/-- Runs over entries until one fails; gives the index of that one. -/
def overEntries (f : State → SourceEntry → Option State) : List (SourceEntry × Nat) → State → State × Option Nat
  | [], s => (s, none)
  | e :: t, s => match f s e.1 with | some s1 => overEntries f t s1 | none => (s, some e.2)

/-- EVICTION_COMPLETE: the footprint's dirty lines are written back, and every state and control entry is written to the host; the context is
EVICTED at the next tick. -/
def execEvictionComplete (context : Nat) (s : State) : Host.Outcome State Fault Refusal :=
  match ctxOf s context with
  | none => .next s
  | some x =>
    if x.state ≠ .evicting ∨ x.change.isSome ∨ s.residency.current = some context then .next s
    else
      let s0 := calClean (storePages s context) (fun l => x.sources.any (fun e => lineIn e.base e.size l)) false
      match overEntries (fun s e => entryOut s x.partition e) (x.sources.zipIdx.filter (fun e => e.1.kind == 1 || e.1.kind == 3)) s0 with
      | (s1, none) => .next (modCtx (charge s s1 context) context (fun x => { x with change := some .evicted }))
      | (s1, some k) => .next (evictionFails s1 context k)

/-- Reads an entry back and checks its blocks (R266): a weights entry outside plain ranges from its start on; a state entry
at its OWNED pages, the places of its blocks that the device knows (DEDUCED, log entry 42). An entry on a stack that is out of service
fails (R282). -/
def entryIn (c : Nat) (x : Ctx) (s : State) (e : SourceEntry) : Option State :=
  if (stackOf s (stackNo e.base)).state = .outOfService then none
  else if e.kind = 2 then some (zeroRange s e.base e.size)
  else
    match restoreSpan s x.partition c e.landing e.host e.base e.size with
    | none => none
    | some s1 =>
      let act : Actor := { owner := x.partition, cluster := 0, self := none, context := c }
      if e.kind = 0 ∧ !e.plain then
        match walkBlocks act x.tables (e.size / 128) s1 e.base e.base (e.base + e.size) with | (s2, none) => some s2 | (_, some _) => none
      else if e.kind = 1 then
        let mine := x.pages.filter (fun g => g.mapped && g.state == .owned && decide (e.base ≤ g.frame) && decide (g.frame < e.base + e.size))
        mine.foldl (fun (o : Option State) g => match o with
          | some s => (match walkBlocks act x.tables 1 s g.frame g.frame (g.frame + 1) with | (s2, none) => some s2 | (_, some _) => none)
          | none => none) (some s1)
      else some s1

/-- ADMISSION_COMPLETE: every entry is read back and checked; the context is RESIDENT at the next tick, or EVICTED again
with the step at its queue's head ending UNCORRECTABLE (DEDUCED, log entry 42). -/
def execAdmissionComplete (context : Nat) (s : State) : Host.Outcome State Fault Refusal :=
  match ctxOf s context with
  | none => .next s
  | some x =>
    if x.state ≠ .admitting ∨ x.change.isSome then .next s
    else
      match overEntries (entryIn context x) x.sources.zipIdx s with
      | (s1, none) => .next (modCtx (charge s s1 context) context (fun x => { x with change := some .admitted }))
      | (s1, some _) => .next (modCtx s1 context (fun x => { x with change := some .refused }))

/-- HOST_ACCESS_TIMEOUT: what the end of a host access without success means (R266, R280). -/
def execHostAccessTimeout (access : HostAccess) (context entry : Nat) (s : State) : Host.Outcome State Fault Refusal :=
  match access with
  | .eviction => .next (evictionFails s context entry)
  | .admission => .next (modCtx s context (fun x => if x.state = .admitting then { x with change := some .refused } else x))
  | .reload => .next (modCtx s context (fun x => if x.reload.isEmpty then x else degradeCtx { x with reload := [] } (x.reload.map granuleOf).eraseDups))

end Sys2Proof.Machine
end

