-- ==== Sys2Proof/Machine/Reset.lean ====
section
/-! DEFINITION. Machine/Reset.lean: what a module reset and a loss of module power leave (R6, R32, R364, R392, R425, R429,
R456, R459, R464), and the alerts of the management microcontroller (R462, R463). -/

namespace Sys2Proof.Machine

open Sys2Proof

/-! ### Alerts (Table 20-8) -/

/-- A bit of HX_MC_ALERT is set; a bit that was clear raises an in-band interrupt (R463) (DESIGN CHOICE, log entry 64). -/
def setAlert (s : State) (i : Nat) (holds : Bool) : State :=
  let m := s.mgmt
  let one : BitVec 32 := BitVec.ofNat 32 (2 ^ i)
  let next := m.alert ||| one
  let ring := if next = m.alert then m.interrupts else m.interrupts ++ [next.truncate 8]
  { s with mgmt := { m with alert := next, alertHold := if holds then m.alertHold ||| one else m.alertHold &&& ~~~one, interrupts := ring } }

/-- The condition of an alert ends; its bit stays until it is cleared. -/
def endAlert (s : State) (i : Nat) : State := { s with mgmt := { s.mgmt with alertHold := s.mgmt.alertHold &&& ~~~(BitVec.ofNat 32 (2 ^ i)) } }

/-- ALERT_N and THRM_OUT_N are asserted (R462); without 12V_AUX no output is driven (R460). -/
def alertAsserted (s : State) : Bool := s.mgmt.auxOk && decide (s.mgmt.alert ≠ 0)
def thrmAsserted (s : State) : Bool :=
  s.mgmt.auxOk && (dieLimited s.power || (List.range 24).any (fun k => (stackOf s k).limited) || s.power.thrmLatched)

/-! ### What survives -/

/-- The memory system after a module reset: the stacks' lines until the boot writes them (R470); the spare map comes back from the journal
at boot (R32). -/
def keepMemory (m : Memory) : Memory := { bytes := m.bytes, lines := m.lines }

/-- The power controller after a module reset: readings and the lines' levels as they are. -/
def keepPower (p : Power) : Power :=
  { inputW := p.inputW, inputCentiV := p.inputCentiV, dieTemps := p.dieTemps, stackTemps := p.stackTemps, lineLow := p.lineLow }

/-- A module reset begins (R425, R429): everything below the rails at its reset value, but for the flash, the host's memory and the management microcontroller. The number of the key drawn last goes on, so that no boot draws an earlier boot's key (R470). `cause` is as HX_HEALTH_STATUS codes it (DEDUCED, log entries 45 and 46). -/
def resetModule (s : State) (cause : Nat) : State :=
  { State.reset with
    pending := s.pending
    freeCount := s.freeCount + 2
    now := s.now
    flash := stoppedFlash s
    rot := { ({} : Rot) with keyGen := s.rot.keyGen }
    mem := keepMemory s.mem
    host := { ({} : HostIf) with mem := s.host.mem, nextRing := s.host.nextRing }
    power := keepPower s.power
    health := { ({} : Health) with moduleResetCause := cause }
    mgmt := { s.mgmt with inReset := true, temp := none } }

/-- Loss of module power: a module reset of which no DRAM content is left; the rails after AUX_3V3 fall (R391) (DEDUCED, log entry 51). -/
def losePower (s : State) (p : PowerState) : State :=
  let s1 := resetModule s 0
  { s1 with mem := { s1.mem with bytes := [], lines := [] }, mgmt := { s1.mgmt with powerState := p, railsUp := min s1.mgmt.railsUp 1 } }

/-- The module is powered down and stays off until a reset-length RST_IN_N (R392, R393, R407, R426) (DEDUCED, log entry 51). -/
def latchOff (s : State) (alert : Nat) : State := setAlert (losePower s .latched) alert true

/-- The rails come up in their order (R391, Table 20-5). -/
def raiseRails (s : State) : State := { s with mgmt := { s.mgmt with powerState := .on, railsUp := 10 } }

end Sys2Proof.Machine
end

