-- ==== Sys2Proof/Machine/Power.lean ====
section
/-! DEFINITION. Machine/Power.lean: estimates, the cap loop, calibration and energy (R284, R394 to R408), the brake, thermal
control, sensors and the input supply (R391 to R393, R404 to R407, R456, R458, R462 to R464). -/

namespace Sys2Proof.Machine

open Sys2Proof

/-- Whether the module is powered and out of reset, so that its power controller works. -/
def alive (s : State) : Bool := s.mgmt.powerState == .on && !s.mgmt.inReset

/-! ### Activity and estimates (R398) -/

/-- The running total of an activity counter of a domain: operations of the clusters of a die, bytes of the stacks, bytes
and flits of the links. -/
def activityTotal (s : State) (d i : Nat) : Nat :=
  match d with
  | 0 => ((s.clusters.filter (fun e => decide (e.1 < 128))).map (fun e => mget 0 e.2.ops i)).sum
  | 1 => ((s.clusters.filter (fun e => decide (128 ≤ e.1))).map (fun e => mget 0 e.2.ops i)).sum
  | 2 => (s.mem.stackUnits.map (fun e => mget 0 e.2.bytes i)).sum
  | 3 => ((List.range 19).map (fun l => mget 0 s.mem.linkCounts (8 * l + i))).sum
  | _ => 0

/-- The counters of a domain: 32 of each die's clusters, 8 of the stacks and of the links. -/
def counterSlots (d : Nat) : Nat := if d < 2 then 32 else if d < 4 then 8 else 0

/-- The counters of a domain over the last frame. -/
def lastActivity (p : Power) (d : Nat) : List Nat := (List.range (counterSlots d)).map (fun i => mget 0 p.activity (32 * d + i))

/-- At a tick: the counters of the frame that ends; the totals stand 256 places above them. -/
def countActivity (s : State) : State :=
  let slots := (List.range 4).flatMap (fun d => (List.range (counterSlots d)).map (fun i => (d, i)))
  let act := slots.foldl (fun (m : SMap Nat) e =>
    let k := 32 * e.1 + e.2
    let t := activityTotal s e.1 e.2
    mset 0 (mset 0 m k (t - mget 0 m (256 + k))) (256 + k) t) s.power.activity
  modPower s (fun p => { p with activity := act })

/-- The hottest sensor that a domain's leakage is taken at. -/
def domainTemp (p : Power) (d : Nat) : Int :=
  match d with
  | 0 => hottest (p.dieTemps.take 16)
  | 1 => hottest (p.dieTemps.drop 16)
  | 2 => hottest p.stackTemps
  | _ => hottest p.dieTemps

/-- An estimate with the gain of R399. -/
def withGain (p : Power) (w : Nat) : Nat := (p.gainPpm + 1000000).toNat * w / 1000000

/-- The compute counters scaled to the coming row's budget. -/
def scaled (p : Power) (budget : Nat) (l : List Nat) : List Nat := if p.lastBudget = 0 then l else l.map (fun c => c * budget / p.lastBudget)

/-- est(d, p) for the coming row (DESIGN CHOICE, log entry 15). -/
def estAt (s : State) (budget d point : Nat) : Nat :=
  let l := lastActivity s.power d
  withGain s.power (Config.powerEst d point (if d < 2 then scaled s.power budget l else l) (domainTemp s.power d))

/-- The estimate of a domain for the frame that ended, at the point at which it ran (DESIGN CHOICE, log entry 15). -/
def frameEst (s : State) (d : Nat) : Nat :=
  let point := if d < 2 then s.frames.applied else if d = 2 then s.mem.memPoint else if d = 3 then s.power.linkPoint else 0
  withGain s.power (Config.powerEst d point (lastActivity s.power d) (domainTemp s.power d))

/-! ### The cap loop (R400, R401) -/

def effectiveLimit (p : Power) : Nat := if braked p then min p.cap 1400 else p.cap

/-- The estimate of a domain by its code: 0 compute of both dies, 1 memory, 2 links. -/
def codeEst (s : State) (budget code point : Nat) : Nat :=
  match code with
  | 0 => estAt s budget 0 point + estAt s budget 1 point
  | 1 => estAt s budget 2 point
  | _ => estAt s budget 3 point

/-- Whether the viaduct may change its width in the coming frame (R396). -/
def viaductMayTurn (s : State) (at_ : Nat) : Bool := decide (s.mem.viaductChangedAt = 0) || decide (s.mem.viaductChangedAt + 100000000 ≤ at_)

/-- Whether a quarter and direction of the viaduct has lost more lanes than its 8 spares stand in for: it then runs at half width (Table 1-8). -/
def viaductShort (s : State) : Bool := s.mem.viaductLanes.any (fun e => decide (8 < e.2))

/-- The fastest link point that R396 allows in the coming frame. -/
def fastestLink (s : State) (at_ : Nat) : Nat := if viaductShort s || (s.mem.viaductHalf && !viaductMayTurn s at_) then 2 else 0

/-- The next slower point of a domain that R396 allows. -/
def slower (s : State) (at_ code point : Nat) : Option Nat :=
  match code with
  | 0 => if point < 7 then some (point + 1) else none
  | 1 => if point < 2 then some (point + 1) else none
  | _ => if point = 0 then some 1 else if point = 1 && (s.mem.viaductHalf || viaductMayTurn s at_) then some 2 else none

/-- Cuts one domain while there is excess and it is not at its slowest point (DEDUCED, log entry 48). -/
def cutDomain (s : State) (at_ budget code : Nat) : Nat → Int → Nat → Int × Nat
  | 0, ex, p => (ex, p)
  | fuel + 1, ex, p =>
    if ex ≤ 0 then (ex, p)
    else
      match slower s at_ code p with
      | none => (ex, p)
      | some q => cutDomain s at_ budget code fuel (ex - ((codeEst s budget code p : Int) - codeEst s budget code q)) q

/-- The points of a frame: compute, memory, links; the issue duty in eighths; the excess that remains. -/
structure Points where
  compute : Nat
  memory : Nat
  links : Nat
  duty : Nat
  excess : Int
  deriving DecidableEq, Repr

def Points.of (x : Points) (code : Nat) : Nat := match code with | 0 => x.compute | 1 => x.memory | _ => x.links
def Points.set (x : Points) (code p : Nat) (ex : Int) : Points :=
  match code with
  | 0 => { x with compute := p, excess := ex }
  | 1 => { x with memory := p, excess := ex }
  | _ => { x with links := p, excess := ex }

/-- What the loop has left over the budget at a choice of points. -/
def excessAt (s : State) (budget : Nat) (x : Points) : Int :=
  (codeEst s budget 0 x.compute + codeEst s budget 1 x.memory + codeEst s budget 2 x.links + estAt s budget 4 0 : Int) - effectiveLimit s.power

/-- The issue duty that brings the compute estimate down by an excess, in whole eighths, at least one (DEDUCED, log entry 48). -/
def dutyFor (est : Nat) (ex : Int) : Nat := if ex ≤ 0 then 8 else max 1 (min 8 ((((est : Int) - ex) * 8 / est).toNat))

/-- R401 for the required point of the coming row (DEDUCED, log entry 48). -/
def capLoop (s : State) (at_ budget required : Nat) : Points :=
  let start := { compute := max required s.power.thermalPoint, memory := s.power.thermalMem
                 links := fastestLink s at_, duty := 8, excess := 0 : Points }
  let x := [s.power.order2, s.power.order1, s.power.order0].foldl (fun (x : Points) code =>
    let (ex, p) := cutDomain s at_ budget code 8 x.excess (x.of code)
    x.set code p ex) { start with excess := excessAt s budget start }
  { x with duty := dutyFor (codeEst s budget 0 x.compute) x.excess }

/-- A catch-up frame: one point faster where that costs no other domain anything (DEDUCED, log entry 48). -/
def catchUpPoints (s : State) (budget required : Nat) (x : Points) : Points :=
  let y := { x with compute := max (required - 1) s.power.thermalPoint }
  let ex := excessAt s budget y
  if ex ≤ 0 ∧ x.duty = 8 then { y with excess := ex } else x

/-- The required point of a row (R37): the slowest of F7 to F1 at which its budget fits the usable time. -/
def requiredPoint (s : State) (budget : Nat) : Nat :=
  let usable := s.frames.cfg.periodUs * 1000 - 2000
  (([7, 6, 5, 4, 3, 2, 1] : List Nat).find? (fun p => decide (budget * 1000 ≤ usable * pointMhz p))).getD 1

/-! ### Energy (R284, R408) -/

/-- Adds energy to a context and to its partition, and to what is accounted. -/
def addEnergy (s : State) (c n : Nat) : State :=
  let s1 := account s c acEnergy n
  modPower s1 (fun p => { p with ctxEnergyMj := p.ctxEnergyMj + n, calEst := p.calEst + n, calShare := madd p.calShare c n })

/-- Shares out energy by weights; all of it to the first where every weight is zero (DESIGN CHOICE, log entry 15). -/
def shareEnergy (s : State) (mj : Nat) (l : List (Nat × Nat)) : State :=
  let total := (l.map (·.2)).sum
  if total = 0 then (match l with | e :: _ => addEnergy s e.1 mj | [] => s)
  else l.foldl (fun s e => addEnergy s e.1 (mj * e.2 / total)) s

/-- The bytes of a context's footprint (DEDUCED, log entry 49). -/
def footprint (x : Ctx) : Nat := (x.sources.map (·.size)).sum

/-- The bytes that a context has moved since the last tick. -/
def bytesMoved (x : Ctx) : Nat := ((upto acStackRead 82).map (fun i => mget 0 x.acct i - mget 0 x.acctTick i)).sum

/-- The energy of the frame that ended, in millijoules at most rounded down, attributed under R284 (DESIGN CHOICE, log entry 15; DEDUCED, log entry 49). -/
def attributeEnergy (s : State) (ns : Nat) : State :=
  let mj (d : Nat) : Nat := frameEst s d * ns / 1000000
  let compute := mj 0 + mj 1
  let moved := mj 2 + mj 3
  let res := (residents s).map (fun e => (e.1, footprint e.2))
  let s1 := { s with power := { s.power with est := (List.range 5).foldl (fun m d => mset 0 m d (frameEst s d)) s.power.est } }
  match s.frames.running with
  | none => shareEnergy s1 (compute + moved + mj 4) res
  | some r =>
    let bytes := ((allCtxs s).map (fun e => (e.1, bytesMoved e.2))).filter (fun e => decide (e.2 ≠ 0))
    let s2 := addEnergy s1 r.context compute
    let s3 := if bytes.isEmpty then addEnergy s2 r.context moved else shareEnergy s2 moved bytes
    let part := (allCtxs s).map (fun e => (e.1, mget 0 s3.power.calShare e.1 - mget 0 s.power.calShare e.1))
    shareEnergy s3 (mj 4) (part.filter (fun e => decide (e.2 ≠ 0)))

/-- Corrects a context's energy by a signed amount (DEDUCED, log entry 49). -/
def correctEnergy (s : State) (c : Nat) (d : Int) : State :=
  let fix (m : SMap Nat) : SMap Nat := mmod 0 m acEnergy (fun v => ((v : Int) + d).toNat)
  match ctxOf s c with
  | none => s
  | some x => modPower (modPart (setCtx s c { x with acct := fix x.acct }) x.partition (fun p => { p with acct := fix p.acct }))
      (fun p => { p with ctxEnergyMj := ((p.ctxEnergyMj : Int) + d).toNat })

/-- The difference of an interval goes to the contexts as their shares of it were, or to the firmware domain when no
context exists (DEDUCED, log entry 49). -/
def attributeDifference (s : State) (d : Int) : State :=
  let total := (s.power.calShare.map (·.2)).sum
  if (allCtxs s).isEmpty then modPart s 8 (fun p => { p with acct := mmod 0 p.acct acEnergy (fun v => ((v : Int) + d).toNat) })
  else if total = 0 then (match allCtxs s with | e :: _ => correctEnergy s e.1 d | [] => s)
  else s.power.calShare.foldl (fun s e => correctEnergy s e.1 (d * e.2 / total)) s

/-- Whether a long command is CALIBRATE. -/
def isCalibrate : Instr → Bool | .calibrate _ => true | _ => false
def isMargin : Instr → Bool | .marginRun _ _ _ _ => true | _ => false

/-- The gain after an interval with a measured and an estimated energy: clamped to 0.80 and 1.25. Of an interval with no
estimate the spec states no quotient; the gain is then a free value within the clamp (log entry 15). -/
def nextGain (p : Power) (measured draw : Nat) : Int :=
  if p.calEst = 0 then 800000 + (draw % 450001 : Nat) - 1000000
  else max 800000 (min 1250000 ((p.gainPpm + 1000000) * measured / p.calEst)) - 1000000

/-- CALIBRATION: `measured` millijoules in the interval that ends. It ends the interval of a CALIBRATE in progress. -/
def execCalibration (measured : Nat) (s : State) : Host.Outcome State Fault Refusal :=
  if !alive s then .next s
  else
    let g := nextGain s.power measured (Config.pick s.freeCount)
    let s1 := attributeDifference { s with freeCount := s.freeCount + 1 } ((measured : Int) - s.power.calEst)
    let s2 := modPower s1 (fun p => { p with gainPpm := g, energyMj := p.energyMj + measured, inputW := measured / 10, calEst := 0, calShare := [] })
    .next (setLongReply s2 (fun l => isCalibrate l.op) stDone (unsigned 64 g) 0)

/-! ### Points at a tick -/

/-- The ceilings of a frame: free below each domain's maximum (Table 17-2) (DESIGN CHOICE, log entry 15). -/
def setCeilings (s : State) : State :=
  let maxima : List Nat := [1050, 1050, 1150, 280, 250]
  { s with freeCount := s.freeCount + 1
           power := { s.power with ceilings := (maxima.zipIdx.map (fun e => (e.2, Config.powerCeiling s.freeCount e.2 % (e.1 + 1)))).filter (fun e => decide (e.2 ≠ 0)) } }

/-- thermal_point and thermal_mem_point at a tick (Table 17-7) (DEDUCED, log entry 50). -/
def thermalTick (s : State) : State :=
  let p := s.power
  let tp := if dieLimited p then 7 else if decide (1000 ≤ hottest p.dieTemps) then min 7 (p.thermalPoint + 1) else p.thermalPoint
  modPower s (fun p => { p with thermalPoint := tp, thermalMem := if (List.range 24).any (fun k => (stackOf s k).limited) then 2 else 0 })

/-- Action 4's power decision for the coming row, at a time in ns. A frame without a row has no budget: it keeps the last
required point, and its estimates are not scaled (DEDUCED, log entries 40 and 48). `permit` says in which ports the coming frame's windows let
the width be narrow (R293). -/
def powerTick (s : State) (at_ ns : Nat) (due : Option Nat) (permit : Nat → Bool) : State :=
  let budget := due.getD s.power.lastBudget
  let s1 := thermalTick (attributeEnergy (countActivity s) ns)
  let req := match due with | some b => requiredPoint s1 b | none => s1.frames.required
  let x := capLoop s1 at_ budget req
  let y := if s1.frames.catchUp then catchUpPoints s1 budget req x else x
  let limiting := decide (req < y.compute) || decide (y.duty < 8)
  let half := decide (y.links = 2)
  let s2 := { s1 with
    mem := { s1.mem with memPoint := y.memory, viaductHalf := half, viaductChangedAt := if half = s1.mem.viaductHalf then s1.mem.viaductChangedAt else at_ }
    frames := { s1.frames with required := req, applied := y.compute } }
  let s3 := (s2.ports.map (·.1)).foldl (widthTick y.links permit) s2
  setCeilings (modPower s3 (fun p =>
    { p with
      permitted := y.compute, linkPoint := y.links, dutyEighths := if dieLimited p then min y.duty 2 else y.duty
      droopHalf0 := false, droopHalf1 := false, diePoint0 := y.compute, diePoint1 := y.compute, capLimiting := limiting
      caplimCnt := p.caplimCnt + b2n limiting, throttleCnt := p.throttleCnt + b2n (decide (req < p.thermalPoint)), admissionPct := 100, lastBudget := budget }))

/-! ### Droop (R404) -/

/-- DROOP: the die's clock steps down one point, or at F7 its issue duty halves, until the next tick (DEDUCED, log entry 48). -/
def execDroop (die : Nat) (s : State) : Host.Outcome State Fault Refusal :=
  if 2 ≤ die then .refused (.noSuchUnit "die")
  else if !alive s then .next s
  else
    let step (p : Power) : Power :=
      if die = 0 then (if p.diePoint0 < 7 then { p with diePoint0 := p.diePoint0 + 1 } else { p with droopHalf0 := true })
      else if p.diePoint1 < 7 then { p with diePoint1 := p.diePoint1 + 1 } else { p with droopHalf1 := true }
    .next { modPower s step with frames := { s.frames with droopStep := true, droopCnt := s.frames.droopCnt + 1 } }

/-! ### The brake (R405, R406, R393) -/

/-- The POWER_BRAKED event. -/
def brakeEvent (s : State) (on : Bool) : State := raiseEvent s 0 stBraked 8 0xFFFF (leBytes (b2n on) 1 ++ leBytes (b2n s.power.alarmStuck) 1)

/-- Brake ceilings (Table 17-6 step 5): 400 W for both dies' compute, 470, 280 and 250 W. How the 400 W are shared between
the dies is free (log entry 15). -/
def brakeCeilings (n : Nat) : SMap Nat :=
  let a := Config.powerCeiling n 0 % 401
  [(0, a), (1, 400 - a), (2, 470), (3, 280), (4, 250)].filter (fun e => decide (e.2 ≠ 0))

/-- A cause of braking begins (Table 17-6). A CALIBRATE or MARGIN_RUN in progress ends with POWER_BRAKED (DEDUCED, log entry 51). -/
def beginBrake (s : State) (pin uv : Bool) : State :=
  let p := s.power
  let fresh := !braked p
  let new := (pin && !p.brakePin) || (uv && !p.brakeUv)
  let s1 := modPower s (fun p => { p with brakePin := p.brakePin || pin, brakeUv := p.brakeUv || uv, brakeCnt := p.brakeCnt + b2n new, alarmBrake := p.alarmBrake || new })
  if !fresh then s1
  else
    let s2 := modPower { s1 with freeCount := s1.freeCount + 1 } (fun p => { p with dutyEighths := 1, admissionPct := 25, ceilings := brakeCeilings s1.freeCount })
    let s3 := setLongReply (setAlert s2 3 true) (fun l => isCalibrate l.op || isMargin l.op) stBraked 0 0
    brakeEvent s3 true

/-- A cause of braking ends; the brake releases with the last one. -/
def releaseBrake (s : State) (pin uv : Bool) : State :=
  let s1 := modPower s (fun p => { p with brakePin := p.brakePin && !pin, brakeUv := p.brakeUv && !uv })
  if braked s.power && !braked s1.power then brakeEvent (endAlert s1 3) false else s1

/-- PWRBRK_N_ASSERT: an assertion that began at `at_` and has lasted `durationNs` (DEDUCED, log entry 51). -/
def execPwrbrkAssert (at_ durationNs : Nat) (s : State) : Host.Outcome State Fault Refusal :=
  if durationNs < 1000 then .next s
  else
    let s1 := modPower { s with now := max s.now at_ } (fun p => { p with lineLow := true })
    if !alive s then .next s1
    else
      let again := match s.power.lastAssert with | some t => decide (at_ < t + 1000000) | none => false
      .next (beginBrake (modPower s1 (fun p => { p with toggle := p.toggle || again, lastAssert := some at_ })) true false)

/-- BRAKE_RELEASE: the line has been deasserted for `deassertedNs` without a break. -/
def execBrakeRelease (deassertedNs : Nat) (s : State) : Host.Outcome State Fault Refusal :=
  if deassertedNs < (if s.power.toggle then 5000000 else 1000000) then .next s
  else
    let s1 := endAlert (modPower s (fun p => { p with lineLow := false, toggle := false })) 4
    .next (if alive s then releaseBrake s1 true false else modPower s1 (fun p => { p with brakePin := false }))

/-- STUCK_LINE_ALARM: the line has been asserted for 1 s. -/
def execStuckLineAlarm (s : State) : Host.Outcome State Fault Refusal :=
  if alive s && s.power.lineLow then .next (setAlert (modPower s (fun p => { p with alarmStuck := true })) 4 true) else .next s

/-! ### The input supply (R392, R393, R453, R456, R458, R464) -/

def readInput (s : State) (centivolts : Nat) : State :=
  { s with power := { s.power with inputCentiV := centivolts }
           mgmt := { s.mgmt with mainInRange := decide (5800 ≤ centivolts) && decide (centivolts ≤ 6800) } }

/-- INPUT_UNDERVOLTAGE: below 58 V for 50 µs or longer (DEDUCED, log entry 9). -/
def execInputUndervoltage (centivolts durationUs : Nat) (s : State) : Host.Outcome State Fault Refusal :=
  if 7500 < centivolts then .fault .outsideRatings
  else
    let s1 := readInput s centivolts
    if 5800 ≤ centivolts || durationUs < 50 || !alive s then .next s1 else .next (beginBrake (setAlert s1 2 true) false true)

/-- UNDERVOLTAGE_RELEASE: 58 V or above for 5 ms (DEDUCED, log entry 9). -/
def execUndervoltageRelease (centivolts durationUs : Nat) (s : State) : Host.Outcome State Fault Refusal :=
  if 7500 < centivolts then .fault .outsideRatings
  else
    let s1 := readInput s centivolts
    if centivolts < 5800 || durationUs < 5000 then .next s1
    else .next (if alive s then releaseBrake (endAlert s1 2) false true else endAlert s1 2)

/-- INPUT_POWER_DOWN: below 54 V for 50 µs, or above 70 V for 10 µs: the module is powered down, and a rail fault reported (DEDUCED, log entries 9 and 51). -/
def execInputPowerDown (centivolts durationUs : Nat) (s : State) : Host.Outcome State Fault Refusal :=
  if 7500 < centivolts then .fault .outsideRatings
  else
    let s1 := readInput s centivolts
    let low := decide (centivolts < 5400) && decide (50 ≤ durationUs)
    let high := decide (7000 < centivolts) && decide (10 ≤ durationUs)
    if (low || high) && s.mgmt.powerState == .on then .next (setAlert (latchOff s1 1) 2 true) else .next s1

/-- RAIL_FAULT: the rail at a place of Table 17-1 has failed (DEDUCED, log entry 51). -/
def execRailFault (order : Nat) (s : State) : Host.Outcome State Fault Refusal :=
  if order = 0 ∨ 10 < order then .refused (.noSuchUnit "rail")
  else if s.mgmt.powerState = .off ∨ s.mgmt.powerState = .latched then .next s
  else .next { latchOff s 1 with mgmt := { (latchOff s 1).mgmt with faultRail := order } }

/-- AUX_LOSS: 12V_AUX below 10.8 V turns 64V_MAIN off: loss of module power, with the microcontroller itself (DEDUCED, log entry 51). -/
def execAuxLoss (s : State) : Host.Outcome State Fault Refusal :=
  let s1 := setAlert (losePower s .off) 0 false
  .next { s1 with mgmt := { s1.mgmt with railsUp := 0, auxOk := false, dynAddr := none, temp := none } }

/-- AUX_APPLIED: AUX_3V3 comes into regulation and the management microcontroller starts. -/
def execAuxApplied (s : State) : Host.Outcome State Fault Refusal :=
  if s.mgmt.auxOk then .next s else .next { s with mgmt := { s.mgmt with auxOk := true, railsUp := max 1 s.mgmt.railsUp } }

/-- Whether both inputs stand as the main rails need them. -/
def inputsGood (s : State) : Bool := s.mgmt.auxOk && s.mgmt.mainInRange

/-- MODULE_POWER_UP (Table 20-5 steps 5 to 7): the rails come up; the logic stays in reset until the boot (DEDUCED, log entry 51). -/
def execModulePowerUp (s : State) : Host.Outcome State Fault Refusal :=
  if inputsGood s && (s.mgmt.powerState == .off || s.mgmt.powerState == .rising) then
    .next { raiseRails s with mgmt := { (raiseRails s).mgmt with inReset := true } }
  else .next s

/-- power_off in HX_MC_CTRL, in state 2 or 1 (R464). -/
def powerDown (s : State) : State :=
  if s.mgmt.powerState = .on ∨ s.mgmt.powerState = .rising then losePower s .off else s

/-- power_on in HX_MC_CTRL, in state 0 (R464); the rails come up with MODULE_POWER_UP. -/
def powerRise (s : State) : State :=
  if s.mgmt.powerState = .off && s.mgmt.auxOk then { s with mgmt := { s.mgmt with powerState := .rising } } else s

/-- POWER_OFF (DEDUCED, log entry 51). -/
def execPowerOff (s : State) : Host.Outcome State Fault Refusal := .next (powerDown s)

/-- POWER_ON (DEDUCED, log entry 51). -/
def execPowerOn (s : State) : Host.Outcome State Fault Refusal := .next (powerRise s)

/-- Clears the alert bits in which a 1 is written, but for those whose condition still holds (Table 20-8). -/
def clearAlert (s : State) (value : BitVec 32) : State :=
  { s with mgmt := { s.mgmt with alert := s.mgmt.alert &&& ~~~(value &&& ~~~s.mgmt.alertHold) } }

/-- A write of a management register over I3C (R463, R464), which the microcontroller takes while 12V_AUX is present: the
alerts, and HX_MC_CTRL, where a write with both bits set or with neither is ignored and counted (DEDUCED, log entry 66). -/
def mcWrite (s : State) (index : Nat) (v : BitVec 32) : State :=
  if !s.mgmt.auxOk then s
  else if index = 0x10 then clearAlert s v
  else if index = 0x28 then
    (match v.toNat % 4 with
      | 1 => powerDown s
      | 2 => powerRise s
      | _ => { s with mgmt := { s.mgmt with busErr := s.mgmt.busErr + 1 } })
  else s

/-- REGISTER_WRITE (R5, R7, R327): eight bytes of a function's BAR0, or for `fn` 9 the four low bytes to a management
register (DEDUCED, log entries 66 and 67). -/
def execRegisterWrite (fn offset : Nat) (value : BitVec 64) (s : State) : Host.Outcome State Fault Refusal :=
  if 10 ≤ fn then .refused (.noSuchUnit "function") else .next (if fn = 9 then mcWrite s offset (value.truncate 32) else regWrite s fn offset value)

/-! ### Sensors (R397, R407) -/

/-- SENSOR_DISAGREE: the 10 ms averages of a pair, 0 current in 10 mA, 1 voltage in 10 mV. The higher one is used (DEDUCED, log entry 50). -/
def execSensorDisagree (pair reading0 reading1 : Nat) (s : State) : Host.Outcome State Fault Refusal :=
  if 2 ≤ pair then .refused (.noSuchUnit "sensor pair")
  else if !alive s then .next s
  else
    let hi := max reading0 reading1
    let lo := min reading0 reading1
    let p := s.power
    let set_ (p : Power) (on : Bool) (run : Nat) : Power := if pair = 0 then { p with disagree0 := on, agree0 := run } else { p with disagree1 := on, agree1 := run }
    let was := if pair = 0 then p.disagree0 else p.disagree1
    let run := if pair = 0 then p.agree0 else p.agree1
    let used (p : Power) : Power := if pair = 0 then { p with inputW := hi * p.inputCentiV / 10000 } else { p with inputCentiV := hi }
    if 3 * lo < 100 * (hi - lo) then
      let s1 := modPower s (fun p => { set_ (used p) true 0 with disagreeCnt := p.disagreeCnt + 1, alarmDisagree := true })
      .next (if was then s1 else raiseEvent s1 0 0x8003 8 0xFFFF (leBytes pair 1 ++ leBytes (if lo = 0 then 0xFFFF else (hi - lo) * 1000 / lo) 2))
    else .next (modPower s (fun p => if was then set_ (used p) (decide (run < 99)) (run + 1) else used p))

/-- A sensor as the controller takes it: 105.0 °C where it does not answer or reads outside −40 to 150 °C (DEDUCED, log entry 50). -/
def sensorOr (l : List Int) (i : Nat) : Int := match l[i]? with | some t => if -400 ≤ t ∧ t ≤ 1500 then t else 1050 | none => 1050

/-- The place of the hottest sensor. -/
def hottestAt (l : List Int) : Nat := l.findIdx (fun t => decide (t = hottest l))

/-- A limit begins: its event, alarm and alert. -/
def limitBegins (s : State) (sensor : Nat) (t : Int) : State :=
  setAlert (raiseEvent (modPower s (fun p => { p with alarmThermal := true })) 0 stThermal 8 0xFFFF (leBytes sensor 1 ++ leBytes (unsigned 16 t) 2)) 5 true

/-- A flag that a temperature sets at one threshold and ends below another. -/
def latch (t set_ ends : Int) (was : Bool) : Bool := if set_ ≤ t then true else if t < ends then false else was

/-- What a stack's temperature does (Table 17-7) (DEDUCED, log entry 50). -/
def stackThermal (s : State) (k : Nat) : State :=
  let t := stackTemp s.power k
  let x := stackOf s k
  let lim := latch t 950 920 x.limited
  let s1 := setStack s k { x with limited := lim, refreshDoubled := latch t 850 820 x.refreshDoubled }
  if lim && !x.limited then limitBegins s1 (32 + k) t else s1

/-- What the dies' temperatures do, each die by its hottest sensor (DEDUCED, log entry 50). -/
def dieThermal (s : State) : State :=
  let p := s.power
  let t0 := domainTemp p 0
  let t1 := domainTemp p 1
  let lim0 := latch t0 1050 1030 p.dieLimit0
  let lim1 := latch t1 1050 1030 p.dieLimit1
  let s1 := modPower s (fun p => { p with
    dieLimit0 := lim0, dieLimit1 := lim1, dieThrottle0 := latch t0 1000 970 p.dieThrottle0, dieThrottle1 := latch t1 1000 970 p.dieThrottle1
    dutyEighths := if lim0 || lim1 then min p.dutyEighths 2 else p.dutyEighths })
  let s2 := if lim0 && !p.dieLimit0 then limitBegins s1 (hottestAt (p.dieTemps.take 16)) t0 else s1
  if lim1 && !p.dieLimit1 then limitBegins s2 (16 + hottestAt (p.dieTemps.drop 16)) t1 else s2

/-- Whether a die or a stack is at its limit. -/
def thermalLimited (s : State) : Bool := dieLimited s.power || (List.range 24).any (fun k => (stackOf s k).limited)

/-- THERMAL_SAMPLE: all sensors, in 0.1 °C (DEDUCED, log entry 50). -/
def execThermalSample (dieTemps stackTemps : List Int) (s : State) : Host.Outcome State Fault Refusal :=
  if !alive s then .next s
  else
    let dies := (List.range 32).map (sensorOr dieTemps)
    let stackUnits := (List.range 24).map (sensorOr stackTemps)
    let s1 := modPower s (fun p => { p with dieTemps := dies, stackTemps := stackUnits })
    if 1150 ≤ hottest dies ∨ 1050 ≤ hottest stackUnits then
      let s2 := latchOff s1 6
      .next (modPower s2 (fun p => { p with thrmLatched := true, shutdown := true }))
    else
      let s2 := dieThermal ((List.range 24).foldl stackThermal s1)
      .next (if thermalLimited s2 then s2 else endAlert s2 5)

/-- THERMAL_RECOVERY: every 10 ms, one point faster while the dies are below 97 °C (DEDUCED, log entry 50). -/
def execThermalRecovery (s : State) : Host.Outcome State Fault Refusal :=
  if alive s && decide (hottest s.power.dieTemps < 970) then .next (modPower s (fun p => { p with thermalPoint := p.thermalPoint - 1 })) else .next s

/-! ### Commands of the power family (R359, R399 to R401, R410) -/

/-- POWER_CAP_SET. -/
def execPowerCapSet (h : CmdHdr) (cap : Nat) (s : State) : Host.Outcome State Fault Refusal :=
  let i : Instr := .powerCapSet h cap
  runCommand s i h [need (decide (1200 ≤ cap ∧ cap ≤ 3600)) stParamRange 0x20] [] [] (acceptTick i h 1)

/-- POWER_PRIORITY_SET: a permutation of the three domain codes. -/
def execPowerPrioritySet (h : CmdHdr) (b0 b1 b2 : Nat) (s : State) : Host.Outcome State Fault Refusal :=
  let i : Instr := .powerPrioritySet h b0 b1 b2
  let dup := decide (b0 = b1) || decide (b0 = b2) || decide (b1 = b2)
  runCommand s i h [need (decide (b0 < 3) && decide (b1 < 3) && decide (b2 < 3) && !dup) stParamRange 0x20] [] [] (acceptTick i h 1)

def applyPriority (s : State) (b0 b1 b2 : Nat) : State := modPower s (fun p => { p with order0 := b0, order1 := b1, order2 := b2 })

/-- The record of Table 17-11. -/
def powerRecord (s : State) : List Byte :=
  let p := s.power
  leBytes p.inputW 2 ++ leBytes p.inputCentiV 2 ++ leBytes p.cap 2 ++ leBytes (effectiveLimit p) 2
    ++ (List.range 5).flatMap (fun d => leBytes (mget 0 p.est d) 2) ++ leBytes 0 2 ++ leBytes (unsigned 32 p.gainPpm) 4
    ++ leBytes p.energyMj 8 ++ leBytes p.ctxEnergyMj 8 ++ leBytes (tempField (domainTemp p 0)) 2 ++ leBytes (tempField (domainTemp p 1)) 2
    ++ leBytes (tempField (hottest p.stackTemps)) 2 ++ leBytes (pwrStatus s) 2 ++ leBytes (frameNow s) 8 ++ leBytes 0 8

/-- POWER_READ. -/
def execPowerRead (h : CmdHdr) (dst : Nat) (s : State) : Host.Outcome State Fault Refusal :=
  runCommand s (.powerRead h dst) h [dstRange s h dst 64 0x28] [dstCheck s h dst 64] []
    (immediate (.powerRead h dst) h (fun s => (writeDst s h dst (powerRecord s), s.power.inputW, 0)))

/-- The voltages of Table 17-3, in mV. -/
def pointMv (p : Nat) : Nat := ([860, 820, 780, 740, 710, 670, 630, 600] : List Nat).getD p 0

/-- The budget of the row that runs; 0 in an idle frame. -/
def rowBudget (s : State) : Nat := match s.frames.running with | some r => r.budget | none => 0

/-- The V/F table (R410): catch-up only, permitted now, required now. -/
def vfTable (s : State) : List Byte :=
  (List.range 8).flatMap (fun p =>
    leBytes (pointMhz p) 2 ++ leBytes (pointMv p) 2 ++ leBytes (b2n (decide (p = 0)) + 2 * b2n (decide (s.power.permitted ≤ p)) + 4 * b2n (decide (p = s.frames.required))) 1
      ++ leBytes 0 1 ++ leBytes (codeEst s (rowBudget s) 0 p) 2)

/-- VF_TABLE_READ. -/
def execVfTableRead (h : CmdHdr) (dst : Nat) (s : State) : Host.Outcome State Fault Refusal :=
  runCommand s (.vfTableRead h dst) h [dstRange s h dst 64 0x28] [dstCheck s h dst 64] []
    (immediate (.vfTableRead h dst) h (fun s => (writeDst s h dst (vfTable s), s.frames.applied, 0)))

/-- Order 8.8 of CALIBRATE and MARGIN_RUN (R399, R406, R407). -/
def powerChecks (s : State) : List Check := [need (!braked s.power) stBraked, need (!thermalLimited s) stThermal]

/-- CALIBRATE: it ends with the CALIBRATION of its interval. -/
def execCalibrate (h : CmdHdr) (s : State) : Host.Outcome State Fault Refusal :=
  runCommand s (.calibrate h) h [] [] (powerChecks s) (acceptLong (.calibrate h) h)

end Sys2Proof.Machine
end

