-- ==== Sys2Proof/Machine/CmdDebug.lean ====
section
/-! DEFINITION. Machine/CmdDebug.lean: TRACE_CONFIG and STEP_GATE (R360, R441, R446, R447), the configuration keys and the
sinter journal (R361, R384 to R388), and the test port (R448). -/

namespace Sys2Proof.Machine

open Sys2Proof

/-! ### The trace (R441) -/

def isTraceConfig : Instr → Bool | .traceConfig _ _ _ _ => true | _ => false

/-- A power of two from 64 KiB to 1 GiB. -/
def traceRingSize (n : Nat) : Bool := (upto 16 15).any (fun k => decide (n = 2 ^ k))

/-- TRACE_CONFIG. -/
def execTraceConfig (h : CmdHdr) (enable ring ringBytes : Nat) (s : State) : Host.Outcome State Fault Refusal :=
  let i : Instr := .traceConfig h enable ring ringBytes
  runCommand s i h
    [need (decide (enable < 4)) stParamRange 0x20, need (isHostAddr ring && (windowFor s 8 ring ringBytes true).isSome) stParamRange 0x28,
      need (traceRingSize ringBytes) stParamRange 0x30]
    [] [need (!tickPending s isTraceConfig) stBusy] (acceptTick i h 1)

/-- TRACE_CONFIG at its tick: a new ring starts empty. -/
def applyTrace (s : State) (enable ring ringBytes : Nat) : State :=
  let o := s.obs
  let log := Nat.log2 ringBytes
  let same := o.traceRing = ring ∧ o.traceLog2 = log
  { s with obs := { o with
      traceOn := bit enable 0, sameRowOn := bit enable 1, traceRing := ring, traceLog2 := log
      traceHead := if same then o.traceHead else 0, traceTail := if same then o.traceTail else 0 } }

/-! ### The group command gate (R446) -/

/-- Whether this module may carry the gate: it is the keystone of a group of 16 or more. -/
def gateHere (s : State) : Bool := s.grp.state == .keystone && decide (16 ≤ s.grp.members.length)

/-- STEP_GATE: enable and disable act at the next tick, advance at once. -/
def execStepGate (h : CmdHdr) (op commands : Nat) (s : State) : Host.Outcome State Fault Refusal :=
  let i : Instr := .stepGate h op commands
  runCommand s i h
    [need (decide (op < 3)) stParamRange 0x20, need (decide (op ≠ 1) || (decide (1 ≤ commands) && decide (commands < 65536))) stParamRange 0x22]
    [] [need (gateHere s) stWrongState]
    (immediate i h (fun s =>
      let g := s.grp
      ({ s with grp := match op with
          | 0 => { g with gateNext := some true }
          | 1 => { g with grantsLeft := g.grantsLeft + commands }
          | _ => { g with gateNext := some false, grantsLeft := 0 } }, 0, 0)))

/-! ### Configuration keys (Table 15-15) -/

/-- Bytes of a copy: its header and its records, each padded to 8 B. -/
def copyBytes_ (l : List JRec) : Nat := 64 + (l.map (fun r => ceilDiv (0x18 + r.value.length) 8 * 8)).sum

/-- Whether both copies have 8 KiB free. -/
def journalRoom (s : State) : Bool := decide (copyBytes_ s.flash.copyA + 8192 ≤ 8 * 2 ^ 20) && decide (copyBytes_ s.flash.copyB + 8192 ≤ 8 * 2 ^ 20)

/-- CFG_READ (DEDUCED, log entry 36). -/
def execCfgRead (h : CmdHdr) (key : Nat) (s : State) : Host.Outcome State Fault Refusal :=
  runCommand s (.cfgRead h key) h [need (cfgKey key).isSome stParamRange 0x20] [] []
    (immediate (.cfgRead h key) h (fun s => (s, (cfgStored s key).1, (cfgStored s key).2)))

/-- CFG_WRITE: a record, and the value in force at the next tick where the table says so (DEDUCED, log entry 36). -/
def execCfgWrite (h : CmdHdr) (key value : Nat) (s : State) : Host.Outcome State Fault Refusal :=
  let i : Instr := .cfgWrite h key value
  runCommand s i h
    [need (cfgKey key).isSome stParamRange 0x20, need (match cfgKey key with | some (lo, hi, _) => decide (lo ≤ value) && decide (value ≤ hi) | none => true) stParamRange 0x28]
    [] [need (journalRoom s) stNoSpace]
    (immediate i h (fun s =>
      let s1 := journalWrite s key (leBytes value 8)
      let s2 := if key < 0x10 then { s1 with rot := { s1.rot with cfgNext := mset 0 s1.rot.cfgNext key value } } else s1
      (s2, value, (cfgStored s2 key).2)))

/-- Values of the keys 1 and 2 that a tick brings into force. -/
def applyCfg (s : State) : State :=
  { s with rot := { s.rot with cfg := s.rot.cfgNext.foldl (fun m e => mset 0 m e.1 e.2) s.rot.cfg, cfgNext := [] } }

/-- CFG_COMPACT. -/
def execCfgCompact (h : CmdHdr) (select : Nat) (s : State) : Host.Outcome State Fault Refusal :=
  let i : Instr := .cfgCompact h select
  runCommand s i h [need (decide (select < 3)) stParamRange 0x20] [] [need (!longPending s isCompact) stBusy] (acceptLong i h)

/-- The end of CFG_COMPACT: the four steps of R388, or both copies from the chosen one (R387) (DEDUCED, log entry 36). -/
def endCfgCompact (s : State) (select : Nat) : State × Nat × Nat × Nat :=
  let f := s.flash
  if select = 0 then
    let l := compacted f.copyA ++ [marker s 2]
    ({ s with flash := { f with copyA := l, copyB := l, stamp := f.stamp + 2 } }, stDone, 0, 0)
  else
    let l := goodPrefix (if select = 1 then f.copyA else f.copyB)
    ({ s with flash := { f with copyA := l, copyB := l, headerAOk := true, headerBOk := true } }, stDone, 0, 0)

/-! ### The test port (R448) -/

/-- Codes of the test port's instruction register, in the model's own numbering: 0 BYPASS, 1 SAMPLE/PRELOAD, 2 EXTEST, 3 IDCODE. -/
def bypassTo (s : State) (tdi : Bool) : State :=
  { s with mgmt := { s.mgmt with jtagIr := 0, bypassBit := tdi, tdo := if s.mgmt.bypassBit then 1 else 0, pinsDriven := false } }

/-- BYPASS: one bit through the bypass register (DESIGN CHOICE, log entry 65). -/
def execBypass (tdi : Bool) (s : State) : Host.Outcome State Fault Refusal := .next (bypassTo s tdi)

/-- SAMPLE/PRELOAD: the chain takes the sideband pins as they stand (DESIGN CHOICE, log entry 65). -/
def execSamplePreload (pins : BitVec 16) (s : State) : Host.Outcome State Fault Refusal :=
  .next { s with mgmt := { s.mgmt with jtagIr := 1, boundary := pins, tdo := s.mgmt.boundary.zeroExtend 32, pinsDriven := false } }

/-- EXTEST drives the pins while RST_IN_N is asserted and is BYPASS at any other time (DESIGN CHOICE, log entry 65). -/
def execExtest (pins : BitVec 16) (s : State) : Host.Outcome State Fault Refusal :=
  if s.mgmt.rstIn then .next { s with mgmt := { s.mgmt with jtagIr := 2, boundary := pins, tdo := s.mgmt.boundary.zeroExtend 32, pinsDriven := true } }
  else .next (bypassTo s false)

/-- IDCODE (DESIGN CHOICE, log entry 65). -/
def execIdcode (s : State) : Host.Outcome State Fault Refusal :=
  .next { s with mgmt := { s.mgmt with jtagIr := 3, tdo := 0x12416BC7, pinsDriven := false } }

/-! ### The management interface over I3C (R463) -/

/-- HX_MC_ALERT: clears the alert bits in which a 1 is written, but for those whose condition still holds. -/
def execHxMcAlert (value : BitVec 32) (s : State) : Host.Outcome State Fault Refusal :=
  if !s.mgmt.auxOk then .next s
  else .next (clearAlert s value)

/-- SETDASA: the target at static address 0x52 takes a dynamic address (DEDUCED, log entry 66). -/
def execSetdasa (staticAddr dynamicAddr : Nat) (s : State) : Host.Outcome State Fault Refusal :=
  if 128 ≤ staticAddr ∨ 128 ≤ dynamicAddr then .refused (.noSuchUnit "I3C address")
  else if s.mgmt.auxOk && decide (staticAddr = 0x52) then .next { s with mgmt := { s.mgmt with dynAddr := some dynamicAddr } }
  else .next s

/-- ENTDAA: a target without a dynamic address answers with its provisioned ID and takes one (DEDUCED, log entry 66). -/
def execEntdaa (dynamicAddr : Nat) (s : State) : Host.Outcome State Fault Refusal :=
  if 128 ≤ dynamicAddr then .refused (.noSuchUnit "I3C address")
  else if !s.mgmt.auxOk || s.mgmt.dynAddr.isSome then .next s
  else .next { s with mgmt := { s.mgmt with dynAddr := some dynamicAddr }
                      resp := { data := leBytes Config.mipiManufacturer 2 ++ leBytes Config.serialNumber.toNat 4 } }

/-- SCL_STUCK: SCL held low for more than 100 ms resets the target's interface (DEDUCED, log entry 66). -/
def execSclStuck (lowMs : Nat) (s : State) : Host.Outcome State Fault Refusal :=
  if s.mgmt.auxOk && decide (100 < lowMs) then .next { s with mgmt := { s.mgmt with busErr := s.mgmt.busErr + 1, dynAddr := none } } else .next s

/-- STATUS_MAILBOX_REFRESH: every 10 ms; the dies post nothing while they are off or in reset (DEDUCED, log entry 66). -/
def execStatusMailboxRefresh (s : State) : Host.Outcome State Fault Refusal :=
  if !s.mgmt.auxOk then .next s
  else if alive s then
    .next { s with mgmt := { s.mgmt with temp := some (hottest s.power.dieTemps, hottest s.power.stackTemps), mbox := modStatus s 0 % 256 } }
  else .next { s with mgmt := { s.mgmt with temp := none } }

end Sys2Proof.Machine
end

