-- ==== Sys2Proof/Machine/Reach.lean ====
section
/-! DEFINITION. Machine/Reach.lean: how a message leaves as a record (R297, R298), the ranks behind the ports, and what the module tells
the others of its reach (R300, R301, R303). -/

namespace Sys2Proof.Machine

open Sys2Proof

/-! ### Messages as records (R297) -/

/-- The 48 bytes of a message's header (Table 13-5). -/
def headerBytes (type : Nat) (m : Msg) : List Byte :=
  leBytes type 1 ++ leBytes m.srcRank 1 ++ leBytes m.dstRank 1 ++ leBytes m.partition 1 ++ leBytes m.context 2 ++ leBytes (m.elem % 16 + 16 * m.redop) 1 ++ [m.poison]
    ++ leBytes m.addr 8 ++ leBytes m.length 2 ++ leBytes 0 2 ++ leBytes m.opId 4 ++ leBytes m.frame 8 ++ bytesAt m.body 0 16

/-- The virtual channel of a message type (Table 13-4). -/
def channelOf (type : Nat) : Nat :=
  if type ∈ [0, 1, 4] then 0 else if type ∈ [2, 11] then 1 else if type ∈ [3, 12] then 2 else 3

/-- A message leaves as one record of its port. -/
def sendRecordOf (s : State) (type : Nat) (m : Msg) (op : Option (Nat × Nat)) : State :=
  queueRecord s m.port (channelOf type) { plain := headerBytes type m ++ m.data, context := m.context, op := op, fence := type == 11 }

/-! ### Control messages (R298, R302) -/

def modGrp (s : State) (f : Group → Group) : State := { s with grp := f s.grp }

/-- The rank that the group's port map names behind a port. -/
def mappedRank (s : State) (p : Nat) : Nat := match s.grp.form with | some f => f.portMap.getD p 0xFF | none => 0xFF

/-- The port over which a control message to a rank leaves: one that leads there, else any that is up and not the one it came by, from where
it is relayed (DEDUCED, log entry 57). -/
def portTo (s : State) (r : Nat) (from_ : Option Nat := none) : Option Nat :=
  let l := (List.range 14).filter (fun p => portUp (portOf s p) && mappedRank s p != 0xFF && some p != from_)
  (l.find? (fun p => mappedRank s p == r)).or l.head?

/-- A control message leaves over a port. -/
def sendCtlMsg (s : State) (type : Nat) (m : Msg) : State := sendRecordOf (modGrp s (fun g => { g with sent := g.sent ++ [(type, m)] })) type m none

/-- Sends a control message to a rank; nothing leaves where no port is up (DESIGN CHOICE, log entry 64). -/
def sendCtl (s : State) (type r frame : Nat) (body data : List Byte) : State :=
  match portTo s r with
  | none => s
  | some p =>
    sendCtlMsg s type { port := p, srcRank := s.grp.rank, dstRank := r, partition := 8, context := 0xFFFF, elem := 0, redop := 0, poison := 0, addr := 0
                        length := data.length, reserved := false, opId := 0, frame := frame, body := body, data := data }

/-! ### Reachability (R300, R303) -/

/-- Ranks behind ports that are up. -/
def neighbours (s : State) : List Nat := ((List.range 14).filter (fun p => portUp (portOf s p))).map (mappedRank s) |>.filter (· != 0xFF)

/-- Ranks behind ports that are up or train (Table 13-6: a port that trains again is no lost path) (DEDUCED, log entry 57). -/
def hopeful (s : State) : List Nat :=
  ((List.range 14).filter (fun p => portUp (portOf s p) || (portOf s p).state == .training)).map (mappedRank s) |>.filter (· != 0xFF)

/-- Ranks that this module reaches: those behind its ports, and those that they have said they reach. A mask does not say over how many
modules (DEDUCED, log entry 57). -/
def reached (s : State) : List Nat :=
  let l := neighbours s
  ((List.range 64).filter (fun r => l.contains r || l.any (fun k => bit (mget 0 s.grp.reach k) r))).filter (· != s.grp.rank)

/-- The body of a GROUP message. -/
def groupBody (s : State) (phase : Nat) : List Byte :=
  leBytes (match s.grp.form with | some f => f.groupId | none => 0) 4 ++ leBytes phase 1 ++ leBytes s.grp.rank 1 ++ leBytes 0 2 ++ leBytes (rankMask (reached s)) 8

/-- Tells every rank within reach what this module reaches, when that has changed (DEDUCED, log entry 57). -/
def tellReach (s : State) : State :=
  let m := rankMask (reached s)
  if mget 0 s.grp.reach s.grp.rank = m then s
  else (reached s).foldl (fun s r => sendCtl s 10 r (frameNow s) (groupBody s 0) []) (modGrp s (fun g => { g with reach := mset 0 g.reach g.rank m }))

/-- What a port's change of state may have done to the module's reach is told at once (R301). -/
def reportReach (s : State) : State := if s.grp.state = .standalone then s else tellReach s

end Sys2Proof.Machine
end

