-- ==== Sys2Proof/Machine/Links.lean ====
section
/-! DEFINITION. Machine/Links.lean: the Glony ports (R285 to R296, R358): training and its failures, the link layer's sequence
numbers, acknowledgements and credits, records and key rotation, LINK_TRAIN and LINK_KEY_ROTATE, and the loss of a
reference clock (R466). -/

namespace Sys2Proof.Machine

open Sys2Proof

/-! ### States of a port -/

/-- Initial credits of a virtual channel (Table 13-4). -/
def initialCredits : Nat → Nat | 0 => 384 | 1 => 32 | 2 => 384 | _ => 32

def fullCredits : SMap Nat := (List.range 4).map (fun v => (v, initialCredits v))

/-- A port leaves service: it holds no lanes and trains no more. -/
def portDown (x : Port) : Port := { x with state := .down, lanes := 0, phase := 0, narrowAsk := false, narrowPeer := false, retrainDue := false }

/-- A port begins to train from phase 1; training after it was up counts as a retrain. -/
def portTrain (x : Port) : Port :=
  { x with state := .training, lanes := 0, phase := 1, retrains := x.retrains + b2n x.everUp, retrainDue := false
           restart := x.restart || x.state == .authFailed, narrowAsk := false, narrowPeer := false, trainFail := none }

/-- Whether 4 lanes are left. -/
def trainable (x : Port) : Bool := decide (4 ≤ 9 - x.failedLanes.length)

/-- A retrain that something on the module or on the link asks for; only LINK_TRAIN leaves AUTH_FAILED (R296) and DISABLED. -/
def retrainPort (x : Port) : Port :=
  if x.state == .authFailed || x.state == .disabled then x else if trainable x then portTrain x else portDown x

/-- Restarts the link layer (R292): what was not acknowledged is discarded and counted, every channel takes its initial credits, and
the difference is counted; what waits to be sent belongs to aborted steps and goes with it (DEDUCED, log entry 53). -/
def restartLink (x : Port) : Port :=
  let gap := if x.everUp then ((List.range 4).map (fun v => let c := mget 0 x.credits v; (initialCredits v - c) + (c - initialCredits v))).sum else 0
  { x with discarded := x.discarded + x.unacked.length, reconciled := x.reconciled + gap, unacked := [], outQ := [], credits := fullCredits, seenTotals := []
           freed := [], rx := [], sendSeq := 0, recvSeq := 0, crTurn := 0, nakPending := false, tagFailedOnce := false, rxOld := none, rxKey := {}, restart := false }

/-! ### Training (R287, Table 13-2) -/

/-- How a training failed, as the next of the ports that failed. No register counts a failure of phases 1 to 4 (DEDUCED, log entry 53). -/
def failTraining (s : State) (p status : Nat) : State :=
  let k := (s.ports.filter (fun e => e.2.trainFail.isSome)).length
  modPort s p (fun x => { portDown x with trainCmd := false, trainFail := if x.trainCmd then some (status, k) else none })

/-- Phase 5 fails: the port's counter records it (R287, R382). -/
def failExchange (s : State) (p : Nat) : State := failTraining (modPort s p (fun x => { x with auth := x.auth + 1 })) p stLinkAuth

/-- A lane fails: the journal's record, the report, and the port's list (R286, R32). -/
def failLane (s : State) (port lane : Nat) : State :=
  if (portOf s port).failedLanes.contains lane then s
  else spareRecord (modPort s port (fun x => { x with failedLanes := x.failedLanes ++ [lane] })) 0x8001 4 port

/-- Whether the identity a peer has shown is the one that the group descriptor gives for the port's rank (R382). -/
def peerAsDescribed (s : State) (p : Nat) : Bool :=
  match s.grp.form with
  | none => true
  | some f => let r := f.portMap.getD p 0xFF; decide (r = 0xFF) || decide (f.identities.getD r [] = (portOf s p).peerId)

/-- Phase 2 has tested the lanes: those that failed are recorded, and 8 or 4 of the others are chosen. -/
def lanesTested (s : State) (p : Nat) (bad : List Nat) : State :=
  let s1 := (bad.filter (fun l => decide (l < 9))).foldl (fun s l => failLane s p l) s
  let good := 9 - (portOf s1 p).failedLanes.length
  if good < 4 then failTraining s1 p stTimeout else modPort s1 p (fun x => { x with phase := 3, lanes := if 8 ≤ good then 8 else 4 })

/-- Phase 4: the link layers meet; a peer with a new link epoch, or lost link state on this side, restarts the link layer (R292). -/
def meetPeer (s : State) (p epoch : Nat) (id : List Byte) (peer : Nat) : State :=
  let x := portOf s p
  let fresh := x.restart || decide (x.peerEpoch ≠ some (epoch % 2 ^ 32))
  let y := if fresh then restartLink x else x
  setPort s p { y with phase := 5, peerEpoch := some (epoch % 2 ^ 32), peerId := bytesAt id 0 16, peerRank := mappedRank s p, peerPort := peer % 256 }

/-- Phase 6: the port is up under the keys of phase 5, and sends again what the peer has not acknowledged (R292). The key from before
stays for the peer's flits that were in its replay buffer (DEDUCED, log entry 53). -/
def bringUp (s : State) (p : Nat) (prk : List Byte) : State :=
  let x := portOf s p
  let y : Port := { x with
    state := if x.lanes = 4 then .upNarrow else .up, phase := 0, tx := { prk := bytesAt prk 0 48 }, rxKey := { prk := bytesAt prk 0 48 }
    rxOld := if x.rxKey.prk = [] then none else some x.rxKey, newPrk := none, rotateTx := false, rotateRx := false, everUp := true, trainCmd := false, trainFail := none
    flitReplays := x.flitReplays + b2n (decide (x.unacked ≠ [])), unacked := x.unacked.map (fun f : TxFlit => { f with replays := 0 }) }
  pumpPort (countLink (countLink (setPort s p (y.unacked.foldl emitData y)) p 2 y.unacked.length) p 4 y.unacked.length) p

/-- TRAINING_PHASE: the phase that the port is in ends (DEDUCED, log entry 53). -/
def execTrainingPhase (port phase : Nat) (e : PhaseEnd) (s : State) : Host.Outcome State Fault Refusal :=
  if 14 ≤ port then .refused (.noSuchUnit "port")
  else
    let x := portOf s port
    if x.state ≠ .training ∨ x.phase ≠ phase then .next s
    else
      match e with
      | .passed bad epoch id peer prk =>
        match phase with
        | 1 => .next (setPort s port { x with phase := 2, toModule := decide ((cfgStored s (0x10 + port)).1 = 1) })
        | 2 => .next (lanesTested s port bad)
        | 3 => .next (setPort s port { x with phase := 4 })
        | 4 => .next (meetPeer s port epoch id peer)
        | _ => .next (reportReach (if peerAsDescribed s port then bringUp s port prk else failExchange s port))
      | _ => .next (reportReach (if phase = 5 then failExchange s port else failTraining s port stTimeout))

/-- FEC_LOCK_LOSS: the lane fails, and the port trains at once (DEDUCED, log entry 54). -/
def execFecLockLoss (port lane : Nat) (s : State) : Host.Outcome State Fault Refusal :=
  if 14 ≤ port ∨ 9 ≤ lane then .refused (.noSuchUnit "port or lane")
  else if !portUp (portOf s port) then .next s
  else .next (reportReach (modPort (failLane s port lane) port retrainPort))

/-- LANE_ERROR_RATE: the lane fails, and is replaced at a retrain that a tick schedules (DEDUCED, log entry 54). -/
def execLaneErrorRate (port lane : Nat) (s : State) : Host.Outcome State Fault Refusal :=
  if 14 ≤ port ∨ 9 ≤ lane then .refused (.noSuchUnit "port or lane")
  else if !portUp (portOf s port) then .next s
  else .next (modPort (failLane s port lane) port (fun x => { x with retrainDue := true }))

/-- Whether a step of a group context is in flight. -/
def groupStepRuns (s : State) : Bool := (allCtxs s).any (fun e => e.2.group && e.2.inFlight.isSome)

/-- The retrains that wait for a tick at which no step of a group context is in flight (DEDUCED, log entry 53). -/
def scheduledRetrains (s : State) : State :=
  if groupStepRuns s then s else { s with ports := remap Port.reset (fun x => if x.retrainDue && portUp x then retrainPort x else x) s.ports }

/-- The ports of the port map that have gone DOWN start a retraining attempt at a tick (Table 13-6, steps 3 and 14), but for those of a die in reset (DEDUCED, log
entry 53). -/
def retryPorts (s : State) : State :=
  { s with ports := s.ports.map (fun e => (e.1, if e.2.state == .down && e.2.everUp && decide (mappedRank s e.1 ≠ 0xFF) && decide (mget 0 s.health.dieState (e.1 / 7) = 0) then retrainPort e.2 else e.2)) }

/-! ### Flits that arrive (R288 to R293) -/

/-- The acknowledgement of a flit: flits up to it leave the replay buffer. -/
def ackUpTo (x : Port) (a : Nat) : Port :=
  if x.unacked.any (fun f => f.seq == a) then { x with unacked := (x.unacked.dropWhile (fun f => f.seq != a)).drop 1, progress := x.progress + 1 } else x

/-- The cumulative credit returns of a flit. -/
def creditsBack (x : Port) (v total : Nat) : Port :=
  let d := (total + 2048 - mget 0 x.seenTotals v % 2048) % 2048
  { x with credits := madd x.credits v d, seenTotals := mset 0 x.seenTotals v total, progress := x.progress + b2n (decide (d ≠ 0)) }

/-- A nak: the very same flits after the acknowledged one are sent again; a flit replayed 64 times retrains the port (R291). -/
def replay (s : State) (p : Nat) : State :=
  let x := portOf s p
  if x.unacked = [] then s
  else
    let again := x.unacked.map (fun f => { f with replays := f.replays + 1 })
    let y := again.foldl emitData { x with unacked := again, flitReplays := x.flitReplays + 1 }
    let s1 := countLink (countLink (setPort s p y) p 2 again.length) p 4 again.length
    if again.any (fun f => decide (64 ≤ f.replays)) then reportReach (modPort s1 p retrainPort) else s1

/-- The flit's own place in the sequence: a data flit in order is taken into the receive buffer, one that has been taken before is dropped,
a gap asks for a replay. A flit that is no data flit gives the number of the next data flit (DEDUCED, log entry 53). -/
def takeFlit (x : Port) (h : FlitHead) (payload : List Byte) : Port :=
  if h.seq = x.recvSeq then
    if h.ltype = 0 then
      { x with recvSeq := (x.recvSeq + 1) % 4096, nakPending := false
               rx := x.rx ++ [{ seq := h.seq, vc := h.vc, recPos := h.recPos, phase := h.phase, payload := payload }] }
    else x
  else if h.ltype = 0 && decide ((x.recvSeq + 4096 - h.seq) % 4096 ≤ 512) then x
  else { x with nakPending := true }

/-- A flit that passed its CRC: its acknowledgement, credits and nak, and what it carries. A link-control flit gives the peer's wish for a
width, whose encoding the spec does not give (log entry 24). -/
def acceptFlit (s : State) (p : Nat) (h : FlitHead) (payload : List Byte) : State :=
  let s1 := modPort (countLink s p 3 1) p (fun x => creditsBack (ackUpTo x h.ack) h.crVc h.crTotal)
  let s2 := if h.nak then replay s1 p else s1
  match h.ltype with
  | 0 => pumpOrTell (modPort s2 p (fun x => takeFlit x h payload)) p 1
  | 1 => pumpPort (modPort s2 p (fun x => takeFlit x h payload)) p
  | 2 => pumpPort (modPort s2 p (fun x => { takeFlit x h payload with narrowPeer := Config.narrowWish payload })) p
  | _ => pumpPort s2 p

/-- FLIT_RECEIVE: 256 bytes arrive over the lanes. A flit of a codeword that the FEC cannot correct, or that fails its CRC, is discarded
and asked for again (R288, R291). -/
def execFlitReceive (port : Nat) (raw : List Byte) (fec : BitErr) (s : State) : Host.Outcome State Fault Refusal :=
  if 14 ≤ port ∨ raw.length ≠ 256 then .refused (.noSuchUnit "port or flit")
  else if !portUp (portOf s port) then .next s
  else
    let ask (s : State) : State := pumpOrTell (modPort s port (fun x => { x with nakPending := true })) port 1
    match fec with
    | .uncorrectable => .next (ask (modPort s port (fun x => { x with fecUe := x.fecUe + 1 })))
    | f =>
      let s1 := modPort s port (fun x => { x with fec := x.fec + b2n (f == .corrected) })
      .next (if flitGood raw then acceptFlit s1 port (headOf raw) (bytesAt raw 8 240) else ask s1)

/-! ### Keys (R295) -/

/-- The key after a direction's key: the secret of a new exchange where there has been one. -/
def nextKey (x : Port) (k : LinkKey) : LinkKey := { prk := x.newPrk.getD k.prk, index := k.index + 1, counter := 0 }

/-- A new exchange's secret has been taken up once both directions use it. -/
def settleExchange (x : Port) : Port := if x.newPrk = some x.tx.prk ∧ x.newPrk = some x.rxKey.prk then { x with newPrk := none } else x

def rotateSend (x : Port) : Port := settleExchange { x with tx := nextKey x x.tx, rotateTx := false }

/-- The receiver takes the next key, and holds both until a record under the new one authenticates. -/
def rotateReceive (x : Port) : Port := settleExchange { x with rxKey := nextKey x x.rxKey, rxOld := some x.rxKey, rotateRx := false }

/-- KEY_ROTATION: a direction of a port moves to its next key, where it has used its key up or LINK_KEY_ROTATE has asked for it. -/
def execKeyRotation (port : Nat) (sending : Bool) (s : State) : Host.Outcome State Fault Refusal :=
  if 14 ≤ port then .refused (.noSuchUnit "port")
  else
    let x := portOf s port
    if !portUp x then .next s
    else if sending then .next (if x.rotateTx || decide (keyLimit ≤ x.tx.counter) then pumpPort (setPort s port (rotateSend x)) port else s)
    else .next (if x.rotateRx || decide (keyLimit ≤ x.rxKey.counter) then setPort s port (rotateReceive x) else s)

/-! ### Records that arrive (R294, R296) -/

/-- The flits of the record at the head of the receive buffer: none while it is not whole. -/
def firstRecord : Nat → List RxFlit → Option (List RxFlit)
  | 0, _ => some []
  | _, [] => none
  | fuel + 1, f :: t => if f.recPos = 0 ∨ f.recPos = 3 then some [f] else (firstRecord fuel t).map (f :: ·)

/-- The keys under which a record may have been sent: the receiver's own, the next one, and the one before (R295). -/
def recordKeys (x : Port) (phase : Bool) : List (Nat × LinkKey) :=
  ([(0, x.rxKey), (1, nextKey x x.rxKey)] ++ (match x.rxOld with | some k => [(2, k)] | none => [])).filter (fun e => bit e.2.index 0 == phase)

/-- The plaintext of a record, with the place of the key under which its tag is right; AES-GCM decrypts as it encrypts, and the tag is over
the ciphertext (Table 16-12). -/
def recordPlain (x : Port) (fs : List RxFlit) : Option (Nat × List Byte) :=
  match fs with
  | [] => none
  | f :: _ =>
    let raw := fs.flatMap (·.payload)
    let cipher := raw.take (raw.length - 16)
    (recordKeys x f.phase).findSome? (fun e =>
      let plain := (recordSeal e.2 x.peerId x.peerPort f.vc fs.length cipher).1
      if (recordSeal e.2 x.peerId x.peerPort f.vc fs.length plain).2 = raw.drop (raw.length - 16) then some (e.1, plain) else none)

/-- A record under a key has authenticated: its counter moves on, and a record under the newer key ends the use of the older one. -/
def keyUsed (x : Port) (which : Nat) : Port :=
  let up (k : LinkKey) : LinkKey := { k with counter := k.counter + 1 }
  match which with
  | 0 => { x with rxKey := up x.rxKey, rxOld := none }
  | 1 => let y := rotateReceive x; { y with rxKey := up y.rxKey, rxOld := none }
  | _ => { x with rxOld := x.rxOld.map up }

/-- A record whose tag is right leaves the receive buffer, and its credits go back. -/
def recordTaken (x : Port) (vc n which : Nat) : Port :=
  keyUsed { x with rx := x.rx.drop n, freed := madd x.freed vc n, tagFailedOnce := false, progress := x.progress + 1 } which

/-- A record whose tag is wrong is discarded with what followed it, and asked for again; one that is wrong again stops the port (R296). -/
def recordFails (s : State) (p seq : Nat) : State :=
  if !(portOf s p).tagFailedOnce then
    pumpOrTell (modPort s p (fun x => { x with rx := [], recvSeq := seq, nakPending := true, tagFailedOnce := true })) p 1
  else reportReach (raiseEvent (modPort s p (fun x => { x with state := .authFailed, auth := x.auth + 1, phase := 0 })) 0 stLinkAuth 8 0xFFFF (leBytes p 1))

/-! ### Commands -/

/-- The ports of a mask. -/
def maskPorts (m : Nat) : List Nat := (List.range 14).filter (bit m)

def trainsPorts (m : Nat) : Instr → Bool
  | .linkTrain _ k _ => decide (k &&& m ≠ 0)
  | _ => false

/-- LINK_TRAIN (R287, R358). -/
def execLinkTrain (h : CmdHdr) (portMask op : Nat) (s : State) : Host.Outcome State Fault Refusal :=
  let i : Instr := .linkTrain h portMask op
  runCommand s i h [need (decide (portMask < 2 ^ 14)) stParamRange 0x20, need (decide (op < 2)) stParamRange 0x22] []
    [need (!longPending s (trainsPorts portMask)) stBusy,
      need (decide (op = 1) || !groupStepRuns s || (maskPorts portMask).all (fun p => !portUp (portOf s p))) stBusy,
      need (decide (op = 1) || !braked s.power) stBraked]
    (fun s =>
      let s1 := acceptLong i h s
      reportReach (if op = 0 then (maskPorts portMask).foldl (fun s p => modPort s p (fun x => if trainable x then { portTrain x with trainCmd := true }
          else { portDown x with trainFail := some (stTimeout, 0) })) s1
        else (maskPorts portMask).foldl (fun s p => modPort s p (fun x => { portDown (restartLink x) with state := .disabled, trainFail := none })) s1))

/-- The mask of ports that are UP or UP_NARROW. -/
def upMask (s : State) : Nat := ((List.range 14).map (fun p => if portUp (portOf s p) then 2 ^ p else 0)).sum

/-- The failure that came first among the ports of a mask. -/
def firstFailure (s : State) (m : Nat) : Option (Nat × Nat) :=
  ((maskPorts m).filterMap (fun p => (portOf s p).trainFail)).foldl (fun b e => match b with | some y => if e.2 < y.2 then some e else b | none => some e) none

/-- The end of LINK_TRAIN: none while a port of its mask trains. -/
def endLinkTrain (s : State) (m : Nat) : Option (State × Nat × Nat × Nat) :=
  if (maskPorts m).any (fun p => (portOf s p).state == .training) then none
  else
    let st := match firstFailure s m with | some e => e.1 | none => stDone
    some ((maskPorts m).foldl (fun s p => modPort s p (fun x => { x with trainFail := none })) s, st, upMask s, 0)

/-- LINK_KEY_ROTATE; a new exchange gives the secret of the next keys, drawn from the random source (log entry 16). -/
def execLinkKeyRotate (h : CmdHdr) (portMask : Nat) (newExchange : Bool) (s : State) : Host.Outcome State Fault Refusal :=
  let i : Instr := .linkKeyRotate h portMask newExchange
  let all_ (f : Port → Bool) : Bool := (maskPorts portMask).all (fun p => f (portOf s p))
  runCommand s i h [need (decide (portMask < 2 ^ 14)) stParamRange 0x20] []
    [need (all_ portUp) stWrongState, need (all_ (fun x => !x.rotateTx && !x.rotateRx)) stBusy]
    (fun s => acceptLong i h ((maskPorts portMask).foldl (fun s p =>
      let s1 := modPort s p (fun x => { x with rotateTx := true, rotateRx := true })
      if newExchange then modPort { s1 with freeCount := s1.freeCount + 1 } p (fun x => { x with newPrk := some (leBytes (Config.randomDraw s1.freeCount % 2 ^ 384) 48) }) else s1) s))

/-- The end of LINK_KEY_ROTATE: both directions of every port have moved; a port that left service moves no more (DEDUCED, log entry 53). -/
def endLinkKeyRotate (s : State) (m : Nat) : Option (State × Nat × Nat × Nat) :=
  if (maskPorts m).any (fun p => let x := portOf s p; portUp x && (x.rotateTx || x.rotateRx)) then none
  else some (s, if (maskPorts m).all (fun p => portUp (portOf s p)) then stDone else stTimeout, 0, 0)

/-! ### Reference clocks (R466) -/

/-- A port without its clock goes DOWN. -/
def losePort (s : State) (p : Nat) : State := if portUp (portOf s p) || (portOf s p).state == .training then failTraining s p stTimeout else s

/-- REFERENCE_CLOCK_LOSS: 0 the CXL clock, 1 and 2 the Glony clocks of ports 0 to 6 and 7 to 13. -/
def execReferenceClockLoss (clock : Nat) (s : State) : Host.Outcome State Fault Refusal :=
  match clock with
  | 0 => execHotReset s
  | 1 => .next (reportReach ((List.range 7).foldl losePort s))
  | 2 => .next (reportReach ((upto 7 7).foldl losePort s))
  | _ => .refused (.noSuchUnit "reference clock")

end Sys2Proof.Machine
end

