-- ==== Sys2Proof/Machine/Collective.lean ====
section
/-! DEFINITION. Machine/Collective.lean: the records that arrive (R294 to R297) and the collective engines (R253, R254, R299, R307 to
R312): operation records, the messages they send and receive, completion, deadlines and errors. -/

namespace Sys2Proof.Machine

open Sys2Proof

/-! ### Operation records (Table 13-7) -/

def opCode (o : CollOp) : Nat := fieldAt o.raw 0 1
def opPeer (o : CollOp) : Nat := fieldAt o.raw 4 1
def opLocal (o : CollOp) : Bool := bit (fieldAt o.raw 5 1) 0
def opSrc (o : CollOp) : Nat := fieldAt o.raw 0x10 6
def opDst (o : CollOp) : Nat := fieldAt o.raw 0x18 6
def opBytes (o : CollOp) : Nat := fieldAt o.raw 0x20 4
def opDeadline (o : CollOp) : Nat := fieldAt o.raw 3 1

/-- Whether an operation reduces (R309): its dst has to lie in a plain range. -/
def opReduces (o : CollOp) : Bool := (opCode o == 2 || opCode o == 3) && decide (fieldAt o.raw 2 1 ≠ 0)

/-- The cell, semaphore and count of the wait word (0x28) and of the post word (0x30). -/
def opWord (o : CollOp) (at_ : Nat) : Nat × Nat × Nat := let w := fieldAt o.raw at_ 8; (bits w 52 12, bits w 46 6, bits w 30 16)

/-- The participants in ascending rank. -/
def opRanks (o : CollOp) : List Nat := (List.range 64).filter (bit (fieldAt o.raw 8 8))
def othersOf (s : State) (o : CollOp) : List Nat := (opRanks o).filter (· != s.grp.rank)

/-- Messages that carry `n` bytes (R297). -/
def msgCount (n : Nat) : Nat := ceilDiv n 896

/-- Whether an operation's senders send posts behind their writes (R310). -/
def sendsPosts (o : CollOp) : Bool := decide ((opWord o 0x30).2.2 ≠ 0) && opCode o != 1 && opCode o != 7

/-- Messages that this module expects of a rank: in the first half of an operation (kind 0), in the gathering half (kind 1), and posts (kind 2)
(DEDUCED, log entry 55). -/
def expectedFrom (s : State) (o : CollOp) (r kind : Nat) : Nat :=
  let k := msgCount (opBytes o)
  let own := s.grp.rank
  if r = own ∨ !(opRanks o).contains r then 0
  else
    let sends := match opCode o with | 0 => opPeer o == own | 1 => opPeer o == r | 6 => opPeer o == r | 7 => false | _ => true
    match kind with
    | 0 => if sends then k else 0
    | 1 => if opCode o = 2 then k else 0
    | _ => b2n (sends && sendsPosts o)

def gotKey (opId rank kind : Nat) : Nat := opId * 256 + 64 * kind + rank

/-- Whether every message of a kind that a rank sends has been performed. -/
def kindDone (s : State) (x : Coll) (o : CollOp) (kind r : Nat) : Bool := decide (expectedFrom s o r kind ≤ mget 0 x.got (gotKey o.opId r kind))

def halfDone (s : State) (x : Coll) (o : CollOp) (kind : Nat) : Bool := (othersOf s o).all (kindDone s x o kind)

/-- The ranks whose messages, posts or acknowledgements of a fence are missing (DEDUCED, log entry 55). -/
def missingRanks (s : State) (x : Coll) (o : CollOp) : List Nat :=
  (othersOf s o).filter (fun r => !(List.range 3).all (fun kind => kindDone s x o kind r) || o.fence.any (fun f => f.1 == r))

/-- Whether the module receives anything in an operation. -/
def receives (s : State) (o : CollOp) : Bool := (othersOf s o).any (fun r => decide (expectedFrom s o r 0 ≠ 0))

/-! ### Errors (R311) -/

/-- An error record of a collective engine, counted for cluster 0 of its die. -/
def recordColl (s : State) (e tag status addr : Nat) : State :=
  let x := collOf s e
  let i := x.errTotal % 16
  let unread := match x.errs.find? (fun p => p.1 == i) with | some (_, r) => !r.read | none => false
  let r : ErrRec := { tag := tag, status := status, entry := 0, frame := frameNow s, address := addr, queue := 0, generation := 0, read := false }
  countErr (setColl s e { x with errs := msplice x.errs i 1 [(i, r)], errTotal := x.errTotal + 1, overwritten := x.overwritten + b2n unread }) (128 * e) 5 1

/-- Changes the operation with an identifier. -/
def modOp (s : State) (e opId : Nat) (f : CollOp → CollOp) : State :=
  modColl s e (fun x => { x with ops := x.ops.map (fun o => if o.opId = opId then f o else o) })
def findOp (s : State) (e opId : Nat) : Option CollOp := (collOf s e).ops.find? (fun o => o.opId == opId)

/-- The tag that an error record of an operation carries. -/
def opTag (s : State) (e opId : Nat) : Nat := match findOp s e opId with | some o => fieldAt o.raw 0x38 4 | none => 0

/-- An operation that meets the guard fails, once, and its step is aborted at the next tick (R311): the context's step in flight, unless
that is another than the operation's (DEDUCED, log entry 56). -/
def failOp (s : State) (e opId context addr : Nat) : State :=
  let s1 := recordColl s e (opTag s e opId) stNotPermitted addr
  match findOp s e opId with
  | none => abortCtx s1 context .engine
  | some o =>
    let mine := match ctxOf s o.context with | some y => (match y.inFlight with | some t => t.id == o.step | none => false) | none => false
    let s2 := if o.failedOnce then s1
      else modColl (modOp s1 e opId (fun o => { o with failedOnce := true })) e (fun x => { x with ledger := { x.ledger with failed := x.ledger.failed + 1 } })
    if mine then abortCtx s2 o.context .engine else s2

/-! ### Sending (R297, R308) -/

/-- The ports of a record that lead to a rank (DEDUCED, log entry 56). -/
def portsTo (s : State) (o : CollOp) (r : Nat) : List Nat := (List.range 14).filter (fun p => bit (fieldAt o.raw 0x24 2) p && decide (mappedRank s p = r))

/-- A message of an operation to a rank over a port. -/
def sendOver (s : State) (e : Nat) (o : CollOp) (p type r addr length : Nat) (poison : BitVec 8) (body data : List Byte) : State :=
  let m : Msg := { port := p, srcRank := s.grp.rank, dstRank := r, partition := (match ctxOf s o.context with | some c => c.partition | none => 8)
                   context := o.context, elem := fieldAt o.raw 1 1, redop := if type = 1 then fieldAt o.raw 2 1 else 0, poison := poison, addr := addr
                   length := length, reserved := false, opId := o.opId, frame := frameNow s, body := body, data := data }
  sendRecordOf (modColl s e (fun x => { x with sent := x.sent ++ [(type, m)], progress := x.progress + 1 })) type m (some (e, o.opId))

/-- The `k`-th message of an operation to a rank, by the next of its ports; nothing leaves where no port leads there (DESIGN CHOICE, log
entry 64). -/
def sendMsg (s : State) (e : Nat) (o : CollOp) (type r addr length k : Nat) (poison : BitVec 8) (body data : List Byte) : State :=
  let ps := portsTo s o r
  match ps[k % ps.length]? with
  | none => s
  | some p => sendOver s e o p type r addr length poison body data

def noBody : List Byte := List.replicate 16 0

/-- The actor of a collective engine for a context (R365). -/
def collActor (s : State) (e context : Nat) : Actor :=
  { owner := (match ctxOf s context with | some c => c.partition | none => 8), cluster := 128 * e, self := none, context := context }

/-- Reads whole lines with their poison bits; the first address that the guard refuses. -/
def collRead (s : State) (x : Actor) (src n : Nat) : State × List (List Byte × Bool) × Option Nat :=
  (List.range (n / 128)).foldl (fun (a : State × List (List Byte × Bool) × Option Nat) i =>
    let (s1, bs, p, st) := readAt a.1 x (src + 128 * i) 128
    (s1, a.2.1 ++ [(bs, p)], if a.2.2.isSome || st = 0 then a.2.2 else some (src + 128 * i))) (s, [], none)

/-- The poison byte of a message of up to seven lines. -/
def poisonBits (l : List (List Byte × Bool)) : BitVec 8 := BitVec.ofNat 8 ((l.zipIdx.map (fun e => if e.1.2 then 2 ^ e.2 else 0)).sum)

/-- A POST to a rank, behind the last of the operation's writes to it (R310). -/
def sendPostTo (s : State) (e : Nat) (o : CollOp) (r : Nat) : State :=
  let (c, j, n) := opWord o 0x30
  if sendsPosts o then
    sendMsg s e o 4 r 0 0 (msgCount (opBytes o) - 1) 0 (leBytes c 2 ++ leBytes j 1 ++ leBytes 0 1 ++ leBytes n 2 ++ leBytes 0 10) []
  else s

/-- Sends `n` bytes from an address to an address of a rank, message by message. -/
def sendBytes (s : State) (e : Nat) (o : CollOp) (type r src dst n : Nat) : State :=
  let (s1, lines, bad) := collRead s (collActor s e o.context) src n
  match bad with
  | some a => failOp s1 e o.opId o.context a
  | none =>
    (List.range (msgCount n)).foldl (fun s k =>
      let l := (lines.drop (7 * k)).take 7
      sendMsg s e o type r (dst + 896 * k) (128 * l.length) k (poisonBits l) noBody (l.flatMap (·.1))) s1

/-- Sends `n` bytes and the post behind them. -/
def sendWrites (s : State) (e : Nat) (o : CollOp) (r src dst n : Nat) : State := sendPostTo (sendBytes s e o 0 r src dst n) e o r

/-- Writes whole lines with their poison bits, or none of them where the guard refuses one: the first such address (R311). -/
def writeLines (s : State) (x : Actor) (dst : Nat) (l : List (List Byte × Bool)) : State × Option Nat :=
  let (s1, bad) := l.zipIdx.foldl (fun (a : State × Option Nat) p =>
    match a.2 with
    | some _ => a
    | none =>
      let (s1, st) := writeAt a.1 x (dst + 128 * p.2) p.1.1 p.1.2
      (s1, if st = 0 then none else some (dst + 128 * p.2))) (s, none)
  match bad with
  | none => (s1, none)
  | some a => (guardFault s x.owner, some a)

/-- The first line of a destination that does not lie in a plain range of a partition. -/
def notPlain (s : State) (owner dst n : Nat) : Option Nat :=
  ((List.range (n / 128)).map (fun i => dst + 128 * i)).find? (fun a => !(inStacks a 128 && plainFor s owner a))

/-- Copies `n` bytes of this module's own part. -/
def ownCopy (s : State) (e : Nat) (o : CollOp) (src dst n : Nat) : State :=
  let x := collActor s e o.context
  let (s1, lines, bad) := collRead s x src n
  match bad.or (if opReduces o then notPlain s x.owner dst n else none) with
  | some a => failOp s1 e o.opId o.context a
  | none =>
    match writeLines s1 x dst lines with
    | (s2, none) => s2
    | (s2, some a) => failOp s2 e o.opId o.context a

/-- The ports over which a fence's requests go to a rank: all that lead there and are up, of both engines, as the fence covers both (R254)
(DEDUCED, log entry 55). -/
def fencePorts (s : State) (r : Nat) : List Nat := (List.range 14).filter (fun p => portUp (portOf s p) && decide (mappedRank s p = r))

/-- Reads of a context that the module's engines have issued and whose data has not come back (R254). -/
def readsOpen (s : State) (context : Nat) : List (Nat × Nat) :=
  s.colls.flatMap (fun e => (e.2.ops.filter (fun o => o.context == context && o.started && opCode o == 1 && !(missingRanks s e.2 o).isEmpty)).map (fun o => (e.1, o.opId)))

/-- A fence starts: its requests go to every participant; their sequence number tells the engine by its low bit. -/
def startFence (s : State) (e : Nat) (o : CollOp) : State :=
  let seq := (2 * (collOf s e).fenceSeq + e) % 2 ^ 32
  let to_ := (othersOf s o).flatMap (fun r => (fencePorts s r).map (fun p => (r, p)))
  let s1 := modColl s e (fun x => { x with fenceSeq := (x.fenceSeq + 1) % 2 ^ 31 })
  let s2 := modOp s1 e o.opId (fun o => { o with fence := to_.map (fun d => (d.1, d.2, seq)), after := readsOpen s o.context })
  to_.foldl (fun s d => sendOver s e o d.2 11 d.1 0 0 0 (leBytes seq 4 ++ leBytes 0 12) []) s2

/-- This module's part of an operation when it starts (Table 13-8, R309 step 1) (DEDUCED, log entry 55). -/
def performOwn (s : State) (e : Nat) (o : CollOp) : State :=
  let own := s.grp.rank
  let b := opBytes o
  let others := othersOf s o
  let j := (opRanks o).findIdx (· == own)
  let at_ (r : Nat) : Nat := (opRanks o).findIdx (· == r)
  match opCode o with
  | 0 => if opPeer o = own then s else sendWrites s e o (opPeer o) (opSrc o) (opDst o) b
  | 1 =>
    if opPeer o = own then s
    else (List.range (msgCount b)).foldl (fun s k =>
      sendMsg s e o 2 (opPeer o) (opSrc o + 896 * k) 0 k 0 (leBytes (opDst o + 896 * k) 8 ++ leBytes (min 896 (b - 896 * k)) 2 ++ leBytes 0 6) []) s
  | 2 => others.foldl (fun s r => sendBytes s e o 1 r (opSrc o + b * at_ r) (opDst o + b * at_ r) b) (ownCopy s e o (opSrc o + b * j) (opDst o + b * j) b)
  | 3 =>
    others.foldl (fun s r => sendPostTo (sendBytes s e o 1 r (opSrc o + b * at_ r) (opDst o) b) e o r) (ownCopy s e o (opSrc o + b * j) (opDst o) b)
  | 4 => others.foldl (fun s r => sendWrites s e o r (opSrc o) (opDst o + b * j) b) (ownCopy s e o (opSrc o) (opDst o + b * j) b)
  | 5 => others.foldl (fun s r => sendWrites s e o r (opSrc o + b * at_ r) (opDst o + b * j) b) (ownCopy s e o (opSrc o + b * j) (opDst o + b * j) b)
  | 6 =>
    if opPeer o = own then others.foldl (fun s r => sendWrites s e o r (opSrc o) (opDst o) b) (ownCopy s e o (opSrc o) (opDst o) b) else s
  | _ => startFence s e o

/-- The gathering half of an ALL_REDUCE begins once its own slice is reduced (DEDUCED, log entry 55). -/
def beginGather (s : State) (e opId : Nat) : State :=
  match findOp s e opId with
  | none => s
  | some o =>
    if opCode o = 2 && o.started && !o.gathering && halfDone s (collOf s e) o 0 then
      let j := (opRanks o).findIdx (· == s.grp.rank)
      let a := opDst o + opBytes o * j
      (othersOf s o).foldl (fun s r => sendWrites s e o r a a (opBytes o)) (modOp s e opId (fun o => { o with gathering := true }))
    else s

/-! ### Messages that arrive (R297, R299, R309 to R312) -/

/-- The collective engine behind a port. -/
def portEngine (p : Nat) : Nat := p / 7

/-- A REDUCE message's reduction (R309): its element and operation; none for a pair that has none. -/
def redOf (elem redop : Nat) : Option LineRed :=
  match redop, elem with
  | 1, 0 => some .fadd32
  | 1, 1 => some .badd16
  | 1, 2 => some .iadd32
  | 2, 0 => some .fmax32
  | _, _ => none

/-- The source of what a message does here: the collective engine behind its port, for the message's partition (R365). -/
def msgActor (m : Msg) : Actor := { owner := m.partition, cluster := 128 * portEngine m.port, self := none, context := m.context }

/-- Whether the values of a message fit the fields of its header (Table 13-5). -/
def msgFits (m : Msg) : Bool :=
  decide (m.port < 14 ∧ m.srcRank < 256 ∧ m.dstRank < 256 ∧ m.partition < 256 ∧ m.context < 2 ^ 16 ∧ m.elem < 16 ∧ m.redop < 16 ∧ m.addr < 2 ^ 64 ∧ m.length < 2 ^ 16)
    && decide (m.opId < 2 ^ 32 ∧ m.frame < 2 ^ 64 ∧ m.body.length = 16)

/-- What R297 asks of every header: no Reserved bit, and a rank that exists. -/
def headOk (m : Msg) : Bool := !m.reserved && decide (m.srcRank < 64 ∧ m.dstRank < 64 ∧ m.addr < 2 ^ 48 ∧ m.frame < 2 ^ 48)

/-- Whether a data or fence message is for this module, and its context is known here for its partition (R297) (DEDUCED, log entry 56). -/
def msgKnown (s : State) (m : Msg) : Bool :=
  headOk m && decide (m.dstRank = s.grp.rank) && decide (m.partition < 8)
    && (match ctxOf s m.context with | some c => c.group && decide (c.partition = m.partition) | none => false)

/-- A message that is discarded with an error. -/
def dropMsg (s : State) (port addr : Nat) : State :=
  recordColl (modPort s port (fun x => { x with msgErrors := x.msgErrors + 1 })) (portEngine port) 0 stNotPermitted addr

/-- A message on a port of the module: nothing arrives on a port that is not up; what is not as R297 asks is discarded (DEDUCED, log entry 56). -/
def onMessage (s : State) (m : Msg) (ok : Bool) (f : State → State) : Host.Outcome State Fault Refusal :=
  if !msgFits m then .refused (.noSuchUnit "message field")
  else if !portUp (portOf s m.port) then .next s
  else if !ok then .next (dropMsg s m.port m.addr)
  else .next (f (countLink s m.port 1 (48 + m.data.length)))

/-- Data of a message: whole lines, as many as its length says, and no body (Table 13-16). -/
def dataOk (m : Msg) : Bool :=
  decide (m.length ≤ 896) && decide (m.length % 128 = 0) && decide (m.data.length = m.length) && decide (m.addr % 128 = 0) && decide (leNat m.body = 0)

/-- The lines of a message with their poison bits. -/
def msgLines (m : Msg) : List (List Byte × Bool) := (List.range (m.data.length / 128)).map (fun i => ((m.data.drop (128 * i)).take 128, m.poison.toNat.testBit i))

/-- The post of an operation on a receiving module, once every message that it expects has been performed (R310); a failed operation posts
nothing. -/
def postWhenDone (s : State) (e opId : Nat) : State :=
  match findOp s e opId with
  | none => s
  | some o =>
    let (c, j, n) := opWord o 0x30
    if o.posted || o.failedOnce || n = 0 || !receives s o || !(missingRanks s (collOf s e) o).isEmpty then s
    else
      let s1 := modOp s e opId (fun o => { o with posted := true })
      match semAdd s1 (collActor s1 e o.context) c j n with
      | (s2, 0) => s2
      | (s2, _) => failOp s2 e opId o.context 0

/-- A message of an operation has been performed. -/
def notePerformed (s : State) (m : Msg) (kind : Nat) : State :=
  let e := portEngine m.port
  postWhenDone (beginGather (modColl s e (fun x => { x with got := madd x.got (gotKey m.opId m.srcRank kind) 1, progress := x.progress + 1 })) e m.opId) e m.opId

/-- Performs a WRITE or READ_RESP: its lines are written, all or none (DEDUCED, log entry 56). -/
def performWrite (s : State) (m : Msg) : State :=
  let e := portEngine m.port
  let o := findOp s e m.opId
  let kind := match o with | some o => b2n (opCode o == 2) | none => 0
  match (if (match o with | some o => opReduces o | none => false) then notPlain s m.partition m.addr m.data.length else none) with
  | some a => failOp s e m.opId m.context a
  | none =>
    match writeLines s (msgActor m) m.addr (msgLines m) with
    | (s1, none) => notePerformed s1 m kind
    | (s1, some a) => failOp s1 e m.opId m.context a

/-- One line of a contribution at its home slice, with its place in the message: a line that is poisoned at its source is written poisoned, a
reduction onto a poisoned line leaves it so and is recorded (R309, R311). -/
def reduceMsgLine (m : Msg) (r : LineRed) (s : State) (l : (List Byte × Bool) × Nat) : State :=
  let e := portEngine m.port
  let a := m.addr + 128 * l.2
  if l.1.2 then (classAWrite s (msgActor m).src a zeroLine true).1
  else
    match lineReduce s (msgActor m).src r a l.1.1 with
    | (s1, st) => if st = stPoison then recordColl s1 e (opTag s1 e m.opId) stPoison a else s1

/-- Performs a contribution (R309 step 2) as line reductions at the home slices (DEDUCED, log entry 56). -/
def performReduce (s : State) (m : Msg) : State :=
  match redOf m.elem m.redop, notPlain s m.partition m.addr m.data.length with
  | some r, none => notePerformed ((msgLines m).zipIdx.foldl (reduceMsgLine m r) s) m 0
  | _, some a => failOp (guardFault s m.partition) (portEngine m.port) m.opId m.context a
  | none, none => s

/-- Performs a POST: an operation of this module takes it among the messages that it waits for; where there is none, it posts as it
stands (DEDUCED, log entry 55). -/
def performPost (s : State) (m : Msg) : State :=
  let e := portEngine m.port
  if (findOp s e m.opId).isSome || decide ((collOf s e).nextId ≤ m.opId) then notePerformed s m 2
  else
    match semAdd s (msgActor m) (fieldAt m.body 0 2) (fieldAt m.body 2 1) (fieldAt m.body 4 2) with
    | (s1, 0) => s1
    | (s1, _) => failOp s1 e m.opId m.context 0

/-- The reply of a collective engine to a rank over the port on which a message came. -/
def replyMsg (s : State) (m : Msg) (type addr length : Nat) (poison : BitVec 8) (body data : List Byte) : State :=
  let r : Msg := { m with srcRank := s.grp.rank, dstRank := m.srcRank, elem := 0, redop := 0, poison := poison, addr := addr, length := length
                          frame := frameNow s, body := body, data := data }
  sendRecordOf (modColl s (portEngine m.port) (fun x => { x with sent := x.sent ++ [(type, r)], progress := x.progress + 1 })) type r none

/-- Performs a READ_REQ: the lines are read and go back. -/
def performRead (s : State) (m : Msg) : State :=
  let n := fieldAt m.body 8 2
  let (s1, lines, bad) := collRead s (msgActor m) m.addr n
  match bad with
  | some a => failOp s1 (portEngine m.port) m.opId m.context a
  | none => replyMsg s1 m 3 (fieldAt m.body 0 6) n (poisonBits lines) noBody (lines.flatMap (·.1))

/-- Performs a message, and charges its context with the bytes that this moves (R283). -/
def performMsg (s : State) (type : Nat) (m : Msg) : State :=
  charge s (match type with
    | 1 => performReduce s m
    | 2 => performRead s m
    | 4 => performPost s m
    | 11 => replyMsg s m 12 0 0 0 (m.body.take 4 ++ leBytes 0 12) []
    | _ => performWrite s m) m.context

/-! ### Messages that wait (R253, R254, R309) -/

/-- The attachment that an address lies at: a stack's, or a cluster's. -/
def attachmentOf (a : Nat) : Nat :=
  match placeOf a with
  | .window c _ => 24 + c / 16
  | .mailbox c _ => 24 + c / 16
  | .stack => stackNo a
  | _ => 24 + 256

def attachmentsOf (m : Msg) : List Nat := (List.range (m.data.length / 128)).map (fun i => attachmentOf (m.addr + 128 * i))

/-- Whether a contribution comes before step 1 of its operation has been performed here (DEDUCED, log entry 56). -/
def tooEarly (s : State) (m : Msg) : Bool :=
  let x := collOf s (portEngine m.port)
  match x.ops.find? (fun o => o.opId == m.opId) with
  | some o => !o.started
  | none => decide (x.nextId ≤ m.opId)

/-- Whether a message has to wait: a contribution for its operation's start; a write or contribution for those before it on its path, to an
attachment of its own; a post for its operation's messages; a fence's request for every message of its context before it. A write that the
home slice holds for the host counts as not performed (R323) (DEDUCED, log entry 56). -/
def mustWait (s : State) (type : Nat) (m : Msg) : Bool :=
  let e := portEngine m.port
  let path := (collOf s e).held.filter (fun h => h.2.port == m.port && h.2.srcRank == m.srcRank)
  let slice (p : Nat → Bool) : Bool := s.host.heldWrites.any (fun w => w.cluster == 128 * e && w.owner == m.partition && p w.addr)
  let meets (as : List Nat) : Bool := as.any (fun a => (attachmentsOf m).contains a)
  match type with
  | 0 => path.any (fun h => meets (attachmentsOf h.2)) || slice (fun a => meets [attachmentOf a])
  | 1 => tooEarly s m || path.any (fun h => meets (attachmentsOf h.2)) || slice (fun a => meets [attachmentOf a])
  | 4 => path.any (fun h => h.2.opId == m.opId) || slice (fun _ => true)
  | 11 => path.any (fun h => h.2.context == m.context) || slice (fun _ => true)
  | _ => false

/-- A message is performed, or held until it may be. -/
def takeMsg (s : State) (type : Nat) (m : Msg) : State :=
  if mustWait s type m then modColl s (portEngine m.port) (fun x => { x with held := x.held ++ [(type, m)] }) else performMsg s type m

/-- The held messages of an engine, in their order: those that need wait no longer are performed. -/
def resumeColl (s : State) (e : Nat) : State :=
  let l := (collOf s e).held
  l.foldl (fun s h => takeMsg s h.1 h.2) (modColl s e (fun x => { x with held := [] }))

def resumeColls (s : State) : State := resumeColl (resumeColl s 0) 1

/-- A data or fence message arrives: its traffic is its context's (R283), and it is taken behind what has waited. -/
def onData (s : State) (type : Nat) (m : Msg) (ok : Bool) : Host.Outcome State Fault Refusal :=
  onMessage s m (msgKnown s m && ok) (fun s => takeMsg (resumeColl (account s m.context (acGlonyRx + m.port) (48 + m.data.length)) (portEngine m.port)) type m)

/-- WRITE. -/
def execWrite (m : Msg) (s : State) : Host.Outcome State Fault Refusal := onData s 0 m (dataOk m)

/-- REDUCE. -/
def execReduce (m : Msg) (s : State) : Host.Outcome State Fault Refusal := onData s 1 m (dataOk m && (redOf m.elem m.redop).isSome)

/-- READ_REQ: reads the source data and returns it. -/
def execReadReq (m : Msg) (s : State) : Host.Outcome State Fault Refusal :=
  let n := fieldAt m.body 8 2
  onData s 2 m (decide (m.length = 0) && m.data.isEmpty && decide (128 ≤ n ∧ n ≤ 896 ∧ n % 128 = 0) && decide (fieldAt m.body 6 2 = 0) && decide (fieldAt m.body 10 6 = 0))

/-- READ_RESP: the data that a READ_REQ of this module asked for. -/
def execReadResp (m : Msg) (s : State) : Host.Outcome State Fault Refusal := onData s 3 m (dataOk m)

/-- A message without address and data. -/
def bareOk (m : Msg) : Bool := decide (m.length = 0) && m.data.isEmpty && decide (m.addr = 0)

/-- POST: a semaphore is posted behind the writes that came before it on the port. -/
def execPost (m : Msg) (s : State) : Host.Outcome State Fault Refusal :=
  onData s 4 m (bareOk m && decide (fieldAt m.body 0 2 < 4096) && decide (fieldAt m.body 2 1 < 64) && decide (fieldAt m.body 3 1 = 0) && decide (fieldAt m.body 6 10 = 0))

/-- FENCE_REQ: acknowledged once every access that came before it has been performed. -/
def execFenceReq (m : Msg) (s : State) : Host.Outcome State Fault Refusal := onData s 11 m (bareOk m && decide (fieldAt m.body 4 12 = 0))

/-- FENCE_ACK: the fence whose request carried the sequence number awaits one acknowledgement less. -/
def fenceAcked (s : State) (m : Msg) : State :=
  let seq := fieldAt m.body 0 4
  modColl (modOp s (seq % 2) m.opId (fun o => { o with fence := o.fence.filter (fun f => f != (m.srcRank, m.port, seq)) })) (seq % 2) (fun x => { x with progress := x.progress + 1 })

def execFenceAck (m : Msg) (s : State) : Host.Outcome State Fault Refusal :=
  onMessage s m (msgKnown s m && bareOk m && decide (fieldAt m.body 4 12 = 0)) (fun s => fenceAcked (account s m.context (acGlonyRx + m.port) 48) m)

/-- RECORD_RECEIVE: the record at the head of the receive buffer, whole and of the channel, is authenticated; its plaintext is the answer. A
message of a reserved type is discarded with an error; the messages themselves are commands of their own (DEDUCED, log entry 53). -/
def execRecordReceive (port vc : Nat) (s : State) : Host.Outcome State Fault Refusal :=
  if 14 ≤ port ∨ 4 ≤ vc then .refused (.noSuchUnit "port or channel")
  else
    let x := portOf s port
    match (if portUp x then firstRecord 4 x.rx else none) with
    | some (f :: t) =>
      if f.vc ≠ vc then .next s
      else
        match recordPlain x (f :: t) with
        | none => .next (recordFails s port f.seq)
        | some (which, plain) =>
          let s1 := { setPort s port (recordTaken x vc (t.length + 1) which) with resp := { data := plain } }
          .next (pumpOrTell (if 13 ≤ fieldAt plain 0 1 then dropMsg s1 port (fieldAt plain 8 6) else s1) port 4)
    | _ => .next s

/-- BIRSP: the host's answer to BISnpInv for the line of an address; what the line's writes held up goes on (R323) (DEDUCED, log entry 69). -/
def execBirsp (addr : Nat) (s : State) : Host.Outcome State Fault Refusal :=
  if !inStacks addr 1 then .refused (.noSuchUnit "line")
  else if s.host.snoop.contains (addr / 128) then .next (resumeColls (snoopLeave s (addr / 128))) else .next s

/-! ### The steps of an engine (R307, R310, R312) -/

/-- Admits the records of an operation list (R307): each that has a wait joins its semaphore's queue (R164). -/
def admitList (s : State) (e context step : Nat) (list : List Byte) : State :=
  (List.range (fieldAt list 0 2)).foldl (fun s i =>
    let raw := bytesAt list (16 + 64 * i) 64
    let id := (collOf s e).nextId
    let o : CollOp := { raw := raw, context := context, step := step, opId := id, startFrame := frameNow s, joined := false, granted := false, started := false
                        gathering := false, posted := false, timedOut := false, failedOnce := false, fence := [], after := [], waitAt := {} }
    let (c, j, n) := opWord o 0x28
    let q := { o with joined := decide (n ≠ 0), waitAt := beginWait s (semOf (cellOf s c) j).value }
    let s1 := modColl s e (fun x => { x with ops := x.ops ++ [q], nextId := (id + 1) % 2 ^ 32, ledger := { x.ledger with accepted := x.ledger.accepted + 1 } })
    if n = 0 then s1 else modCell s1 c (fun y => joinSem y j (.collective e id n) false)) s

/-- Whether an operation's wait is over, and a fence finds no ALL_REDUCE of its context that has writes still to issue (R254). -/
def opReady (s : State) (o : CollOp) : Bool :=
  (!o.joined || o.granted)
    && (opCode o != 7 || s.colls.all (fun e => e.2.ops.all (fun p => p.context != o.context || opCode p != 2 || !p.started || p.gathering || p.failedOnce)))

/-- Operations in progress on an engine. -/
def inProgress (x : Coll) : Nat := (x.ops.filter (fun o => o.started && !o.failedOnce)).length

/-- COLLECTIVE_OP_START: at most 16 operations are in progress, and each starts once its wait is satisfied: the wait at the head of its
semaphore's queue is tested (R164). -/
def execCollectiveOpStart (engine index : Nat) (s : State) : Host.Outcome State Fault Refusal :=
  if 2 ≤ engine then .refused (.noSuchUnit "collective engine")
  else
    let x := collOf s engine
    match x.ops[index]? with
    | none => .next s
    | some o =>
      if o.started || o.failedOnce || decide (16 ≤ inProgress x) then .next s
      else
        let (c, j, _) := opWord o 0x28
        let s1 := if o.joined && !o.granted then grantHead s c j else s
        match findOp s1 engine o.opId with
        | none => .next s1
        | some o1 =>
          if !opReady s1 o1 then .next s1
          else
            let s2 := performOwn (modOp s1 engine o.opId (fun o => { o with started := true })) engine o1
            .next (resumeColl (charge s1 (postWhenDone (beginGather s2 engine o.opId) engine o.opId) o.context) engine)

/-- Whether everything that an operation has sent has been acknowledged (R310). -/
def sendsAcked (s : State) (e opId : Nat) : Bool :=
  s.ports.all (fun p => p.2.unacked.all (fun f => f.op != some (e, opId)) && p.2.outQ.all (fun q => q.2.all (fun r => r.op != some (e, opId))))

/-- Whether the operations that a fence waits for have ended or have their data (R254). -/
def afterDone (s : State) (o : CollOp) : Bool :=
  o.after.all (fun a => match findOp s a.1 a.2 with | some p => (missingRanks s (collOf s a.1) p).isEmpty | none => true)

/-- Whether all that an operation does here has been done, and its messages are acknowledged. -/
def opDone (s : State) (e : Nat) (o : CollOp) : Bool :=
  o.started && (missingRanks s (collOf s e) o).isEmpty && (opCode o != 2 || o.gathering || (othersOf s o).isEmpty) && sendsAcked s e o.opId && afterDone s o

/-- COLLECTIVE_OP_COMPLETE: the post of a receiving module where it has not been applied, the post of a fence, and the local post; a
failed operation sends none. -/
def execCollectiveOpComplete (engine index : Nat) (s : State) : Host.Outcome State Fault Refusal :=
  if 2 ≤ engine then .refused (.noSuchUnit "collective engine")
  else
    match (collOf s engine).ops[index]? with
    | none => .next s
    | some o =>
      if !opDone s engine o then .next s
      else
        let (c, j, n) := opWord o 0x30
        let x := collActor s engine o.context
        let post (s : State) (yes : Bool) : State := if yes && n != 0 && !o.failedOnce then (semAdd s x c j n).1 else s
        let s1 := post (post s ((receives s o && !o.posted) || opCode o == 7)) (opLocal o)
        .next (modColl s1 engine (fun y =>
          { y with ops := y.ops.filter (fun p => p.opId != o.opId), got := y.got.filter (fun g => g.1 / 256 != o.opId), progress := y.progress + 1
                   ledger := if o.failedOnce then y.ledger else { y.ledger with completed := y.ledger.completed + 1 } }))

/-- Frames since an operation was issued. -/
def opAge (s : State) (o : CollOp) : Nat := (frameNow s + 2 ^ 48 - o.startFrame) % 2 ^ 48

/-- Whether the module is late at a check point because of an operation in its deadline frame (R310). -/
def deadlineMissed (s : State) : Bool := s.colls.any (fun e => e.2.ops.any (fun o => decide (opDeadline o ≤ opAge s o) && !opDone s e.1 o))

/-- COLLECTIVE_TIMEOUT: the operation is reported in the next heartbeat and stays in progress until the abort tick. -/
def execCollectiveTimeout (engine index : Nat) (s : State) : Host.Outcome State Fault Refusal :=
  if 2 ≤ engine then .refused (.noSuchUnit "collective engine")
  else
    match (collOf s engine).ops[index]? with
    | none => .next s
    | some o =>
      if o.timedOut || opDone s engine o || decide (opAge s o < opDeadline o + 3) then .next s
      else .next (modOp (recordColl s engine (fieldAt o.raw 0x38 4) stMemberLost 0) engine o.opId (fun o => { o with timedOut := true }))

end Sys2Proof.Machine
end

