-- ==== Sys2Proof/Machine/Health.lean ====
section
/-! DEFINITION. Machine/Health.lean: progress windows, hangs and the wait-for graph (R419 to R423, R442 to R445), reset domains
and their ladder (R424 to R428), and the commands of the health family (R219 to R221, R359, R431, R432). -/

namespace Sys2Proof.Machine

open Sys2Proof

/-! ### Units with a progress window (Table 18-5) -/

/-- A number for each unit, and whether the module has it. -/
def unitKey : HangUnit → Nat
  | .cell c => c
  | .mover c => 4096 + c
  | .gather n => 8192 + n
  | .packer n => 8448 + n
  | .expander n => 8704 + n
  | .port p => 8960 + p
def unitOk : HangUnit → Bool
  | .cell c => decide (c < 4096)
  | .mover c => decide (c < 4096)
  | .port p => decide (p < 14)
  | .gather n => decide (n < 256)
  | .packer n => decide (n < 256)
  | .expander n => decide (n < 256)

/-- The smallest reset domain of a unit (R424); a port has none. -/
def unitDomain : HangUnit → Domain
  | .cell c => ⟨0, c⟩
  | .mover c => ⟨0, c⟩
  | .gather n => ⟨2, n⟩
  | .packer n => ⟨2, 256 + n⟩
  | .expander n => ⟨2, 512 + n⟩
  | .port _ => ⟨5, 0⟩

/-- Whole frames of a unit's window. -/
def unitWindow : HangUnit → Nat
  | .cell _ => 4
  | .port _ => 8
  | _ => 2

/-- Whether an engine holds an outstanding transfer, far-tier reads apart, or an unissued descriptor of its list or tile queue. -/
def engWork (e : Engine) (y : Eng) : Bool :=
  y.xfers.any (fun x => !x.farTier) || !y.listQ.isEmpty || !y.tileQ.isEmpty
    || y.tasks.any (fun t => t.q != .prefetch && decide (t.issued < transfersOf (descOf e t.desc.raw)))

/-- The engines whose blocks a cluster's expander decodes. -/
def expanderEngines (n : Nat) : List Engine := .gather n :: (upto (16 * n) 16).map Engine.mover
def toDecode (x : Xfer) : Bool := x.codec && !x.moved && !x.cancelled

/-- Whether a unit has work (DEDUCED, log entry 43). -/
def unitWork (s : State) : HangUnit → Bool
  | .cell c => (cellOf s c).active
  | .mover c => engWork (.mover c) (cellOf s c).mover
  | .gather n => engWork (.gather n) (clusterOf s n).gather
  | .packer n => engWork (.packer n) (clusterOf s n).packer
  | .expander n => (expanderEngines n).any (fun e => (engOf s e).xfers.any toDecode)
  | .port p => portUp (portOf s p) && (!(portOf s p).unacked.isEmpty || (portOf s p).outQ.any (fun e => !e.2.isEmpty))

/-- A unit's progress counter (DEDUCED, log entry 43). -/
def unitProgress (s : State) : HangUnit → Nat
  | .cell c => (cellOf s c).progress
  | .mover c => (cellOf s c).mover.progress
  | .gather n => (clusterOf s n).gather.progress
  | .packer n => (clusterOf s n).packer.progress
  | .expander n => (clusterOf s n).expProgress
  | .port p => (portOf s p).progress

/-- The units of the cells and clusters that hold anything, and the ports. -/
def cellUnits (s : State) : List HangUnit := s.cells.flatMap (fun e => [HangUnit.cell e.1, HangUnit.mover e.1])
def clusterIds (s : State) : List Nat :=
  let listed : List Nat := s.clusters.map (fun e => e.1)
  let held : List Nat := s.cells.map (fun e => e.1 / 16)
  (listed ++ held).eraseDups
def clusterUnits (s : State) : List HangUnit := (clusterIds s).flatMap (fun n => [HangUnit.gather n, HangUnit.packer n, HangUnit.expander n])
def allUnits (s : State) : List HangUnit := cellUnits s ++ clusterUnits s ++ (List.range 14).map HangUnit.port

/-- The watch at a tick: a unit without work leaves it; one that has advanced, or has just got work, begins its window (DEDUCED, log entry 43). -/
def watchTick (s : State) : State :=
  let next := ((allUnits s).filter (unitWork s)).foldl (fun (m : SMap (Nat × Nat)) u =>
    let k := unitKey u
    let old := mget (0, 0) s.health.watch k
    let p := unitProgress s u + 1
    mset (0, 0) m k (if old.1 = p then old else (p, s.frames.ticks))) []
  modHealth s (fun h => { h with watch := next })

/-- Whether a unit's window has closed without progress (DEDUCED, log entry 43). -/
def windowMissed (s : State) (u : HangUnit) : Bool :=
  let w := mget (0, 0) s.health.watch (unitKey u)
  unitWork s u && decide (w.1 = unitProgress s u + 1) && decide (w.2 + unitWindow u ≤ s.frames.ticks)

/-! ### The wait-for graph (R442, R443) -/

/-- A node's kind, id and index (Table 19-12). -/
abbrev GKey := Nat × Nat × Nat

def unitGKey : HangUnit → GKey
  | .cell c => (0, c, 0)
  | .mover c => (1, c, 0)
  | .gather n => (2, n, 0)
  | .packer n => (3, n, 0)
  | .expander n => (4, n, 0)
  | .port _ => (5, 0, 0)

/-- What the transfers of an engine wait on outside the module: a far-tier read, or the host; none where some transfer waits
on nothing outside. -/
def outsideWaits (y : Eng) : Option (List (GKey × Nat)) :=
  let outer (x : Xfer) : Bool := x.farTier || placeOf x.src == .host || placeOf x.dst == .host
  if y.xfers.all outer then
    some ((if y.xfers.any (·.farTier) then [((9, 0, 0), 0)] else []) ++ (if y.xfers.any (fun x => !x.farTier) then [((8, 0, 0), 0)] else []))
  else none

/-- What an engine waits on, with the amount wanted. An engine with a transfer under way on the module waits on nothing. -/
def engWaits (e : Engine) (y : Eng) : List (GKey × Nat) :=
  match outsideWaits y with
  | none => []
  | some out =>
    y.tasks.flatMap (fun t =>
      let d := descOf e t.desc.raw
      if t.queuedWait && !t.granted then [((6, d.waitCell, d.waitSem), d.waitN)]
      else if t.creditWait then [((7, d.acctCell, d.counter), creditUnits d)] else []) ++ out

/-- What a cell's sequencer waits on: a semaphore, or its mover under a fence. -/
def cellWaits (c : Nat) (x : Cell) : List (GKey × Nat) :=
  match x.held with
  | some (.semWait j n _) => [((6, c, j), n)]
  | some (.fence m) => if m[0] then [((1, c, 0), 0)] else []
  | _ => []

/-- What a collective engine waits on: the semaphores of operations that have not started, and the ranks that are missing. -/
def collWaits (s : State) (x : Coll) : List (GKey × Nat) :=
  x.ops.flatMap (fun o =>
    if o.started then (missingRanks s x o).map (fun r => ((10, r, 0), 0))
    else let (c, j, n) := opWord o 0x28; if n = 0 then [] else [((6, c, j), n)])

/-- What a unit of the graph waits on (DEDUCED, log entry 44). -/
def keyWaits (s : State) (k : GKey) : List (GKey × Nat) :=
  match k.1 with
  | 0 => cellWaits k.2.1 (cellOf s k.2.1)
  | 1 => engWaits (.mover k.2.1) (cellOf s k.2.1).mover
  | 2 => engWaits (.gather k.2.1) (clusterOf s k.2.1).gather
  | 3 => engWaits (.packer k.2.1) (clusterOf s k.2.1).packer
  | 5 => collWaits s (collOf s k.2.1)
  | _ => []

/-- The tile operations that a cell has yet to run: those from the start of its outermost loop or its pc on, and later tiles. -/
def tileAhead (x : Cell) : List TileOp :=
  let from_ := match x.loops.map (·.first) with | [] => x.pc | l => l.foldl min x.pc
  (if x.active then (x.tile.drop from_ ++ x.later.flatten).filterMap (fun w => decodeTile w.toNat) else [])

/-- Whether a descriptor is due to post a semaphore, or to add to the word at an address by a fumarole write. -/
def descPosts (e : Engine) (x : QDesc) (sem : Option (Nat × Nat)) (addr : Nat) : Bool :=
  let d := descOf e x.raw
  (match sem with | some (c, j) => decide (d.postInc ≠ 0) && d.postCell == c && d.postSem == j | none => false) || (d.op == 4 && d.dst == addr)

/-- Every descriptor that an engine holds. -/
def engDescs (y : Eng) : List QDesc := y.listQ ++ y.tileQ ++ y.prefetchQ ++ y.tasks.map (·.desc)

/-- The units that are due to advance an object (R442) (DEDUCED, log entry 44). -/
def advancers (s : State) (k : GKey) : List GKey :=
  let (kind, c, j) := k
  let sem := if kind = 6 then some (c, j) else none
  let addr := if kind = 6 then 0x300000000200 + c * 0x1000 + 8 * j else 0x300002000100 + c * 0x1000 + 8 * j
  if kind ≠ 6 ∧ kind ≠ 7 then []
  else
    let posts (cell : Nat) (op : TileOp) : Bool :=
      match op with | .semPost m _ remote t => kind == 6 && m == j && (if remote then t == c else cell == c) | _ => false
    (s.cells.filter (fun e => (tileAhead e.2).any (posts e.1))).map (fun e => (0, e.1, 0))
      ++ (s.cells.filter (fun e => (engDescs e.2.mover).any (fun x => descPosts (.mover e.1) x sem addr))).map (fun e => (1, e.1, 0))
      ++ (s.clusters.filter (fun e => (engDescs e.2.gather).any (fun x => descPosts (.gather e.1) x sem addr))).map (fun e => (2, e.1, 0))
      ++ (s.clusters.filter (fun e => (engDescs e.2.packer).any (fun x => descPosts (.packer e.1) x sem addr))).map (fun e => (3, e.1, 0))
      ++ (s.colls.filter (fun e => kind == 6 && e.2.ops.any (fun o => let w := opWord o 0x30; w.1 == c && w.2.1 == j && w.2.2 != 0))).map (fun e => (5, e.1, 0))

/-- The units of the graph, each followed by the objects it waits on, and the external nodes last (at most 12,288 in all) (DEDUCED, log entry 44). -/
def graphKeys (s : State) : List GKey :=
  let units := ((cellUnits s ++ clusterUnits s).filter (unitWork s)).map unitGKey ++ (s.colls.filter (fun e => !e.2.ops.isEmpty)).map (fun e => (5, e.1, 0))
  let waits := units.flatMap (fun k => k :: (keyWaits s k).map (·.1))
  let objs := waits.filter (fun k => decide (k.1 < 8))
  let more := (objs.filter (fun k => decide (5 < k.1))).flatMap (advancers s)
  ((objs ++ more ++ waits.filter (fun k => decide (8 ≤ k.1))).eraseDups).take 12288

/-- The frame in which a unit last advanced, as its watch shows it. -/
def lastProgress (s : State) (k : GKey) : Nat :=
  let u : Option HangUnit := match k.1 with
    | 0 => some (.cell k.2.1) | 1 => some (.mover k.2.1) | 2 => some (.gather k.2.1) | 3 => some (.packer k.2.1) | 4 => some (.expander k.2.1) | _ => none
  match u with
  | none => 0
  | some u =>
    let w := mget (0, 0) s.health.watch (unitKey u)
    if w.1 = 0 then frameNow s else (frameNow s + 2 ^ 48 - (s.frames.ticks + 1 - w.2)) % 2 ^ 48

/-- A node of the graph. -/
def graphNode (s : State) (k : GKey) : GNode :=
  let waits := keyWaits s k
  let out := match k.1 with
    | 1 => (cellOf s k.2.1).mover.xfers.length
    | 2 => (clusterOf s k.2.1).gather.xfers.length
    | 3 => (clusterOf s k.2.1).packer.xfers.length
    | _ => 0
  let state := if 8 ≤ k.1 then 3 else if 6 ≤ k.1 then 2 else if waits.isEmpty then 1 else 0
  let value := match k.1 with
    | 6 => (semOf (cellOf s k.2.1) k.2.2).value
    | 7 => (creditOf (cellOf s k.2.1) k.2.2).value
    | _ => match waits with | w :: _ => w.2 | [] => 0
  { kind := k.1, state := state, id := k.2.1, index := k.2.2, outstanding := min out 8, value := value, progress := if k.1 < 6 then lastProgress s k else 0 }

/-- The edges of the graph: waits on (0) and advanced by (1), at most 32,768. -/
def graphEdges (s : State) (keys : List GKey) : List (Nat × Nat × Nat) :=
  let at_ (k : GKey) : Option Nat := keys.findIdx? (· == k)
  ((keys.zipIdx.flatMap (fun e =>
    if e.1.1 < 6 then (keyWaits s e.1).filterMap (fun w => (at_ w.1).map (fun n => (e.2, n, 0)))
    else (advancers s e.1).filterMap (fun k => (at_ k).map (fun n => (e.2, n, 1))))).eraseDups).take 32768

/-- Where a walk along first edges ends: at a node without an edge, with the node before it, or in a cycle. -/
inductive WalkEnd where
  | stop (last before_ : Nat)
  | cycle (nodes : List Nat)
  deriving DecidableEq, Repr

def walkGraph (edges : List (Nat × Nat × Nat)) : Nat → List Nat → Nat → WalkEnd
  | 0, seen, n => .stop n (seen.headD n)
  | fuel + 1, seen, n =>
    match edges.find? (fun e => e.1 == n) with
    | none => .stop n (seen.headD n)
    | some (_, m, _) => if m = n ∨ seen.contains m then .cycle (((n :: seen).takeWhile (· != m)) ++ [m]) else walkGraph edges fuel (n :: seen) m

/-- A unit's own domain, its cluster, and its die. -/
def keyPlace (k : GKey) : Domain × Option Nat × Nat :=
  match k.1 with
  | 0 => (⟨0, k.2.1⟩, some (k.2.1 / 16), k.2.1 / 2048)
  | 1 => (⟨0, k.2.1⟩, some (k.2.1 / 16), k.2.1 / 2048)
  | 5 => (⟨2, 768 + k.2.1⟩, none, k.2.1)
  | n => (⟨2, 256 * (n - 2) + k.2.1⟩, some k.2.1, k.2.1 / 128)

/-- The smallest domain that contains units (DEDUCED, log entry 44). -/
def smallestDomain (l : List GKey) : Option Domain :=
  match l.map keyPlace with
  | [] => none
  | p :: r =>
    some (if r.all (fun q => decide (q.1 = p.1)) then p.1
      else match p.2.1 with
        | some n => if r.all (fun q => decide (q.2.1 = some n)) then ⟨1, n⟩ else if r.all (fun q => decide (q.2.2 = p.2.2)) then ⟨4, p.2.2⟩ else ⟨5, 0⟩
        | none => if r.all (fun q => decide (q.2.2 = p.2.2)) then ⟨4, p.2.2⟩ else ⟨5, 0⟩)

/-- The graph of a hang and its verdict (R422): the walk begins at the hung unit (DEDUCED, log entry 44). -/
def buildGraph (s : State) (u : HangUnit) : Graph × Option Domain :=
  let keys := graphKeys s
  let nodes := keys.map (graphNode s)
  let edges := graphEdges s keys
  let start := keys.findIdx (· == unitGKey u)
  let at_ (n : Nat) : GKey := keys.getD n (0, 0, 0)
  let (verdict, root, units) : Nat × Nat × List GKey := match walkGraph edges keys.length [] start with
    | .cycle l => (2, l.getLastD 0, (l.map at_).filter (fun k => decide (k.1 < 6)))
    | .stop n _ =>
      let k := at_ n
      if 8 ≤ k.1 then (3, n, [])
      else if 6 ≤ k.1 then (1, n, ((edges.filter (fun e => e.2.1 == n && e.2.2 == 0)).map (fun e => at_ e.1)))
      else (1, n, [k])
  let target := smallestDomain units
  ({ verdict := verdict, context := s.residency.current.getD 0xFFFF, frame := frameNow s, nodes := nodes, edges := edges, root := root
     targetCls := match target with | some d => d.cls | none => 0xFF, targetNum := match target with | some d => d.number | none => 0 }, target)

/-- The starvation cause of a graph (Table 18-13): 1 a lost rank, 2 the host, 3 the far tier, and the rank. -/
def starvedBy (g : Graph) : Nat × Nat :=
  if g.verdict ≠ 3 then (0, 0)
  else match g.nodes[g.root]? with
    | some n => if n.kind = 10 then (1, n.id) else if n.kind = 8 then (2, 0) else (3, 0)
    | none => (0, 0)

/-! ### Hangs (R421) -/

/-- Detection: the event, the counter, the graph; the step of the running context is aborted at the next tick. -/
def hang (s : State) (u : HangUnit) : State :=
  let d := unitDomain u
  let data := leBytes d.cls 1 ++ leBytes d.number 2
  let c := s.residency.current.getD 0xFFFF
  let s1 := match runningPart s with
    | some p => raiseEvent (raiseEvent s 0 0x8007 p c data) (p + 1) 0x8007 p c data
    | none => raiseEvent s 0 0x8007 8 0xFFFF data
  let (g, target) := buildGraph s u
  let why := starvedBy g
  abortRunning (modHealth s1 (fun h =>
    { h with hangs := h.hangs + 1, lastHangFrame := frameNow s, lastHang := d, recovering := true, hangAt := some s.frames.ticks, graph := g, verdict := g.verdict
             target := target, starvation := why.1, starvationRank := why.2 })) .hang

/-- HANG_DETECT: the reset controller's check of a unit at a tick. A port retrains; any other unit is hung (DEDUCED, log entry 43). -/
def execHangDetect (u : HangUnit) (s : State) : Host.Outcome State Fault Refusal :=
  if !unitOk u then .refused (.noSuchUnit "unit with a progress window")
  else if !windowMissed s u then .next s
  else match u with
    | .port p => .next (reportReach (modPort s p retrainPort))
    | _ => if s.health.recovering then .next s else .next (hang s u)

/-! ### Beginning a reset (R424, R425, R427) -/

/-- Instances of a domain class. -/
def domainCount : Nat → Nat
  | 0 => 4096 | 1 => 256 | 2 => 770 | 3 => 32 | 4 => 2 | 5 => 1 | _ => 0
def domainOk (d : Domain) : Bool := decide (d.number < domainCount d.cls)

/-- Whether a domain lies inside another. -/
def inside (a b : Domain) : Bool :=
  decide (a = b) || (match b.cls with
    | 1 => (a.cls == 0 && a.number / 16 == b.number) || (a.cls == 2 && decide (a.number < 768) && a.number % 256 == b.number)
    | 4 => match a.cls with
      | 0 => a.number / 2048 == b.number
      | 1 => a.number / 128 == b.number
      | 2 => if a.number < 768 then a.number % 256 / 128 == b.number else a.number - 768 == b.number
      | 3 => a.number / 16 == b.number
      | _ => false
    | 5 => true
    | _ => false)

/-- A port of a die that is reset goes dark; one in use retrains when the die is back (Table 18-9, steps 4 and 8). -/
def darkPort (x : Port) : Port := if portUp x || x.state == .training then { portDown x with retrainDue := true } else x

/-- A reset begins, with its cause as HX_HEALTH_STATUS codes it. Steps that use the domain are aborted at the next tick; a
module reset acts at once. The ports of a die go dark (Table 18-9). -/
def beginDomain (s : State) (d : Domain) (cause : Nat) : State :=
  if d.cls = 5 then resetModule s cause
  else
    let s1 := modHealth s (fun h =>
      { h with resetting := if h.resetting.contains d then h.resetting else h.resetting ++ [d], lastCause := cause
               hold := (match h.hold with | some k => if inside k d then none else some k | none => none)
               dieState := if d.cls = 4 then mset 0 h.dieState d.number 1 else h.dieState })
    let s2 := if d.cls = 4 then reportReach ((upto (7 * d.number) 7).foldl (fun s p => modPort s p darkPort) s1) else s1
    if d.cls = 3 then s2 else abortRunning s2 .reset

/-- The hang has been dealt with, once nothing of it is left to do. -/
def endRecovery (s : State) : State :=
  let h := s.health
  let done := h.hangAt.isNone && !h.sampling && h.hold.isNone && h.resetting.isEmpty && (match runningCtx s with | some x => !x.reconcile | none => true)
  if h.recovering && done then modHealth s (fun h => { h with recovering := false }) else s

/-- The reset of a hang's target; a starvation has none. -/
def resetTarget (s : State) : State :=
  match s.health.target with
  | some d => beginDomain (modHealth s (fun h => { h with target := none })) d 2
  | none => s

/-- The abort tick of a hang has passed: the sample begins, or under policy 2 the reset. -/
def hangStage (s : State) : State :=
  match s.health.hangAt with
  | none => s
  | some t =>
    if s.frames.ticks ≤ t || (match runningCtx s with | some x => x.abortNext.contains .hang | none => false) then s
    else
      let s1 := modHealth s (fun h => { h with hangAt := none })
      if s1.health.policy = 2 then resetTarget s1 else modHealth s1 (fun h => { h with sampling := true })

/-! ### The sample (R370, R423, R445) -/

/-- A piece: its header and its bytes, poisoned rows as zeros (DEDUCED, log entry 45). -/
def samplePiece (c : Cell) (cell region piece o n : Nat) : List Byte :=
  let bad := (List.range (ceilDiv n rowBytes)).filter (fun r => spPoisoned c (o + r * rowBytes) (min rowBytes (n - r * rowBytes)))
  let rows := (List.range (ceilDiv n rowBytes)).flatMap (fun r =>
    let k := min rowBytes (n - r * rowBytes)
    if bad.contains r then List.replicate k 0 else readBytes c.sp (o + r * rowBytes) k)
  leBytes cell 2 ++ leBytes region 1 ++ leBytes piece 1 ++ leBytes n 4 ++ leBytes ((bad.map (2 ^ ·)).sum) 4 ++ leBytes 0 4 ++ rows

/-- The pieces of a cell's live regions, each with the bytes it counts. -/
def regionPieces (regs : List Region) (c : Cell) (cell : Nat) : List (Nat × List Byte) :=
  (regs.zipIdx.filter (fun r => r.1.valid && r.1.live)).flatMap (fun r =>
    let n := regionSpan r.1
    if n < 8192 then [(n, samplePiece c cell r.2 2 r.1.base n)]
    else [(4096, samplePiece c cell r.2 0 r.1.base 4096), (4096, samplePiece c cell r.2 1 (r.1.base + n - 4096) 4096)])

/-- The words piece of a cell. -/
def wordsPiece (c : Cell) (cell : Nat) : List Byte :=
  leBytes cell 2 ++ leBytes 0xFF 1 ++ leBytes 3 1 ++ leBytes 768 4 ++ leBytes 0 8 ++ (List.range 64).flatMap (fun j => leBytes (semWord c j) 8)
    ++ (List.range 32).flatMap (fun j => leBytes (creditWord c j) 8)

/-- Cells in the order in which a sample takes them (DEDUCED, log entry 45). -/
def sampleOrder (s : State) : List Nat :=
  let target := (List.range 4096).filter (fun c => match s.health.target with | some d => inside ⟨0, c⟩ d | none => false)
  let named := (List.range 4096).filter (fun c => s.health.graph.nodes.any (fun n => n.kind == 0 && n.id == c) && !target.contains c)
  target ++ named ++ (List.range 4096).filter (fun c => !target.contains c && !named.contains c)

/-- Takes pieces until the next would pass a limit. -/
def takePieces : Nat → List (Nat × List Byte) → List Byte
  | _, [] => []
  | room, (n, b) :: t => if n ≤ room then b ++ takePieces (room - n) t else []

/-- The sample of the running context in clear: at most 48 MiB with the 3 MiB of words (DEDUCED, log entry 45). -/
def sampleBytes (s : State) : List Byte :=
  let regs := layoutOf s
  takePieces (45 * 2 ^ 20) ((sampleOrder s).flatMap (fun c => regionPieces regs (cellOf s c) c)) ++ (List.range 4096).flatMap (fun c => wordsPiece (cellOf s c) c)

/-- The metadata record of a part (Table 16-7) with `n` bytes of ciphertext. -/
def partMeta (id : Nat) (p : DumpPart) (n : Nat) : List Byte :=
  leBytes id 2 ++ leBytes p.partition 1 ++ leBytes (b2n p.withheld + 2 * b2n p.wrapped) 1 ++ leBytes p.context 2 ++ leBytes p.regions 2 ++ leBytes p.frame 8
    ++ leBytes n 4 ++ leBytes 0 12

/-- The part of the running context's partition, wrapped under its dump key or withheld. -/
def samplePart (s : State) (id c : Nat) (x : Ctx) : DumpPart :=
  let regs := layoutOf s
  let p : DumpPart := { partition := x.partition, withheld := true, wrapped := false, context := c, regions := 4096 * (regs.filter (fun r => r.valid && r.live)).length
                        frame := frameNow s, cipher := [] }
  match (partOf s x.partition).dumpKey with
  | none => p
  | some key =>
    let plain := sampleBytes s
    let q := { p with withheld := false, wrapped := true }
    let (c, tag) := gcmSeal key (leBytes id 2 ++ leBytes x.partition 1 ++ leBytes 0 9) (partMeta id q plain.length) plain
    { q with cipher := c ++ tag }

/-- Takes the dump: its number follows the last, and the four most recent are kept (R423, R444) (DEDUCED, log entry 45). -/
def takeDump (s : State) : State :=
  let h := s.health
  let id := if h.lastDump = 65535 then 1 else h.lastDump + 1
  let parts := match s.residency.current with | some c => (match ctxOf s c with | some x => [samplePart s id c x] | none => []) | none => []
  let d : Dump := { id := id, hold := decide (h.policy = 1), frame := frameNow s, cls := h.lastHang.cls, number := h.lastHang.number, verdict := h.verdict, parts := parts }
  let all := h.dumps ++ [d]
  modHealth s (fun h => { h with lastDump := id, dumps := all.drop (all.length - 4) })

/-- SAMPLE_COMPLETE: the dump is taken; then the reset of the target, or under policy 1 its hold. -/
def execSampleComplete (s : State) : Host.Outcome State Fault Refusal :=
  if !s.health.sampling then .next s
  else
    let s1 := modHealth (takeDump s) (fun h => { h with sampling := false })
    if s1.health.policy = 1 then .next (modHealth s1 (fun h => { h with hold := h.target, target := none })) else .next (resetTarget s1)

/-! ### The effects of a reset (Table 18-7) -/

/-- An engine loses its queues and its transfers, and its error head starts anew (Table 8-7); its ledgers go on counting. -/
def resetEng (s : State) (e : Engine) : State :=
  let s1 := modEng (traceEngine s e (fun _ => true)) e (fun y => { cancelEng e (fun _ => true) y with tasks := [], xfers := [], errs := [], errTotal := 0 })
  mapCells s1 (pruneWaits s1)

/-- A cell with its mover: zeroed, its tile stopped, its status word as Table 4-11 resets it (R6). -/
def resetCell (s : State) (c : Nat) : State :=
  let s1 := resetEng (traceCell s c) (.mover c)
  modCell s1 c (fun x =>
    let y := stopCell x
    { zeroCell y with loops := [], tile := [], nextTile := [], tileAt := none, nextAt := none, issued := [], faultIndex := 0, faultCode := 0, nv := false, ofl := false, cancel := false, empty := false })

/-- An expander: the blocks that its engines await from it are cancelled. -/
def resetExpander (s : State) (n : Nat) : State :=
  (expanderEngines n).foldl (fun s e => modEng s e (fun y =>
    let hit (x : QDesc) : Bool := y.xfers.any (fun z => toDecode z && z.desc == x)
    let z := cancelEng e hit y
    let left := z.xfers.filter (fun x => !(x.codec && !x.moved))
    { z with xfers := left, tasks := z.tasks.filter (fun t => !(t.counted && decide (transfersOf (descOf e t.desc.raw) ≤ t.issued) && left.all (fun x => x.task != t.id))) })) s

/-- A collective engine: every operation is cancelled, what it held is lost, its error head starts anew, and the link layer of each of its
ports restarts with the port's next retrain (R292). -/
def resetColl (s : State) (e : Nat) : State :=
  let s1 := modColl (cancelColl (fun _ => true) s e) e (fun x => { x with held := [], errs := [], errTotal := 0 })
  mapCells ((upto (7 * e) 7).foldl (fun s p => modPort s p (fun x => { x with restart := true })) s1) (pruneWaits s1)

/-- A port of a die that is reset: the fields of its status word as Table 13-11 resets them (R6), and a retrain where it was in use. -/
def resetPort (x : Port) : Port :=
  let y := { x with state := .down, lanes := 0, phase := 0, retrains := 0, peerRank := 0xFF, peerPort := 0xFF, tx := {}, rxKey := {}, rxOld := none, newPrk := none
                    rotateTx := false, rotateRx := false, restart := true }
  if portUp x || x.state == .training || x.retrainDue then retrainPort y else y

/-- The viaduct's full retrain (Table 18-9 step 7, R20): the lanes that it finds failed in each quarter and direction are a free value (log
entry 18), recorded before the report (R32). Up to 8 are spared; beyond 136 half the width is lost too, and die 1 is failed. -/
def retrainViaduct (s : State) : State :=
  let n := s.freeCount
  let lanes := (List.range 8).foldl (fun m i => madd m i (Config.pick (n + i) % 145)) s.mem.viaductLanes
  let s1 := { s with freeCount := n + 8, mem := { s.mem with viaductLanes := lanes } }
  let s2 := if lanes = s.mem.viaductLanes then s1 else spareRecord s1 0x8001 3 0
  if lanes.any (fun e => decide (136 < e.2)) then { modHealth s2 (fun h => { h with dieState := mset 0 h.dieState 1 2 }) with faultFlag := true } else s2

/-- A caldera slice: dirty lines are written back, uncorrectable ones as poison; then every way is invalidated. -/
def resetSlice (s : State) (k : Nat) : State :=
  let mine (l : CalLine) : Bool := decide (sliceKey (128 * l.line) = k)
  (calInvalidate (calClean s mine false) mine false).1

/-- A cluster. A cell that the ladder retires is replaced by the spare, or the cluster fails (R10, R30, R426) (DEDUCED, log entry 46). -/
def resetCluster (s : State) (n : Nat) : State :=
  let s1 := (upto (16 * n) 16).foldl resetCell s
  let s2 := resetEng (resetEng (resetExpander s1 n) (.gather n)) (.packer n)
  match s2.health.retiring.find? (fun c => c / 16 == n) with
  | none => s2
  | some c =>
    let s3 := modHealth s2 (fun h => { h with retiring := h.retiring.filter (fun k => k / 16 != n) })
    if (clusterOf s3 n).spareUsed then journalMap (modCluster s3 n (fun x => { x with failed := true, spareSlot := 0xFF })) 0x8000
    else spareRecord (modCluster s3 n (fun x => { x with spareUsed := true, spareSlot := c % 16 })) 0x8000 0 c

/-- A die: its slices, cells, clusters and collective engine; its links train again (DEDUCED, log entry 46). -/
def resetDie (s : State) (d : Nat) (selfTestOk : Bool) : State :=
  let s1 := (upto (16 * d) 16).foldl resetSlice s
  let s2 := resetColl ((clusterIds s1).filter (fun n => n / 128 == d) |>.foldl resetCluster s1) d
  let s3 := (upto (7 * d) 7).foldl (fun s p => modPort s p resetPort) s2
  let s4 := modHealth (reportReach (retrainViaduct (scheduleRetrains s3 (upto (12 * d) 12)))) (fun h => { h with dieState := mset 0 h.dieState d (if selfTestOk then 0 else 2) })
  if selfTestOk then s4 else { s4 with faultFlag := true }

/-- What a reset does to what it covers (DEDUCED, log entry 46). -/
def applyDomain (s : State) (d : Domain) (selfTestOk : Bool) : State :=
  match d.cls with
  | 0 => resetCell s d.number
  | 1 => resetCluster s d.number
  | 2 =>
    if d.number < 256 then resetEng s (.gather d.number)
    else if d.number < 512 then resetEng s (.packer (d.number - 256))
    else if d.number < 768 then resetExpander s (d.number - 512)
    else resetColl s (d.number - 768)
  | 3 => resetSlice s d.number
  | _ => resetDie s d.number selfTestOk

/-- Whether a long command is a RESET_DOMAIN of a domain inside another. -/
def resetsInside (d : Domain) : Instr → Bool
  | .resetDomain _ cls number => inside ⟨cls, number⟩ d
  | _ => false

/-- RESET_COMPLETE (R425, R428): it waits for the abort tick of the step that it aborts. The running context's resident regions
are reloaded with the last reset, and its promises restored by ABORT_RECONCILE (DEDUCED, log entry 46). -/
def execResetComplete (d : Domain) (selfTestOk : Bool) (s : State) : Host.Outcome State Fault Refusal :=
  if !domainOk d then .refused (.noSuchUnit "reset domain")
  else if !s.health.resetting.contains d || (match runningCtx s with | some x => x.abortNext.contains .reset | none => false) then .next s
  else
    let s1 := modHealth (applyDomain s d selfTestOk) (fun h => { h with resetting := h.resetting.filter (fun k => k != d), resets := madd h.resets d.cls 1 })
    let s2 := setLongReply s1 (fun l => resetsInside d l.op) stDone d.cls 0
    match s2.residency.current with
    | some c =>
      let s3 := if d.cls = 3 then s2 else modCtx s2 c (fun x => { x with reconcile := true })
      .next (if s3.health.resetting.isEmpty then reloadResidents s3 c else s3)
    | none => .next s2

/-! ### The ladder (R426) -/

/-- The domain that a reset escalates to. -/
def escalated (d : Domain) : Domain :=
  match d.cls with
  | 0 => ⟨1, d.number / 16⟩
  | 1 => ⟨4, d.number / 128⟩
  | 2 => if d.number < 768 then ⟨1, d.number % 256⟩ else ⟨4, d.number - 768⟩
  | 3 => ⟨4, d.number / 16⟩
  | _ => ⟨5, 0⟩

/-- The rails are power-cycled: no DRAM content is left, and the boot begins again. -/
def powerCycle (s : State) : State :=
  let s1 := raiseRails (losePower s .rising)
  { s1 with health := { s1.health with moduleResetCause := 6, escalations := 1 } }

/-- RESET_TIMEOUT: the reset goes on as that of the next domain. A module that is not ready in time has its rails power-cycled (DEDUCED, log entry 46). -/
def execResetTimeout (d : Domain) (s : State) : Host.Outcome State Fault Refusal :=
  if !domainOk d then .refused (.noSuchUnit "reset domain")
  else if d.cls = 5 then (if s.ready || s.mgmt.powerState != .on then .next s else .next (powerCycle s))
  else if !s.health.resetting.contains d then .next s
  else
    let up := escalated d
    let s1 := modHealth s (fun h =>
      { h with resetting := h.resetting.filter (fun k => k != d), escalations := h.escalations + 1
               dieState := if d.cls = 4 then mset 0 h.dieState d.number 0 else h.dieState
               retiring := if d.cls = 0 && !h.retiring.contains d.number then h.retiring ++ [d.number] else h.retiring })
    if up.cls = 5 then .next (modHealth (beginDomain s1 up 4) (fun h => { h with escalations := 1 })) else .next (beginDomain s1 up 4)

/-- DIE_ERROR (R417): the die is reset at once, without a sample and without an event of its own (DEDUCED, log entry 47). -/
def execDieError (die : Nat) (s : State) : Host.Outcome State Fault Refusal :=
  if 2 ≤ die then .refused (.noSuchUnit "die")
  else if mget 0 s.health.dieState die ≠ 0 then .next s
  else .next (beginDomain s ⟨4, die⟩ 3)

/-! ### Control cores (R420) -/

def coresOf (h : Health) (die : Nat) : Nat := if die = 0 then h.coresDie0 else h.coresDie1
def setCores (h : Health) (die m : Nat) : Health := if die = 0 then { h with coresDie0 := m } else { h with coresDie1 := m }

/-- The long commands whose work a control core does itself (DEDUCED, log entry 47). -/
def coreWork : Instr → Bool
  | .bulkLoad _ _ _ _ => true
  | .bulkStore _ _ _ _ => true
  | .calderaInval _ _ _ => true
  | .scrubRange _ _ _ _ => true
  | .encodeRange _ _ => true
  | .decodeCheck _ _ _ _ _ _ => true
  | .schedLoad _ _ _ _ => true
  | .partDestroy _ _ _ => true
  | .attestQuote _ _ _ _ _ => true
  | .fwStage _ _ _ => true
  | .cfgCompact _ _ => true
  | .dumpRead _ _ _ _ => true
  | _ => false

/-- The commands that were in flight on a core end with INTERNAL_TIMEOUT: which core works on which command is free (log
entry 18) (DEDUCED, log entry 47). -/
def loseCommands (s : State) (core : Nat) : State :=
  let n := s.freeCount
  let mine : List CmdHdr := (s.host.long.zipIdx.filter (fun e => coreWork e.1.op && decide (Config.pick (n + e.2) % 8 = core))).map (fun e => e.1.hdr)
  setLongReply { s with freeCount := n + s.host.long.length } (fun l => mine.contains l.hdr) stTimeout 0 0

/-- CORE_HEARTBEAT_MISS: a first miss restarts the core, a second within an hour retires it; a die with fewer than three cores
fails (DEDUCED, log entry 47). -/
def execCoreHeartbeatMiss (die core at_ : Nat) (s : State) : Host.Outcome State Fault Refusal :=
  if 2 ≤ die ∨ 4 ≤ core then .refused (.noSuchUnit "control core")
  else if !bit (coresOf s.health die) core then .next s
  else
    let k := 4 * die + core
    let last := mget 0 s.health.coreMiss k
    let s1 := loseCommands { s with now := max s.now at_ } k
    if last ≠ 0 ∧ at_ + 1 < last + 3600000000000 then
      let m := coresOf s1.health die - 2 ^ core
      let s2 := spareRecord (modHealth s1 (fun h => { setCores h die m with coreMiss := mset 0 h.coreMiss k 0 })) 0x8000 6 k
      if ((List.range 4).filter (bit m)).length < 3 then
        .next { modHealth s2 (fun h => { h with dieState := mset 0 h.dieState die 2 }) with faultFlag := true }
      else .next s2
    else .next (modHealth s1 (fun h => { h with coreRestarts := h.coreRestarts + 1, coreMiss := mset 0 h.coreMiss k (at_ + 1) }))

/-! ### Commands of the health family -/

/-- RESET_DOMAIN (R359, R429) (DEDUCED, log entry 46). -/
def execResetDomain (h : CmdHdr) (cls number : Nat) (s : State) : Host.Outcome State Fault Refusal :=
  let i : Instr := .resetDomain h cls number
  runCommand s i h [need (decide (cls < 6)) stParamRange 0x20, need (decide (number < domainCount cls)) stParamRange 0x22] []
    [need (!s.health.resetting.contains ⟨cls, number⟩) stBusy]
    (fun s =>
      if cls = 5 ∨ (cls = 4 ∧ number = 0) then beginDomain (finishDone s h i s.frames.ticks cls 0) ⟨cls, number⟩ 1
      else beginDomain (acceptLong i h s) ⟨cls, number⟩ 1)

/-- HANG_POLICY_SET. -/
def execHangPolicySet (h : CmdHdr) (action : Nat) (s : State) : Host.Outcome State Fault Refusal :=
  let i : Instr := .hangPolicySet h action
  runCommand s i h [need (decide (action < 3)) stParamRange 0x20] [] [] (acceptTick i h 1)

/-- The record of Table 18-13. -/
def healthRecord (s : State) : List Byte :=
  let h := s.health
  let blocks := retiredBlocks s
  let out := ((List.range 24).map (fun k => if (stackOf s k).state = .outOfService then 2 ^ k else 0)).sum
  leBytes (64 + 8 * blocks.length) 2 ++ leBytes 1 1 ++ leBytes (s.rot.bootSlot % 4 + 128 * b2n s.rot.fallback) 1 ++ leBytes (healthStatus s) 8 ++ leBytes out 4
    ++ (List.range 6).flatMap (fun k => leBytes (mget 0 h.resets k) 4) ++ leBytes h.lastHangFrame 8
    ++ leBytes h.lastHang.cls 1 ++ leBytes h.lastHang.number 2 ++ leBytes 0 1 ++ leBytes h.starvation 1 ++ leBytes h.starvationRank 1 ++ leBytes 0 2
    ++ leBytes h.lastDump 2 ++ leBytes 0 6 ++ blocks.flatMap (fun a => leBytes a 8)

/-- HEALTH_READ. -/
def execHealthRead (h : CmdHdr) (dst dstBytes : Nat) (s : State) : Host.Outcome State Fault Refusal :=
  let i : Instr := .healthRead h dst dstBytes
  let n := (healthRecord s).length
  runCommand s i h [need (decide (n ≤ dstBytes)) stParamRange 0x28, dstRange s h dst n 0x28] [dstCheck s h dst n] []
    (immediate i h (fun s => (writeDst s h dst (healthRecord s), n, 0)))

/-- Sets of a slice with some way retired: its spare in use, or 15 ways left. -/
def slicesRetired (s : State) (k : Nat) (least : Nat) : Nat :=
  (s.mem.sets.filter (fun e => decide (e.1 / 6144 = k) && decide (least ≤ e.2.retired.length))).length

/-- The record of Table 18-14. -/
def spareMap (s : State) : List Byte :=
  let mask (l : List Nat) : Nat := (l.map (2 ^ ·)).sum
  let b := leBytes 736 2 ++ leBytes 1 1 ++ leBytes (s.health.coresDie0 + 16 * s.health.coresDie1) 1 ++ leBytes 0 4 ++ leBytes s.health.spareMapSeq 8
  let c := (List.range 256).flatMap (fun n => leBytes (if (clusterOf s n).failed then 0xFF else (clusterOf s n).spareSlot) 1)
  let d := (List.range 32).flatMap (fun k => leBytes (slicesRetired s k 1) 2) ++ (List.range 32).flatMap (fun k => leBytes (slicesRetired s k 2) 2)
  let e := (List.range 24).flatMap (fun k => leBytes (mask (spareGroups (stackOf s k).txFailed)) 4 ++ leBytes (mask (spareGroups (stackOf s k).rxFailed)) 4)
  let f := (List.range 8).flatMap (fun q => leBytes (min 8 (mget 0 s.mem.viaductLanes q)) 1) ++ (List.range 14).flatMap (fun p => leBytes (mask (portOf s p).failedLanes) 2) ++ leBytes 0 4
  let g := (List.range 24).flatMap (fun k =>
    leBytes ((stackOf s k).repaired.length) 2 ++ leBytes (minSpareRows (stackOf s k)) 1 ++ leBytes (min 255 (stackOf s k).retired.length) 1) ++ leBytes 0 8
  b ++ c ++ d ++ e ++ f ++ g

/-- SPARE_MAP_READ. -/
def execSpareMapRead (h : CmdHdr) (dst : Nat) (s : State) : Host.Outcome State Fault Refusal :=
  let i : Instr := .spareMapRead h dst
  runCommand s i h [dstRange s h dst 736 0x28] [dstCheck s h dst 736] [] (immediate i h (fun s => (writeDst s h dst (spareMap s), 736, 0)))

/-- The graph record (Tables 19-11 and 19-12). -/
def graphRecord (g : Graph) : List Byte :=
  leBytes (32 + 16 * g.nodes.length + 8 * g.edges.length) 4 ++ leBytes 1 1 ++ leBytes g.verdict 1 ++ leBytes g.context 2 ++ leBytes g.frame 8
    ++ leBytes g.nodes.length 2 ++ leBytes g.edges.length 2 ++ leBytes g.root 2 ++ leBytes 0 2 ++ leBytes g.targetCls 1 ++ leBytes g.targetNum 2 ++ leBytes 0 1 ++ leBytes 0 4
    ++ g.nodes.flatMap (fun n => leBytes n.kind 1 ++ leBytes n.state 1 ++ leBytes n.id 2 ++ leBytes n.index 1 ++ leBytes n.outstanding 1 ++ leBytes n.value 2 ++ leBytes n.progress 8)
    ++ g.edges.flatMap (fun e => leBytes e.1 2 ++ leBytes e.2.1 2 ++ leBytes e.2.2 1 ++ leBytes 0 3)

/-- WAITGRAPH_READ. -/
def execWaitgraphRead (h : CmdHdr) (dst dstBytes : Nat) (s : State) : Host.Outcome State Fault Refusal :=
  let i : Instr := .waitgraphRead h dst dstBytes
  let n := (graphRecord s.health.graph).length
  runCommand s i h [need (decide (n ≤ dstBytes)) stParamRange 0x28, dstRange s h dst n 0x28] [dstCheck s h dst n] []
    (immediate i h (fun s => (writeDst s h dst (graphRecord s.health.graph), 0, 0)))

/-- The dump that a dump id names. -/
def dumpOf (s : State) (id : Nat) : Option Dump := if id = 0 then s.health.dumps.getLast? else s.health.dumps.find? (fun d => d.id == id)

/-- What a reader gets of a dump: the management function every part's metadata, a virtual function its own part (R371, R444). -/
def dumpReply (h : CmdHdr) (d : Dump) : List Byte :=
  let parts := if h.fn = 0 then d.parts else d.parts.filter (fun p => p.partition + 1 == h.fn)
  let body := parts.flatMap (fun p =>
    if h.fn ≠ 0 ∧ p.wrapped then partMeta d.id p (p.cipher.length - 16) ++ p.cipher else partMeta d.id p 0)
  leBytes d.id 2 ++ leBytes parts.length 1 ++ leBytes (b2n d.hold) 1 ++ leBytes (32 + body.length) 4 ++ leBytes d.frame 8
    ++ leBytes d.cls 1 ++ leBytes d.number 2 ++ leBytes 0 1 ++ leBytes d.verdict 1 ++ leBytes 0 11 ++ body

/-- DUMP_READ. -/
def execDumpRead (h : CmdHdr) (dumpId dst dstBytes : Nat) (s : State) : Host.Outcome State Fault Refusal :=
  let i : Instr := .dumpRead h dumpId dst dstBytes
  let n := match dumpOf s dumpId with | some d => (dumpReply h d).length | none => 0
  runCommand s i h [need (decide (n ≤ dstBytes)) stParamRange 0x28, dstRange s h dst n 0x28] [dstCheck s h dst n]
    [need (dumpOf s dumpId).isSome stWrongState] (acceptLong i h)

/-- Its end: the dump may have been overwritten meanwhile (DEDUCED, log entry 45). -/
def endDumpRead (s : State) (h : CmdHdr) (dumpId dst : Nat) : State × Nat × Nat × Nat :=
  match dumpOf s dumpId with
  | some d => deliver s h dst (dumpReply h d) (dumpReply h d).length 0
  | none => (s, stWrongState, 0, 0)

/-! ### MARGIN_RUN (R219 to R221) -/

def marginsStack (k : Nat) : Instr → Bool
  | .marginRun _ n _ _ => n == k
  | _ => false

/-- MARGIN_RUN: the stack is closed, and its caldera lines are invalidated. -/
def execMarginRun (h : CmdHdr) (stack kind dst : Nat) (s : State) : Host.Outcome State Fault Refusal :=
  let i : Instr := .marginRun h stack kind dst
  runCommand s i h [need (decide (stack < 24)) stParamRange 0x20, need (decide (kind < 3)) stParamRange 0x21, dstRange s h dst 64 0x28] [dstCheck s h dst 64]
    ([need (s.mem.ranges.all (fun e => decide (e.2.size = 0) || decide (stackNo e.2.base ≠ stack))) stWrongState, need (!longPending s (marginsStack stack)) stBusy] ++ powerChecks s)
    (fun s =>
      let s1 := (calInvalidate s (fun l => decide (stackNo (128 * l.line) = stack)) false).1
      acceptLong i h (modStack s1 stack (fun k => { k with state := if k.state = .outOfService then .outOfService else .margining })))

/-- What a margining run found at a place (log entry 18): an eye width of a lane or a timing margin of a pseudo-channel in 1/64 UI,
and the eye height of a lane in mV, which fills 16 bits (Table 9-13). -/
def marginAt (n place : Nat) : Nat := Config.pick (n + place) % 65
def heightAt (n place : Nat) : Nat := Config.pick (n + place) % 65536

/-- Whether a retrain replaces a lane that `now` finds bad: it was good `before`, and its group had its spare still (R193, R220). -/
def laneReplaced (before now : List Nat) : Bool :=
  now.any (fun l => !before.contains l && before.all (fun k => laneGroup k != laneGroup l))

/-- The least value of a list and the first place that has it. -/
def leastAt (l : List Nat) : Nat × Nat := let m := l.foldl min (l.headD 0); (m, l.findIdx (· == m))

/-- The results of a run: widths and heights by direction and lane, and the margins of the DRAM by direction, voltage and
pseudo-channel. -/
structure Margins where
  txW : List Nat
  txH : List Nat
  rxW : List Nat
  rxH : List Nat
  rd : List (List Nat)
  wr : List (List Nat)
  deriving DecidableEq, Repr

def drawMargins (n kind : Nat) : Margins :=
  let lanes (o : Nat) : List Nat := (List.range 544).map (fun l => marginAt n (o + l))
  let heights (o : Nat) : List Nat := (List.range 544).map (fun l => heightAt n (o + l))
  let volts := if kind = 0 then 0 else if kind = 1 then 1 else 3
  let pcs (o : Nat) : List (List Nat) := (List.range volts).map (fun v => (List.range 64).map (fun p => marginAt n (o + 64 * v + p)))
  { txW := lanes 0, txH := heights 544, rxW := lanes 1088, rxH := heights 1632, rd := pcs 2176, wr := pcs 2368 }

/-- The lanes that miss a limit of R220: 0.30 UI and 20 mV. -/
def badLanes (w h : List Nat) : List Nat := (List.range 544).filter (fun l => decide (100 * w.getD l 0 < 1920) || decide (h.getD l 0 < 20))
/-- The pseudo-channels that miss 0.20 UI at some voltage. -/
def badPcs (m : Margins) : List Nat := (List.range 64).filter (fun p => (m.rd ++ m.wr).any (fun l => decide (100 * l.getD p 0 < 1280)))

/-- The least DRAM margin, its pseudo-channel and its voltage; 0xFFFF where none was taken. -/
def leastDram (l : List (List Nat)) : Nat × Nat × Nat :=
  if l.isEmpty then (0xFFFF, 0, 0)
  else
    let (m, v) := leastAt (l.map (fun x => (leastAt x).1))
    (m, (leastAt (l.getD v [])).2, v)

/-- Zero lines under the firmware key over a whole stack. -/
def zeroStack (s : State) (k : Nat) : State :=
  modMem s (fun m => { m with bytes := zeroBytes m.bytes (k * stackSize) stackSize, lines := mclear m.lines (k * stackSize / 128) (stackSize / 128) })

/-- The end of a run that found `m` (Table 9-13): the record, the retrain with its failed lanes, the stack's new contents. -/
def endMarginRun (s : State) (h : CmdHdr) (stack kind dst : Nat) : State × Nat × Nat × Nat :=
  let m := drawMargins s.freeCount kind
  let tx := badLanes m.txW m.txH
  let rx := badLanes m.rxW m.rxH
  let pcs := badPcs m
  let fresh := laneReplaced (stackOf s stack).txFailed tx || laneReplaced (stackOf s stack).rxFailed rx
  let s1 := modStack { s with freeCount := s.freeCount + 2560 } stack (fun k => { k with state := if k.state = .margining then .inService else k.state })
  let s2 := retrainLink s1 stack tx rx
  let s3 := if pcs.isEmpty || (stackOf s2 stack).state == .outOfService then s2 else retireStack s2 stack
  let s4 := zeroStack s3 stack
  let out := (stackOf s4 stack).state == .outOfService
  let groups (l : List Nat) : Nat := ((l.map laneGroup).eraseDups.map (2 ^ ·)).sum
  let pair (p : Nat × Nat) : List Byte := leBytes p.1 2 ++ leBytes p.2 2
  let (rm, rp, rv) := leastDram m.rd
  let (wm, wp, wv) := leastDram m.wr
  let flags := b2n (tx.isEmpty && rx.isEmpty && pcs.isEmpty) + 2 * b2n fresh + 4 * b2n out
  let rec_ := leBytes 64 2 ++ leBytes 1 1 ++ leBytes stack 1 ++ leBytes kind 1 ++ leBytes flags 1 ++ leBytes 0 2
    ++ pair (leastAt m.txW) ++ pair (leastAt m.txH) ++ pair (leastAt m.rxW) ++ pair (leastAt m.rxH)
    ++ leBytes rm 2 ++ leBytes rp 1 ++ leBytes rv 1 ++ leBytes wm 2 ++ leBytes wp 1 ++ leBytes wv 1
    ++ leBytes (groups tx) 4 ++ leBytes (groups rx) 4 ++ leBytes ((pcs.map (2 ^ ·)).sum) 8 ++ leBytes 0 16
  deliver s4 h dst rec_ (min (min (leastAt m.txW).1 (leastAt m.rxW).1) (min rm wm)) 0

/-- A run that the brake ended: the stack is opened again, its contents gone. -/
def cutMarginRun (s : State) (stack : Nat) : State :=
  zeroStack (modStack s stack (fun k => { k with state := if k.state = .margining then .inService else k.state })) stack

end Sys2Proof.Machine
end

