-- ==== Sys2Proof/Machine/Security.lean ====
section
/-! DEFINITION. Machine/Security.lean: partitions (R353, R363, R364), key blobs (R368), quotes (R379), firmware slots (R374 to
R376), and the SPDM responder over DOE (R380, R381). -/

namespace Sys2Proof.Machine

open Sys2Proof

/-! ### Partitions -/

def createsPart (p : Nat) : Instr → Bool
  | .partCreate _ k _ _ _ _ _ => k == p
  | _ => false
def destroysPart (p : Nat) : Instr → Bool
  | .partDestroy _ k _ => k == p
  | _ => false

/-- PART_CREATE. -/
def execPartCreate (h : CmdHdr) (partition keepWays mask0 mask1 maxContexts maxQueues : Nat) (s : State) : Host.Outcome State Fault Refusal :=
  let i : Instr := .partCreate h partition keepWays mask0 mask1 maxContexts maxQueues
  runCommand s i h
    [need (decide (partition < 8)) stParamRange 0x20, need (decide (keepWays < 16)) stParamRange 0x21, need (decide (0 < mask0 ∧ mask0 < 65536)) stParamRange 0x22,
      need (decide (0 < mask1 ∧ mask1 < 65536)) stParamRange 0x24, need (decide (1 ≤ maxContexts ∧ maxContexts ≤ 32)) stParamRange 0x26,
      need (decide (1 ≤ maxQueues ∧ maxQueues ≤ 32)) stParamRange 0x27]
    []
    [need (!(partOf s partition).present) stWrongState, need (!tickPending s (createsPart partition)) stBusy]
    (acceptTick i h 1)

/-- The partition at its tick: a memory key is drawn, there is no dump key, and its measurement registers are zero. What the cells hold is
another partition's from here on, so its first context finds them zeroed (R168) (DEDUCED, log entry 37). -/
def applyPartCreate (s : State) (p keepWays mask0 mask1 maxContexts maxQueues : Nat) : State :=
  let x : Part := { present := true, keepWays := keepWays, mask0 := mask0, mask1 := mask1, maxContexts := maxContexts, maxQueues := maxQueues, memKey := 2 * s.rot.keyGen + 2 }
  let s1 := setPart s p x
  { s1 with
    rot := { s1.rot with keyGen := s1.rot.keyGen + 1, measures := mclear s1.rot.measures (8 + 3 * p) 3 }
    residency := { s1.residency with holder := if s1.residency.holder = some p then none else s1.residency.holder } }

/-- Whether a partition holds a context, or is about to. -/
def holdsCtx (s : State) (p : Nat) : Bool := (allCtxs s).any (fun e => e.2.partition == p) || decide (pendingOf s p ≠ 0)

/-- PART_DESTROY. -/
def execPartDestroy (h : CmdHdr) (partition : Nat) (zeroRanges : Bool) (s : State) : Host.Outcome State Fault Refusal :=
  let i : Instr := .partDestroy h partition zeroRanges
  runCommand s i h [need (decide (partition < 8)) stParamRange 0x20] []
    [need (partOf s partition).present stWrongState, need (!holdsCtx s partition) stWrongState, need (!longPending s (destroysPart partition)) stBusy]
    (acceptLong i h)

/-- The range entries that a partition owns. -/
def rangesOf (s : State) (p : Nat) : List (Nat × RangeEntry) := s.mem.ranges.filter (fun e => e.2.owner == p)

/-- The end of a destruction, step by step. -/
def endPartDestroy (s : State) (p : Nat) (zeroRanges : Bool) : State × Nat × Nat × Nat :=
  if holdsCtx s p then (s, stWrongState, 0, 0)
  else
    let s1 := (queuesOf s (p + 1)).foldl removeQueue s
    let s2 := if zeroRanges then (rangesOf s1 p).foldl (fun s e => zeroRange s e.2.base e.2.size) s1 else s1
    let s3 := (rangesOf s2 p).foldl (fun s e => setRange s e.1 noRange) s2
    let off (m : SMap HostWin) : SMap HostWin := m.filter (fun e => e.2.owner.toNat != p)
    let s4 := { s3 with host := { s3.host with windows := off s3.host.windows, winNow := off s3.host.winNow } }
    let s5 := ((s4.host.exposures.filter (fun e => expValid e.2 && decide (expPart e.2 = p))).map (fun e => e.1)).foldl
      (fun s i => let s1 := closeExposure s i; setExposure s1 i Exposure.reset) s4
    let s6 := calZeroLines s5 (fun l => l.owner == p)
    (setPart s6 p Part.reset, stDone, 0, 0)

/-! ### Key blobs (R368, Tables 16-4 and 16-5) -/

/-- What decoding a blob yields: one or two halves of the key, or none. -/
def blobHalves (blob : List Byte) : Nat × Nat := (Config.blobKey blob).getD (0, 0)

/-- Table 16-5 for a blob that a command for a kind of key carries; `last` is the last accepted sequence value (DEDUCED, log entry 38). -/
def blobChecks (h : CmdHdr) (blob : List Byte) (kind last : Nat) : List Check :=
  [need (decide (fieldAt blob 0 2 = 0x4B42)) stParamRange 0x28, need (decide (fieldAt blob 2 1 < 2)) stParamRange 0x2A, need (zeroSpan blob 0x18 8) stParamRange 0x40,
    need (decide (blob.length = if fieldAt blob 2 1 = 0 then 496 else 464)) stParamConflict 0x20, need (decide (fieldAt blob 2 1 = kind)) stParamConflict 0x2A,
    need (Config.blobKey blob).isSome stNotPermitted,
    need (decide (bytesAt blob 8 16 = moduleIdentity) && decide (fieldAt blob 3 1 = h.partition) && decide (last < fieldAt blob 4 4)) stNotPermitted,
    need (decide (kind = 1) || decide ((blobHalves blob).1 ≠ (blobHalves blob).2)) stNotPermitted]

/-- KEY_INSTALL (DEDUCED, log entries 37 and 38). -/
def execKeyInstall (h : CmdHdr) (blob : List Byte) (s : State) : Host.Outcome State Fault Refusal :=
  let i : Instr := .keyInstall h blob
  let n := blob.length
  runCommand s i h [need (decide (64 ≤ n ∧ n ≤ 512)) stParamRange 0x20, need (decide (n % 8 = 0)) stParamAlign 0x20] []
    ([need (rangesOf s h.partition).isEmpty stWrongState] ++ blobChecks h blob 0 (partOf s h.partition).seqMem)
    (immediate i h (fun s =>
      let k := blobHalves blob
      let s1 := modPart s h.partition (fun p => { p with memKey := 2 * (k.1 + 2 ^ 256 * k.2) + 1, seqMem := fieldAt blob 4 4 })
      (extendReg s1 (8 + 3 * h.partition) (bytesAt blob 0 32), 0, 0)))

/-- DUMP_KEY_SET: an empty blob removes the dump key (DEDUCED, log entry 38). -/
def execDumpKeySet (h : CmdHdr) (blob : List Byte) (s : State) : Host.Outcome State Fault Refusal :=
  let i : Instr := .dumpKeySet h blob
  let n := blob.length
  runCommand s i h [need (decide (n = 0 ∨ 64 ≤ n ∧ n ≤ 512)) stParamRange 0x20, need (decide (n % 8 = 0)) stParamAlign 0x20] []
    (if n = 0 then [] else blobChecks h blob 1 (partOf s h.partition).seqDump)
    (immediate i h (fun s =>
      if n = 0 then (modPart s h.partition (fun p => { p with dumpKey := none }), 0, 0)
      else
        let s1 := modPart s h.partition (fun p => { p with dumpKey := some (blobHalves blob).1, seqDump := fieldAt blob 4 4 })
        (extendReg s1 (8 + 3 * h.partition) (bytesAt blob 0 32), 0, 0)))

/-! ### Quotes (R379) -/

/-- The registers that a mask selects. -/
def selected (mask : Nat) : List Nat := (List.range 32).filter (bit mask)

/-- The registers that a quote may select. -/
def mayQuote (h : CmdHdr) (r : Nat) : Bool := decide (h.partition = 8) || decide (r < 8) || decide (8 + 3 * h.partition ≤ r ∧ r < 11 + 3 * h.partition)

/-- The quote of Table 16-12: the signed bytes and both signatures. -/
def quoteBytes (s : State) (h : CmdHdr) (nonce : List Byte) (mask : Nat) : List Byte :=
  let rs := selected mask
  let b := leBytes 0x51545848 4 ++ leBytes (96 + 48 * rs.length + 8240) 4 ++ moduleIdentity ++ bytesAt nonce 0 32 ++ leBytes (frameNow s) 8 ++ leBytes mask 8
    ++ leBytes s.rot.fwVersion 4 ++ leBytes s.rot.svn 4 ++ leBytes h.partition 1 ++ leBytes 0 15 ++ rs.flatMap (measureOf s)
  b ++ (List.range 384).map (Config.rsaSigByte b) ++ (List.range 7856).map (Config.slhSigByte b)

/-- ATTEST_QUOTE. -/
def execAttestQuote (h : CmdHdr) (nonce : List Byte) (selection dst dstBytes : Nat) (s : State) : Host.Outcome State Fault Refusal :=
  let i : Instr := .attestQuote h nonce selection dst dstBytes
  let n := 96 + 48 * (selected selection).length + 8240
  runCommand s i h [need (decide (selection < 2 ^ 32)) stParamRange 0x40, need (decide (n ≤ dstBytes)) stParamRange 0x48, dstRange s h dst n 0x48]
    [need ((selected selection).all (mayQuote h)) stNotPermitted, dstCheck s h dst n] [] (acceptLong i h)

def endAttestQuote (s : State) (h : CmdHdr) (nonce : List Byte) (selection dst : Nat) : State × Nat × Nat × Nat :=
  let q := quoteBytes s h nonce selection
  deliver s h dst q q.length 0

/-! ### Firmware slots (R353, R374 to R376) -/

def fwSlot (s : State) (n : Nat) : Slot := match n with | 0 => s.flash.slotA | 1 => s.flash.slotB | _ => s.flash.recoverySlot
def setFwSlot (s : State) (n : Nat) (x : Slot) : State :=
  { s with flash := match n with
      | 0 => { s.flash with slotA := x }
      | 1 => { s.flash with slotB := x }
      | _ => { s.flash with recoverySlot := x } }

def fwKind (img : List Byte) : Nat := fieldAt img 0x18 1
def fwSvn (img : List Byte) : Nat := fieldAt img 0x14 4

/-- Condition 1 of R375: the header of Table 16-10 for the kind of its slot, and the payload's hash (DEDUCED, log entry 34). -/
def fwWellFormed (img : List Byte) (kind : Nat) : Bool :=
  decide (fieldAt img 0 4 = 0x57465848) && decide (fieldAt img 4 4 = 0x3000) && decide (fieldAt img 8 8 = img.length) && decide (img.length % 4096 = 0)
    && decide (0x3000 ≤ img.length) && decide (img.length ≤ 64 * 2 ^ 20) && decide (fwKind img = kind) && decide (fieldAt img 0x19 1 = kind)
    && zeroSpan img 0x1A 6 && zeroSpan img 0x50 48 && zeroSpan img 0x20B0 3920 && decide (bytesAt img 0x20 48 = sha384 (img.drop 0x3000))

/-- R375 for an image: DONE, or the status and result2 of what it fails. -/
def fwVerdict (s : State) (img : List Byte) (kind : Nat) : Nat × Nat :=
  let rsa := Config.rsaVerifies img
  let slh := Config.slhVerifies img
  if !fwWellFormed img kind then (stParamRange, 0)
  else if !rsa then (stSigRsa, if slh then 0 else stSigSlh)
  else if !slh then (stSigSlh, 0)
  else if fwSvn img < mget 0 s.flash.rollback (fieldAt img 0x19 1) then (stRollback, 0)
  else (stDone, 0)

/-- The firmware slot that the journal does not name. -/
def inactiveSlot (s : State) : Nat := if s.rot.activeSlot = 0 then 1 else 0

def stages : Instr → Bool
  | .fwStage _ _ _ => true
  | _ => false

/-- FW_STAGE (DEDUCED, log entry 34). -/
def execFwStage (h : CmdHdr) (src imageBytes : Nat) (s : State) : Host.Outcome State Fault Refusal :=
  let i : Instr := .fwStage h src imageBytes
  runCommand s i h
    [need (decide (src < 2 ^ 48)) stParamRange 0x20, need (decide (0 < imageBytes ∧ imageBytes ≤ 64 * 2 ^ 20)) stParamRange 0x28, need (decide (imageBytes % 4096 = 0)) stParamAlign 0x28]
    [sourceCheck s h src imageBytes]
    [need (!longPending s stages && !s.rot.activationPending) stBusy, need (!peekPoison s h.partition src imageBytes) stUncorrectable]
    (fun s => acceptLong i h { (readObj s h.partition src imageBytes).1 with rot := { s.rot with staged := false } } (peekObj s h.partition src imageBytes))

/-- The end of FW_STAGE: the inactive slot holds the image, valid where R375 accepts it (DEDUCED, log entry 34). -/
def endFwStage (s : State) (img : List Byte) : State × Nat × Nat × Nat :=
  let v := fwVerdict s img 0
  let ok := decide (v.1 = stDone)
  let s1 := setFwSlot s (inactiveSlot s) { image := img, valid := ok }
  ({ s1 with rot := { s1.rot with staged := ok } }, v.1, 0, v.2)

/-- FW_ACTIVATE: the journal names the staged slot; with reset_now a module reset follows the reply (DEDUCED, log entry 34). -/
def execFwActivate (h : CmdHdr) (resetNow : Bool) (s : State) : Host.Outcome State Fault Refusal :=
  let i : Instr := .fwActivate h resetNow
  runCommand s i h [] [] [need (s.rot.staged && (fwSlot s (inactiveSlot s)).valid) stWrongState, need (!s.rot.activationPending && !longPending s stages) stBusy]
    (fun s =>
      let k := inactiveSlot s
      let s1 := journalWrite { s with rot := { s.rot with activationPending := true } } 0x8004 (leBytes k 1)
      let s2 := finishDone s1 h i s.frames.ticks 0 0
      if resetNow then beginDomain s2 ⟨5, 0⟩ 7 else s2)

/-! ### SPDM over DOE (R380, R381) -/

/-- Whether the root of trust answers: it has booted. -/
def answers (s : State) : Bool := s.rot.booted && !s.rot.halted

def modSpdm (s : State) (f : Spdm → Spdm) : State := { s with rot := { s.rot with spdm := f s.rot.spdm } }

/-- A response: version, code, two parameters and a body. The codes are those of SPDM 1.2 (log entry 27). -/
def spdmMsg (version code p1 p2 : Nat) (body : List Byte) : List Byte := leBytes version 1 ++ leBytes code 1 ++ leBytes p1 1 ++ leBytes p2 1 ++ body

/-- Answers a request: both join the transcript of the connection (PRESUMED, log entry 27). -/
def respond (s : State) (req rsp : List Byte) : State :=
  let s1 := modSpdm s (fun x => { x with transcript := x.transcript ++ req ++ rsp, response := rsp })
  { s1 with resp := { data := rsp } }

/-- An ERROR response; the connection stays as it was (PRESUMED, log entry 27). -/
def spdmError (s : State) (code : Nat) : State :=
  let e := spdmMsg 0x12 0x7F code 0 []
  { modSpdm s (fun x => { x with response := e }) with resp := { data := e } }

def invalidRequest : Nat := 0x01
def unexpectedRequest : Nat := 0x04
def decryptError : Nat := 0x06

/-- A request that the responder serves where a condition holds, and answers with an error elsewhere. -/
def serve (s : State) (ready : Bool) (f : State → State) : Host.Outcome State Fault Refusal :=
  if !answers s then .next s else if ready then .next (f s) else .next (spdmError s unexpectedRequest)

/-- GET_VERSION: a new connection; version 1.2 alone is offered (PRESUMED, log entry 27). -/
def execGetVersion (s : State) : Host.Outcome State Fault Refusal :=
  serve s true (fun s => respond (modSpdm s (fun _ => { version := true })) (spdmMsg 0x10 0x84 0 0 []) (spdmMsg 0x10 0x04 0 0 (leBytes 0 1 ++ leBytes 1 1 ++ leBytes 0x1200 2)))

/-- GET_CAPABILITIES: certificates, challenge, signed measurements, encryption, MAC and key exchange (CERT, CHAL, MEAS with
signature, ENCRYPT, MAC, KEY_EX); no mutual authentication and no PSK. -/
def execGetCapabilities (s : State) : Host.Outcome State Fault Refusal :=
  serve s s.rot.spdm.version (fun s =>
    respond (modSpdm s (fun x => { x with caps := true })) (spdmMsg 0x12 0xE1 0 0 []) (spdmMsg 0x12 0x61 0 0 (leBytes 0 4 ++ leBytes 0x02D6 4)))

/-- NEGOTIATE_ALGORITHMS: RSASSA-PSS 3072 and SHA-384 have to be offered; secp384r1 and AES-256-GCM for a session. -/
def execNegotiateAlgorithms (rsa3072 sha384 secp384r1 aes256gcm : Bool) (s : State) : Host.Outcome State Fault Refusal :=
  serve s s.rot.spdm.caps (fun s =>
    let offer := b2n rsa3072 + 2 * b2n sha384 + 4 * b2n secp384r1 + 8 * b2n aes256gcm
    if rsa3072 && sha384 then
      respond (modSpdm s (fun x => { x with algs := true, exchange := secp384r1 && aes256gcm })) (spdmMsg 0x12 0xE3 0 0 (leBytes offer 1)) (spdmMsg 0x12 0x63 0 0 (leBytes offer 1))
    else spdmError s invalidRequest)

/-- A certificate chain: 0 of the RSA identity key, 1 of the SLH-DSA identity key. -/
def certChain (k : Nat) : List Byte := (List.range (Config.certLength k)).map (Config.certByte k)

/-- GET_DIGESTS: slot 0 alone holds a chain. -/
def execGetDigests (s : State) : Host.Outcome State Fault Refusal :=
  serve s s.rot.spdm.algs (fun s => respond s (spdmMsg 0x12 0x81 0 0 []) (spdmMsg 0x12 0x01 0 1 (sha384 (certChain 0))))

/-- A piece of a chain: its length and the bytes that are left after it. -/
def certPiece (k offset length : Nat) : List Byte :=
  let p := bytesAt (certChain k) offset (min length (Config.certLength k - offset))
  leBytes p.length 2 ++ leBytes (Config.certLength k - offset - p.length) 2 ++ p

/-- GET_CERTIFICATE. -/
def execGetCertificate (slot offset length : Nat) (s : State) : Host.Outcome State Fault Refusal :=
  serve s s.rot.spdm.algs (fun s =>
    if slot ≠ 0 ∨ Config.certLength 0 ≤ offset then spdmError s invalidRequest
    else respond s (spdmMsg 0x12 0x82 slot 0 (leBytes offset 2 ++ leBytes length 2)) (spdmMsg 0x12 0x02 slot 0 (certPiece 0 offset length)))

/-- A response that signs the transcript up to its own body. -/
def signedRespond (s : State) (req : List Byte) (code p1 : Nat) (body : List Byte) : State :=
  let head := spdmMsg 0x12 code p1 0 body
  let t := s.rot.spdm.transcript ++ req ++ head
  modSpdm (respond s req (head ++ (List.range 384).map (Config.rsaSigByte t))) (fun x => { x with signed := some t })

/-- A 32-byte draw of the random source. -/
def drawNonce (s : State) : State × List Byte := ({ s with freeCount := s.freeCount + 1 }, leBytes (Config.randomDraw s.freeCount % 2 ^ 256) 32)

/-- CHALLENGE: CHALLENGE_AUTH with the chain's digest and a nonce (PRESUMED, log entry 27). -/
def execChallenge (slot : Nat) (nonce : List Byte) (s : State) : Host.Outcome State Fault Refusal :=
  serve s s.rot.spdm.algs (fun s =>
    if slot ≠ 0 then spdmError s invalidRequest
    else
      let (s1, n) := drawNonce s
      signedRespond s1 (spdmMsg 0x12 0x83 slot 0 (bytesAt nonce 0 32)) 0x03 slot (sha384 (certChain 0) ++ n))

/-- Measurement block i: register i − 1. -/
def measureBlock (s : State) (i : Nat) : List Byte := leBytes i 1 ++ leBytes 48 2 ++ measureOf s (i - 1)

/-- GET_MEASUREMENTS: index 0 asks for the number of blocks, 0xFF for all of them. -/
def execGetMeasurements (index : Nat) (sign : Bool) (nonce : List Byte) (s : State) : Host.Outcome State Fault Refusal :=
  serve s s.rot.spdm.algs (fun s =>
    if 6 < index ∧ index ≠ 0xFF then spdmError s invalidRequest
    else
      let blocks := if index = 0 then [] else if index = 0xFF then upto 1 6 else [index]
      let body := leBytes blocks.length 1 ++ blocks.flatMap (measureBlock s)
      let p1 := if index = 0 then 6 else 0
      let req := spdmMsg 0x12 0xE0 (b2n sign) index (if sign then bytesAt nonce 0 32 else [])
      if sign then
        let (s1, n) := drawNonce s
        signedRespond s1 req 0x60 p1 (body ++ n)
      else respond s req (spdmMsg 0x12 0x60 p1 0 body))

/-- KEY_EXCHANGE: the handshake of a session begins (PRESUMED, log entry 27). -/
def execKeyExchange (slot : Nat) (exchange : List Byte) (s : State) : Host.Outcome State Fault Refusal :=
  serve s (s.rot.spdm.algs && s.rot.spdm.exchange && !s.rot.spdm.session) (fun s =>
    if slot ≠ 0 then spdmError s invalidRequest
    else
      let (s1, n) := drawNonce s
      let point := (List.range 96).map (Config.exchangeByte s.freeCount)
      modSpdm (signedRespond s1 (spdmMsg 0x12 0xE4 0 slot (bytesAt exchange 0 96)) 0x64 0 (n ++ point)) (fun x => { x with handshake := true, signed := none }))

/-- FINISH: the session runs, or its handshake failed. -/
def execFinish (verifyOk : Bool) (s : State) : Host.Outcome State Fault Refusal :=
  serve s s.rot.spdm.handshake (fun s =>
    if verifyOk then respond (modSpdm s (fun x => { x with handshake := false, session := true, signed := none })) (spdmMsg 0x12 0xE5 0 0 []) (spdmMsg 0x12 0x65 0 0 [])
    else spdmError (modSpdm s (fun x => { x with handshake := false })) decryptError)

/-- END_SESSION. -/
def execEndSession (s : State) : Host.Outcome State Fault Refusal :=
  serve s s.rot.spdm.session (fun s => respond (modSpdm s (fun x => { x with session := false, signed := none })) (spdmMsg 0x12 0xEC 0 0 []) (spdmMsg 0x12 0x6C 0 0 []))

/-- GET_SLH_CERT: a piece of at most 4,096 bytes of the chain to the SLH-DSA identity key. -/
def execGetSlhCert (offset length : Nat) (s : State) : Host.Outcome State Fault Refusal :=
  serve s s.rot.spdm.algs (fun s =>
    if Config.certLength 1 ≤ offset then spdmError s invalidRequest
    else respond s (spdmMsg 0x12 0xFE 0 0 (leBytes 1 1 ++ leBytes offset 2 ++ leBytes length 2)) (spdmMsg 0x12 0x7E 0 0 (certPiece 1 offset (min length 4096))))

/-- GET_SLH_SIG: the SLH-DSA signature over what the last CHALLENGE_AUTH or MEASUREMENTS signed. -/
def execGetSlhSig (s : State) : Host.Outcome State Fault Refusal :=
  serve s true (fun s =>
    match s.rot.spdm.signed with
    | none => spdmError s unexpectedRequest
    | some t => respond s (spdmMsg 0x12 0xFE 0 0 (leBytes 2 1)) (spdmMsg 0x12 0x7E 0 0 ((List.range 7856).map (Config.slhSigByte t))))

end Sys2Proof.Machine
end

