-- ==== Sys2Proof/Machine/Boot.lean ====
section
/-! DEFINITION. Machine/Boot.lean: the RST_IN_N pin (R429), the selection of a journal copy (R386, R387), the boot of the
root of trust (R373, R375 to R378, Table 16-9), the end of bring-up (Table 18-10), and R426's limit on a power-cycle. -/

namespace Sys2Proof.Machine

open Sys2Proof

/-! ### RST_IN_N (R429) -/

/-- A module that is off, and whose inputs are good, has its rails raised again; what kept it off no longer holds (DEDUCED, log entry 35). -/
def leaveOff (s : State) : State :=
  if (s.mgmt.powerState == .off || s.mgmt.powerState == .latched) && s.mgmt.auxOk && s.mgmt.mainInRange then
    raiseRails (endAlert (endAlert (endAlert s 1) 6) 7)
  else s

/-- RST_IN_N_ASSERT: a glitch below 2 µs is counted; a longer assertion begins a module reset and keeps the module in it (DEDUCED, log entry 35). -/
def execRstInAssert (durationNs : Nat) (s : State) : Host.Outcome State Fault Refusal :=
  if durationNs < 2000 then .next { s with health := { s.health with rstGlitch := s.health.rstGlitch + 1 } }
  else
    let s1 := resetModule (leaveOff s) 5
    .next { s1 with mgmt := { s1.mgmt with rstIn := true } }

/-! ### Selection of a journal copy (R386, Table 16-14) -/

/-- The records of a valid copy: all of them, or all but a final one that is torn. None for a copy that is not valid (DEDUCED, log entry 36). -/
def copyRecords (headerOk : Bool) (l : List JRec) : Option (List JRec) :=
  let p := l.takeWhile (·.good)
  if headerOk && decide (l.length ≤ p.length + 1) then some p else none

def lastSeqOf (l : List JRec) : Nat := match l.getLast? with | some r => r.seq | none => 0
def lastStampOf (l : List JRec) : Nat := match l.getLast? with | some r => r.stamp | none => 0

/-- Table 16-14: the records selected, or none where the journal is divergent (DEDUCED, log entry 36). -/
def selectCopy (a b : Option (List JRec)) : Option (List JRec) :=
  match a, b with
  | none, none => none
  | some x, none => some x
  | none, some y => some y
  | some x, some y =>
    if x = y then some x
    else if lastSeqOf x ≠ lastSeqOf y then (if lastSeqOf y < lastSeqOf x then some x else some y)
    else if lastStampOf x ≠ lastStampOf y then (if lastStampOf y < lastStampOf x then some x else some y)
    else none

def selectedJournal (f : Flash) : Option (List JRec) := selectCopy (copyRecords f.headerAOk f.copyA) (copyRecords f.headerBOk f.copyB)

/-- The keys of Table 15-15 in ascending order. -/
def cfgKeys : List Nat := [1, 2] ++ upto 0x10 14 ++ [0x20]

/-- The configuration values and the active slot that a journal's records give. -/
def journalCfg (l : List JRec) : SMap Nat :=
  cfgKeys.foldl (fun m k => match latestRec l k with | some r => mset 0 m k (fieldAt r.value 0 8) | none => m) []
def journalSlot (l : List JRec) : Nat := match latestRec l 0x8004 with | some r => fieldAt r.value 0 1 | none => 0

/-- Step 3 of Table 16-9: the winner is written to both copies, and its values and its spare map are in force, before anything that the map
concerns is reachable (R32); or the journal is divergent. -/
def readJournal (s : State) : State :=
  match selectedJournal s.flash with
  | some l =>
    let s1 := { s with flash := { s.flash with copyA := l, copyB := l, headerAOk := true, headerBOk := true } }
    applySpareMap l { s1 with rot := { s1.rot with divergent := false, cfg := journalCfg l, activeSlot := journalSlot l } }
  | none => { s with rot := { s.rot with divergent := true, cfg := [], activeSlot := 0 } }

/-! ### Steps 4 to 8 of Table 16-9 -/

/-- The slots in the order in which they are tried (R376): 0 A, 1 B, 2 recovery; recovery firmware alone for a divergent
journal (R387) (DEDUCED, log entry 35). -/
def bootOrder (r : Rot) : List Nat := if r.divergent then [2] else [r.activeSlot, (if r.activeSlot = 0 then 1 else 0), 2]

/-- The kind of image that a slot boots (Table 16-10). -/
def slotKind (n : Nat) : Nat := if n < 2 then 0 else 1

def bootable (s : State) (n : Nat) : Bool := decide ((fwVerdict s (fwSlot s n).image (slotKind n)).1 = stDone)

/-- The module halts: fault is set, ready is clear (R373). -/
def haltBoot (s : State) : State := { s with rot := { s.rot with halted := true, booted := false }, ready := false, faultFlag := true }

/-- Registers 0 to 5 (Table 16-11): the first is extended with the digest itself, the others with their bytes' digest (DESIGN CHOICE, log entry 20; DEDUCED, log entry 37). -/
def measureBoot (s : State) (n : Nat) : State :=
  let rom := (List.range 48).map Config.romDigest
  let s0 := { s with rot := { s.rot with measures := mset zeroMeasure s.rot.measures 0 (sha384 (measureOf s 0 ++ rom)) } }
  let s1 := extendReg s0 1 (bytesAt (fwSlot s n).image 0 0x80)
  let s2 := extendReg s1 2 (cfgKeys.flatMap (fun k => leBytes (cfgValue s k) 8))
  let s3 := extendReg s2 3 (spareMap s)
  let s4 := extendReg s3 4 ((List.range 4).flatMap (fun k => leBytes (mget 0 s.flash.rollback k) 4))
  extendReg s4 5 (leBytes (if n = 2 then 1 else 0) 1)

/-- A slot's image starts: it is measured, the firmware domain's memory key and the link epoch are drawn, the configuration
takes effect, and every line of the stacks is written as zero under that key (R470); the stack links' retrains are scheduled (R193). A fall-back is noted in the journal (DEDUCED, log entry 35). -/
def startImage_ (s : State) (n : Nat) : State :=
  let img := (fwSlot s n).image
  let fell := !s.rot.divergent && decide (n ≠ s.rot.activeSlot)
  let s1 := measureBoot s n
  let s2 := if fell then journalWrite s1 0x8004 (leBytes n 1) else s1
  let s3 := { s2 with
    rot := { s2.rot with
      halted := false, booted := true, bootSlot := n, recovery := decide (n = 2), fallback := fell
      activeSlot := if fell then n else s2.rot.activeSlot
      fwVersion := fieldAt img 0x10 4, svn := fwSvn img, fwKey := s2.rot.keyGen + 1, keyGen := s2.rot.keyGen + 1 }
    grp := { s2.grp with linkEpoch := Config.randomDraw s2.freeCount % 2 ^ 32 }
    freeCount := s2.freeCount + 1 }
  scheduleRetrains { s3 with mem := { s3.mem with bytes := [], lines := [] }, host := { s3.host with ideRequired := decide (cfgValue s3 0x20 = 1) } } (List.range 24)

/-- The boot after the self-test and the key reconstruction have passed (DEDUCED, log entry 35). -/
def bootFirmware (s : State) : State :=
  let s1 := readJournal s
  let s2 := if s1.rot.divergent then raiseEvent s1 0 stDivergent 8 0xFFFF [] else s1
  match (bootOrder s2.rot).find? (bootable s2) with
  | some n => startImage_ s2 n
  | none => haltBoot s2

/-- MODULE_BOOT: RST_IN_N is released, and the root of trust boots (DEDUCED, log entry 35). -/
def execModuleBoot (rngOk : Bool) (pufOk : Bool) (s : State) : Host.Outcome State Fault Refusal :=
  if s.mgmt.powerState ≠ .on ∨ (!s.mgmt.inReset && (s.rot.booted || s.rot.halted)) = true then .next s
  else
    let s1 := { s with mgmt := { s.mgmt with rstIn := false, inReset := false } }
    .next (if rngOk && pufOk then bootFirmware s1 else haltBoot s1)

/-- MODULE_READY (step 8 of Table 18-10): the module reports ready, its frame timer starts, and the anti-rollback counter
of the booted image rises to its svn (R377) (DEDUCED, log entry 35). -/
def execModuleReady (s : State) : Host.Outcome State Fault Refusal :=
  if s.mgmt.powerState ≠ .on ∨ (s.mgmt.inReset || s.ready || s.rot.halted || !s.rot.booted) = true then .next s
  else
    let k := slotKind s.rot.bootSlot
    .next { s with
      ready := true
      frames := { s.frames with counter := 0, lastTick := s.now, planned := s.now + s.frames.cfg.periodUs * 1000 }
      health := { s.health with resets := madd s.health.resets 5 1, lastCause := s.health.moduleResetCause }
      flash := { s.flash with rollback := mmod 0 s.flash.rollback k (fun v => max v s.rot.svn) }
      rot := { s.rot with activationPending := false } }

/-- POWER_CYCLE_TIMEOUT: a module that is not ready 10 s after its rails were cycled is left powered down (R426). -/
def execPowerCycleTimeout (s : State) : Host.Outcome State Fault Refusal :=
  if s.ready || s.health.moduleResetCause != 6 || s.mgmt.powerState != .on then .next s else .next (latchOff s 7)

end Sys2Proof.Machine
end

