-- ==== Sys2Proof/Machine/Cells.lean ====
section
/-! DEFINITION. Machine/Cells.lean: the steps of a cell (chapters 04 and 05): each row of the table names one operation
that the cell's sequencer issues. -/

namespace Sys2Proof.Machine

open Sys2Proof

/-- MMA RUN (R95): multiplies A by B into accumulator rows under the group sums of R72. -/
def execMmaRun (cell : Nat) (f : RunOp) (errs : RowErrs) (s : State) : Host.Outcome State Fault Refusal :=
  issueOp s cell (.run f) errs

/-- MMA DRAIN (R96, R97): fuses, converts and writes accumulator rows, and may feed statistics slots. -/
def execMmaDrain (cell : Nat) (f : DrainOp) (errs : RowErrs) (s : State) : Host.Outcome State Fault Refusal :=
  issueOp s cell (.drain f) errs

/-- VLD (R98): 64 values at a[ra] + imm, expanded to FP32 (R79). -/
def execVld (cell vd ra fmt : Nat) (imm : BitVec 32) (errs : RowErrs) (s : State) : Host.Outcome State Fault Refusal :=
  issueOp s cell (.vld vd ra fmt imm) errs

/-- VST (R98): 64 values converted and stored at a[ra] + imm. -/
def execVst (cell vs1 ra fmt : Nat) (sat : Bool) (imm : BitVec 32) (s : State) : Host.Outcome State Fault Refusal :=
  issueOp s cell (.vst vs1 ra fmt sat imm) []

/-- VADD (Table 4-9, R80). -/
def execVadd (cell vd vs1 vs2 : Nat) (s : State) : Host.Outcome State Fault Refusal :=
  issueOp s cell (.vadd vd vs1 vs2) []

/-- VSUB (Table 4-9, R80). -/
def execVsub (cell vd vs1 vs2 : Nat) (s : State) : Host.Outcome State Fault Refusal :=
  issueOp s cell (.vsub vd vs1 vs2) []

/-- VMUL (Table 4-9, R80). -/
def execVmul (cell vd vs1 vs2 : Nat) (s : State) : Host.Outcome State Fault Refusal :=
  issueOp s cell (.vmul vd vs1 vs2) []

/-- VFMA (Table 4-9, R80): rounded once. -/
def execVfma (cell vd vs1 vs2 vs3 : Nat) (s : State) : Host.Outcome State Fault Refusal :=
  issueOp s cell (.vfma vd vs1 vs2 vs3) []

/-- VMAX (Table 4-9, R81). -/
def execVmax (cell vd vs1 vs2 : Nat) (s : State) : Host.Outcome State Fault Refusal :=
  issueOp s cell (.vmax vd vs1 vs2) []

/-- VMIN (Table 4-9, R81). -/
def execVmin (cell vd vs1 vs2 : Nat) (s : State) : Host.Outcome State Fault Refusal :=
  issueOp s cell (.vmin vd vs1 vs2) []

/-- VMOV (Table 4-9). -/
def execVmov (cell vd vs1 : Nat) (s : State) : Host.Outcome State Fault Refusal :=
  issueOp s cell (.vmov vd vs1) []

/-- VABS (Table 4-9): NaN gives the canonical NaN. -/
def execVabs (cell vd vs1 : Nat) (s : State) : Host.Outcome State Fault Refusal :=
  issueOp s cell (.vabs vd vs1) []

/-- VNEG (Table 4-9): NaN gives the canonical NaN. -/
def execVneg (cell vd vs1 : Nat) (s : State) : Host.Outcome State Fault Refusal :=
  issueOp s cell (.vneg vd vs1) []

/-- VBCAST (Table 4-9). -/
def execVbcast (cell vd : Nat) (imm : F32) (s : State) : Host.Outcome State Fault Refusal :=
  issueOp s cell (.vbcast vd imm) []

/-- VADDI (Table 4-9, R80). -/
def execVaddi (cell vd vs1 : Nat) (imm : F32) (s : State) : Host.Outcome State Fault Refusal :=
  issueOp s cell (.vaddi vd vs1 imm) []

/-- VMULI (Table 4-9, R80). -/
def execVmuli (cell vd vs1 : Nat) (imm : F32) (s : State) : Host.Outcome State Fault Refusal :=
  issueOp s cell (.vmuli vd vs1 imm) []

/-- VRSUM (Table 4-9): the sum over the fixed tree in every lane. -/
def execVrsum (cell vd vs1 : Nat) (s : State) : Host.Outcome State Fault Refusal :=
  issueOp s cell (.vrsum vd vs1) []

/-- VRMAX (Table 4-9): the maximum over the same tree in every lane. -/
def execVrmax (cell vd vs1 : Nat) (s : State) : Host.Outcome State Fault Refusal :=
  issueOp s cell (.vrmax vd vs1) []

/-- VMSK (Table 4-9): lanes kept where the mask at a[ra] has a 1. -/
def execVmsk (cell vd vs1 ra : Nat) (imm : F32) (errs : RowErrs) (s : State) : Host.Outcome State Fault Refusal :=
  issueOp s cell (.vmsk vd vs1 ra imm) errs

/-- EXP2 (R99, R112, R114 to R116). -/
def execExp2 (cell vd vs : Nat) (s : State) : Host.Outcome State Fault Refusal :=
  issueOp s cell (.exp2 vd vs) []

/-- LOG2 (R99, R113 to R116). -/
def execLog2 (cell vd vs : Nat) (s : State) : Host.Outcome State Fault Refusal :=
  issueOp s cell (.log2 vd vs) []

/-- STAT CLR (R100, R120). -/
def execStatClr (cell : Nat) (mask : BitVec 8) (s : State) : Host.Outcome State Fault Refusal :=
  issueOp s cell (.statClr mask) []

/-- STAT MAX (R121). -/
def execStatMax (cell slot v lanes : Nat) (s : State) : Host.Outcome State Fault Refusal :=
  issueOp s cell (.statMax slot v lanes) []

/-- STAT SUM (R122). -/
def execStatSum (cell slot v lanes : Nat) (s : State) : Host.Outcome State Fault Refusal :=
  issueOp s cell (.statSum slot v lanes) []

/-- STAT READ (R123, R124). -/
def execStatRead (cell slot v : Nat) (s : State) : Host.Outcome State Fault Refusal :=
  issueOp s cell (.statRead slot v) []

/-- MOVE DESC (R101): hands the descriptor at a[ra] to the cell's mover. -/
def execMoveDesc (cell ra : Nat) (errs : RowErrs) (s : State) : Host.Outcome State Fault Refusal :=
  issueOp s cell (.moveDesc ra) errs

/-- MOVE FLAGS (R101, R102): writes the status word and clears the four flags. -/
def execMoveFlags (cell ra : Nat) (s : State) : Host.Outcome State Fault Refusal :=
  issueOp s cell (.moveFlags ra) []

/-- SEM_WAIT (R103): holds issue until the semaphore holds n, then subtracts it unless peek is set. -/
def execSemWait (cell sem n : Nat) (peek : Bool) (s : State) : Host.Outcome State Fault Refusal :=
  issueOp s cell (.semWait sem n peek) []

/-- SEM_POST (R104): posts once every earlier write of the tile has completed. -/
def execSemPost (cell sem inc : Nat) (remote : Bool) (target : Nat) (s : State) : Host.Outcome State Fault Refusal :=
  issueOp s cell (.semPost sem inc remote target) []

/-- SWAP (R105, R153): exchanges the halves of a double-buffered region. -/
def execSwap (cell region : Nat) (s : State) : Host.Outcome State Fault Refusal :=
  issueOp s cell (.swap region) []

/-- LOOP BEGIN (R106). -/
def execLoopBegin (cell k body : Nat) (s : State) : Host.Outcome State Fault Refusal :=
  issueOp s cell (.loopBegin k body) []

/-- LOOP KSET (Table 4-12). -/
def execLoopKset (cell k value : Nat) (s : State) : Host.Outcome State Fault Refusal :=
  issueOp s cell (.loopKset k value) []

/-- LOOP ASET (Table 4-12). -/
def execLoopAset (cell a : Nat) (value : BitVec 48) (s : State) : Host.Outcome State Fault Refusal :=
  issueOp s cell (.loopAset a value) []

/-- LOOP AADD (Table 4-12): wraps modulo 2^48. -/
def execLoopAadd (cell a : Nat) (addend : BitVec 32) (s : State) : Host.Outcome State Fault Refusal :=
  issueOp s cell (.loopAadd a addend) []

/-- FENCE (R107). -/
def execFence (cell : Nat) (mask : BitVec 6) (s : State) : Host.Outcome State Fault Refusal :=
  issueOp s cell (.fence mask) []

/-- SEQUENCER_WAIT_END: what the cell's held operation waits for has come about, and it completes (R91, R103 to R107);
nothing changes where it has not (DEDUCED, log entry 72). -/
def execSequencerWaitEnd (cell : Nat) (errs : RowErrs) (s : State) : Host.Outcome State Fault Refusal :=
  if cellOk cell then .next (resumeHeld s cell errs) else .refused (.noSuchUnit "cell")

/-- OPERATION_RETIRE: the effects of the oldest operation of a queue become final (R108) (DESIGN CHOICE, log entry 7; DEDUCED, log entry 72). -/
def execOperationRetire (cell : Nat) (q : CellQueue) (s : State) : Host.Outcome State Fault Refusal :=
  if cellOk cell then
    let (c, n) := retireFirst (layoutOf s) (cellOf s cell) q s.freeCount
    .next (setCell { s with freeCount := n } cell c)
  else .refused (.noSuchUnit "cell")

/-- SEM_WAIT_GRANT (R164): the wait at the head of a semaphore's queue is tested; once the count satisfies it, it is
granted, subtracts its n and leaves the queue. -/
def execSemWaitGrant (cell sem : Nat) (s : State) : Host.Outcome State Fault Refusal :=
  if !cellOk cell || !decide (sem < 64) then .refused (.noSuchUnit "semaphore")
  else
    let c := cellOf s cell
    match mget [] c.semQ sem with
    | [] => .next s
    | .sequencer _ _ :: _ => .next (resumeHeld s cell [])
    | _ => .next (grantHead s cell sem)

end Sys2Proof.Machine
end

