-- ==== Sys2Proof/Machine/CmdCheck.lean ====
section
/-! DEFINITION. Machine/CmdCheck.lean: the check-value commands (R359, R413 to R415). A CV_RUN reads its bytes when its
work ends. -/

namespace Sys2Proof.Machine

open Sys2Proof

def streamOf (s : State) (part k : Nat) : Stream := mget Stream.reset (partOf s part).streams k
def setStream (s : State) (part k : Nat) (x : Stream) : State := modPart s part (fun p => { p with streams := mset Stream.reset p.streams k x })

/-- Whether a command in progress runs on a stream of a partition. -/
def runsStream (part k : Nat) : Instr → Bool
  | .cvRun h p => h.partition == part && p.stream == k
  | _ => false

/-- The values that an alive of a stream's width takes. -/
def aliveSpan (alive16 : Bool) : Nat := if alive16 then 2 ^ 16 else 2 ^ 8

/-- Step 2 of R414. -/
def aliveCheck (x : Stream) (alive : Nat) : Check :=
  let n := aliveSpan x.alive16
  if alive % n = x.expected then none
  else if (alive + 1) % n = x.expected then some (stAliveRepeat, noDetail, 0)
  else some (stAliveGap, noDetail, 0)

/-- CV_RUN (DEDUCED, log entry 52). -/
def execCvRun (h : CmdHdr) (p : CvRunParams) (s : State) : Host.Outcome State Fault Refusal :=
  let i : Instr := .cvRun h p
  let x := streamOf s h.partition p.stream
  let wide := if p.start then p.alive16 else x.alive16
  runCommand s i h
    [need (decide (p.stream < 16)) stParamRange 0x20, need (decide (p.poly < 4)) stParamRange 0x22, need (wide || decide (p.alive < 256)) stParamRange 0x24,
      need (decide (p.bytes ≠ 0) || p.final) stParamRange 0x30]
    [if p.bytes = 0 then none else sourceCheck s h p.src p.bytes]
    [need (p.start || x.inUse) stWrongState, need (!longPending s (runsStream h.partition p.stream)) stBusy,
      if p.checkAlive && !p.start then aliveCheck x p.alive else none]
    (acceptLong i h)

/-- The stream at the start of a run: initialised, or with its expected value advanced. -/
def openStream (x : Stream) (p : CvRunParams) : Stream :=
  let e := if p.checkAlive then (p.alive + 1) % aliveSpan (if p.start then p.alive16 else x.alive16) else x.expected
  if p.start then { inUse := true, poly := p.poly, running := polyInit p.poly, alive16 := p.alive16, checkAlive := p.checkAlive, expected := e, byteCount := 0 }
  else { x with checkAlive := p.checkAlive, expected := e }

/-- The end of CV_RUN: steps 3 and 4 of R414 (DEDUCED, log entry 52). -/
def endCvRun (s : State) (h : CmdHdr) (p : CvRunParams) : State × Nat × Nat × Nat :=
  let (s1, bs, bad) := readObj s h.partition p.src p.bytes
  if bad then (s1, stUncorrectable, 0, 0)
  else
    let x := openStream (streamOf s1 h.partition p.stream) p
    let r := cvRunBytes x.poly x.running bs
    if p.final then (setStream s1 h.partition p.stream Stream.reset, stDone, cvFinish x.poly r, 0)
    else (setStream s1 h.partition p.stream { x with running := r, byteCount := x.byteCount + p.bytes }, stDone, r, 0)

/-- The record of Table 18-3. -/
def streamRecord (x : Stream) (part k : Nat) : List Byte :=
  let b := leBytes 0x5643 2 ++ leBytes x.poly 1 ++ leBytes (b2n x.alive16 + 2 * b2n x.checkAlive) 1 ++ leBytes part 1 ++ leBytes k 1
    ++ leBytes x.expected 2 ++ leBytes x.running 8 ++ leBytes x.byteCount 8 ++ leBytes 0 4
  b ++ leBytes (crc32c b) 4

/-- CV_SAVE: writes the record and frees the stream (DEDUCED, log entry 52). -/
def execCvSave (h : CmdHdr) (stream dst : Nat) (s : State) : Host.Outcome State Fault Refusal :=
  let i : Instr := .cvSave h stream dst
  let x := streamOf s h.partition stream
  runCommand s i h [need (decide (stream < 16)) stParamRange 0x20, dstRange s h dst 32 0x28] [dstCheck s h dst 32]
    [need x.inUse stWrongState, need (!longPending s (runsStream h.partition stream)) stBusy]
    (immediate i h (fun s => (setStream (writeDst s h dst (streamRecord x h.partition stream)) h.partition stream Stream.reset, 0, 0)))

/-- The stream that a record holds. -/
def recordStream (r : List Byte) : Stream :=
  let f := fieldAt r 3 1
  { inUse := true, poly := fieldAt r 2 1, running := fieldAt r 8 8, alive16 := bit f 0, checkAlive := bit f 1, expected := fieldAt r 6 2, byteCount := fieldAt r 0x10 8 }

/-- The checks of a record (R415) (DEDUCED, log entry 52). -/
def recordChecks (r : List Byte) (part : Nat) : List Check :=
  [need (decide (fieldAt r 0x1C 4 = crc32c (r.take 0x1C))) stBadCrc, need (decide (fieldAt r 0 2 = 0x5643)) stParamRange,
    need (decide (fieldAt r 2 1 < 4)) stParamRange, need (decide (fieldAt r 4 1 = part)) stNotPermitted]

/-- CV_RESTORE (DEDUCED, log entry 52). -/
def execCvRestore (h : CmdHdr) (stream src : Nat) (s : State) : Host.Outcome State Fault Refusal :=
  let i : Instr := .cvRestore h stream src
  let r := peekObj s h.partition src 32
  runCommand s i h [need (decide (stream < 16)) stParamRange 0x20] [sourceCheck s h src 32]
    ([need (!(streamOf s h.partition stream).inUse) stWrongState, need (!longPending s (runsStream h.partition stream)) stBusy,
      need (!peekPoison s h.partition src 32) stUncorrectable] ++ recordChecks r h.partition)
    (immediate i h (fun s => (setStream (readObj s h.partition src 32).1 h.partition stream (recordStream r), (recordStream r).running, 0)))

end Sys2Proof.Machine
end

