-- ==== Sys2Proof/Machine/GroupMsgs.lean ====
section
/-! DEFINITION. Machine/GroupMsgs.lean: the control messages of a group (R297, R298, R300 to R303, R305, Tables 13-14 and
13-15): how they are sent, the entries of a TICK, reachability, the relay tree, and the loss of a rank. -/

namespace Sys2Proof.Machine

open Sys2Proof

/-- Whether the module is the keystone of a group, and whether the group has more than one rank. -/
def leads (s : State) : Bool := s.grp.state == .keystone

/-- Whether the module sends TICKs: as keystone, and from the close of the join window on if it has been chosen. -/
def sendsTicks (s : State) : Bool :=
  leads s || (s.grp.state == .joining && s.grp.startFrame.isSome && (match s.grp.form with | some f => decide (f.rank = s.grp.keystoneRank) | none => false))
def grouped (s : State) : Bool := s.grp.state == .keystone || s.grp.state == .member

/-! ### Control messages (R298, R301, R302) -/

/-- What the sender of a control message must have put into its header: no Reserved bit, the address zero. -/
def ctlOk (m : Msg) : Bool := headOk m && decide (m.partition ≤ 8) && decide (m.addr = 0) && decide (m.data.length = m.length) && decide (m.length ≤ 896)

/-- A control message on a port: one for another rank of the group is relayed (R300, R303) (DEDUCED, log entry 57). -/
def onControl (s : State) (type : Nat) (m : Msg) (ok : Bool) (f : State → State) : Host.Outcome State Fault Refusal :=
  onMessage s m (ctlOk m && ok) (fun s =>
    if m.dstRank = s.grp.rank ∨ s.grp.state = .standalone then f s
    else match portTo s m.dstRank (some m.port) with
      | some p => sendCtlMsg s type { m with port := p }
      | none => s)

/-! ### The relay tree (R301) -/

/-- The rank that the tree's choice attaches a rank to. The spec does not say how the keystone builds the tree (log entry 25). -/
def chosenParent (s : State) (r : Nat) : Nat := Config.treeParent s.grp.epoch s.grp.members s.grp.reach r

/-- Whether a rank's chain of attachments ends at the keystone within a number of links. -/
def chainEnds (s : State) : Nat → Nat → Bool
  | 0, r => decide (r = s.grp.keystoneRank)
  | n + 1, r => decide (r = s.grp.keystoneRank) || chainEnds s n (chosenParent s r)

/-- The rank that a rank is attached to: at most 4 links lie between it and the keystone, to which a rank without such a chain is attached
(DESIGN CHOICE, log entry 25). The reach that the ranks report repairs the tree. -/
def parentOf (s : State) (r : Nat) : Nat := if chainEnds s 4 r then chosenParent s r else s.grp.keystoneRank

/-- The ranks attached to this module. -/
def childRanks (s : State) : List Nat := s.grp.members.filter (fun r => r != s.grp.keystoneRank && r != s.grp.rank && parentOf s r == s.grp.rank)

/-- The relaying modules between the keystone and a rank, at most `fuel`. -/
def relays (s : State) : Nat → Nat → Nat
  | 0, _ => 0
  | fuel + 1, r => if r = s.grp.keystoneRank ∨ parentOf s r = s.grp.keystoneRank then 0 else relays s fuel (parentOf s r) + 1

def depthOf (s : State) : Nat := (s.grp.members.map (relays s 3)).foldl max 0

/-! ### Entries of a TICK (Table 13-15) -/

def entriesOf (data : List Byte) : List (List Byte) := (List.range (data.length / 16)).map (fun i => (data.drop (16 * i)).take 16)

/-- Whether an entry has a kind, an action and Reserved bytes that the table allows (DEDUCED, log entry 58). -/
def entryOk (e : List Byte) : Bool :=
  let z (o n : Nat) : Bool := decide (fieldAt e o n = 0)
  let a := fieldAt e 1 1
  match fieldAt e 0 1 with
  | 1 => z 7 1 && z 14 2 && decide (fieldAt e 6 1 < 2)
  | 2 => z 1 1 && z 8 8
  | 3 => decide (a ≤ 4) && z 10 6
  | 4 => decide (a ≤ 3) && z 3 1 && z 12 4
  | 5 => decide (a ≤ 2) && z 6 10
  | _ => false

def configEntry (c : FrameCfg) (frame : Nat) : List Byte :=
  leBytes 1 1 ++ leBytes c.periodUs 1 ++ leBytes c.quantumUs 1 ++ leBytes c.maxQuanta 1 ++ leBytes c.lateLead 1 ++ leBytes c.source 1 ++ leBytes (b2n c.syncOutEn) 1
    ++ leBytes 0 1 ++ leBytes frame 6 ++ leBytes 0 2
def abortEntry (c seq : Nat) : List Byte := leBytes 2 1 ++ leBytes 0 1 ++ leBytes c 2 ++ leBytes seq 4 ++ leBytes 0 8
def memberEntry (action rank frame epoch : Nat) : List Byte :=
  leBytes 4 1 ++ leBytes action 1 ++ leBytes rank 1 ++ leBytes 0 1 ++ leBytes frame 6 ++ leBytes epoch 2 ++ leBytes 0 4
def gateEntry (action left : Nat) : List Byte := leBytes 5 1 ++ leBytes action 1 ++ leBytes left 4 ++ leBytes 0 10

/-- The order of entries: by kind, then by context or rank. -/
def entryKey (e : List Byte) : Nat :=
  let k := fieldAt e 0 1
  k * 2 ^ 16 + (if k = 2 ∨ k = 3 then fieldAt e 2 2 else if k = 4 then fieldAt e 2 1 else 0)

def insertEntry (e : List Byte) : List (List Byte) → List (List Byte)
  | [] => [e]
  | f :: t => if entryKey e < entryKey f then e :: f :: t else f :: insertEntry e t

def sortEntries (l : List (List Byte)) : List (List Byte) := l.foldl (fun a e => insertEntry e a) []

/-- The body of a TICK. -/
def tickBody (s : State) (i : TickInfo) : List Byte :=
  leBytes i.stretch 1 ++ leBytes (b2n i.ends) 1 ++ leBytes i.overflow 2 ++ leBytes s.grp.epoch 2 ++ leBytes 0 10

/-- Pieces of at most 56 entries, at least one. -/
def tickPieces (l : List (List Byte)) : List (List Byte) :=
  (List.range (max 1 (ceilDiv l.length 56))).map (fun k => ((l.drop (56 * k)).take 56).flatten)

/-- The keystone sends a TICK down the tree. -/
def sendTick (s : State) (i : TickInfo) (l : List (List Byte)) : State :=
  (childRanks s).foldl (fun s r => (tickPieces (sortEntries l)).foldl (fun s d => sendCtl s 5 r i.frame (tickBody s i) d) s) s

/-- A change that the keystone announces in its next TICK. -/
def announce (s : State) (frame : Nat) (e : List Byte) : State :=
  if s.grp.announced.any (fun a => a.entry == e) then s
  else modGrp s (fun g => { g with announced := g.announced ++ [{ frame := frame, kind := fieldAt e 0 1, entry := e }] })

/-- Frame number some frames ahead. -/
def frameIn (s : State) (n : Nat) : Nat := (frameNow s + n) % 2 ^ 48

/-! ### Loss of a rank (R303) -/

/-- An abort of a context's step that the keystone places in its next TICK. -/
def askAbort (s : State) (c seq cause : Nat) : State :=
  if s.grp.abortAsk.any (fun a => a.1 == c && a.2.1 == seq) then s else modGrp s (fun g => { g with abortAsk := g.abortAsk ++ [(c, seq, cause)] })

/-- The step_seq of a step; a KERNEL_LAUNCH has none, and every step of the context is named (DEDUCED, log entry 73). -/
def seqOf (t : Step) : Nat := t.seq.getD 0xFFFFFFFF

/-- Every group context with a step in flight. -/
def groupSteps (s : State) : List (Nat × Step) :=
  (allCtxs s).filterMap (fun e => if e.2.group then e.2.inFlight.map (fun t => (e.1, t)) else none)

/-- The keystone declares a rank lost: the record, the event, and the aborts; it counts as complete for every later grant. -/
def loseRank (s : State) (r : Nat) : State :=
  if !leads s || s.grp.lost.contains r || !s.grp.members.contains r || r == s.grp.rank then s
  else
    let s1 := modGrp s (fun g => { g with lost := g.lost ++ [r], waiting := g.waiting.filter (· != r), lateRanks := g.lateRanks.filter (· != r)
                                          overrunRanks := mset 0 g.overrunRanks r 0, runnable := mset 0 g.runnable r 0, overflow := mset 0 g.overflow r 0 })
    let s2 := raiseEvent s1 0 stMemberLost 8 0xFFFF (leBytes r 1 ++ leBytes s.grp.epoch 2)
    (groupSteps s2).foldl (fun s e => askAbort s e.1 (seqOf e.2) 0) s2

/-- Ranks that this module's own collective operations wait for in vain (R310). -/
def timedOutRanks (s : State) : List Nat :=
  (s.colls.flatMap (fun e => (e.2.ops.filter (·.timedOut)).flatMap (missingRanks s e.2))).eraseDups

/-- The timeout entries of a HEARTBEAT. -/
def timeoutEntries (s : State) : List (List Byte) :=
  s.colls.flatMap (fun e => (e.2.ops.filter (·.timedOut)).map (fun o =>
    leBytes o.opId 4 ++ leBytes o.context 2 ++ leBytes 0 2 ++ leBytes (rankMask (missingRanks s e.2 o)) 8))

/-! ### LATE, HEARTBEAT and ABORT of a member -/

/-- A late report (R46). -/
def sendLate (s : State) : State :=
  sendCtl s 7 s.grp.keystoneRank (frameNow s) (leBytes (1 + 2 * b2n s.frames.overrun) 1 ++ leBytes s.frames.checks 1 ++ leBytes 0 14) []

/-- Whether a granted gated command has ended, or none was held (R446). -/
def grantDone (s : State) : Bool :=
  match s.grp.grantHdr with
  | none => true
  | some h =>
    let mine (i : Instr) : Bool := match commandOf i with | some e => e.2 == h | none => false
    !(s.host.started.any mine || s.host.long.any (fun l => l.hdr == h) || s.host.ticking.any (fun p => p.hdr == h))

/-- The runnable mask of a heartbeat: group contexts whose queue's head step could run here (DEDUCED, log entry 59). -/
def runnableMask (s : State) : Nat :=
  ((allCtxs s).map (fun e => if e.2.group && unitsReady s e.1 && ableHere e.2 && (e.2.state == .resident || e.2.state == .evicted) then 2 ^ e.1 else 0)).sum

/-- The heartbeat of a tick; `wasLate` is the late bit of the frame that ended (DEDUCED, log entry 58). -/
def sendHeartbeat (s : State) (wasLate : Bool) : State :=
  let f := s.frames
  let flags := b2n wasLate + 2 * b2n f.overrun + 4 * b2n f.catchUp + 8 * b2n f.syncLost + 16 * b2n (grantDone s)
  let l := (timeoutEntries s).take 56
  sendCtl s 8 s.grp.keystoneRank (frameNow s)
    (leBytes flags 1 ++ leBytes l.length 1 ++ leBytes f.overflowOwn 2 ++ leBytes (runnableMask s) 4 ++ leBytes 0 8) l.flatten

/-- The cause code of an ABORT; for a cause that the table does not list the code is free (DESIGN CHOICE, log entry 18). -/
def causeCode (n : Nat) : AbortCause → Nat
  | .poisonWeight _ => 1
  | .poisonKv _ => 1
  | .poisonTransient _ => 1
  | .hang => 2
  | .rowFetch => 3
  | .tileFault => 4
  | .overflow => 5
  | _ => Config.pick n % 65536

/-- A member asks the keystone for an abort of a group context's step, once. -/
def sendAbort (s : State) (c seq code : Nat) : State :=
  if s.grp.abortSent.contains c then s
  else
    sendCtl (modGrp s (fun g => { g with abortSent := g.abortSent ++ [c] })) 9 s.grp.keystoneRank (frameNow s)
      (leBytes c 2 ++ leBytes code 2 ++ leBytes seq 4 ++ leBytes 0 8) []

/-! ### The end of a group (R305, R306, R358) -/

/-- Every group context is blocked until an image for the remaining ranks is loaded. -/
def blockSpans (s : State) : State :=
  (allCtxs s).foldl (fun s e => if e.2.group then setCtx s e.1 { e.2 with spanLost := true } else s) s

/-- The module leaves its group: it stands alone, with its own tick source, and keeps its counter (DEDUCED, log entry 57). -/
def standAlone (s : State) : State :=
  let g := s.grp
  let f := s.frames
  blockSpans { s with
    grp := { ({} : Group) with epoch := g.epoch, linkEpoch := g.linkEpoch, sent := g.sent }
    frames := { f with cfg := { f.cfg with source := 0 } } }

end Sys2Proof.Machine
end

