-- ==== Sys2Proof/Machine/Frames.lean ====
section
/-! DEFINITION. Machine/Frames.lean: frames and ticks (R33 to R59, R90, R175, R277, R290): completion and check points,
stretch, the actions of a tick in the order of Table 2-1, the fetch of the next row, and the steps that drive them. -/

namespace Sys2Proof.Machine

open Sys2Proof

/-! ### Completion (R45) -/

/-- Whether an engine has issued every transfer of its list queue's descriptors (R173). -/
def listIssued (e : Engine) (y : Eng) : Bool := y.listQ.isEmpty && (unissued e y .list).isEmpty

/-- Whether the module is frame-complete. -/
def frameComplete (s : State) : Bool :=
  s.cells.all (fun e => !e.2.active && e.2.later.isEmpty) && (allEngines s).all (fun e => listIssued e (engOf s e))

/-! ### Tick sources (R52, Table 2-8) -/

/-- Where the module takes its tick from: 0 INTERNAL, 1 INBAND, 2 SYNC_IN. A keystone uses its own generator, a member one of
the other two, a module outside every group SYNC_IN where that is selected (DEDUCED, log entry 58). -/
def tickSource (s : State) : Nat :=
  match s.grp.state with
  | .keystone => 0
  | .member => if s.frames.cfg.source = 2 then 2 else 1
  | .lost => if s.frames.cfg.source = 2 then 2 else 1
  | _ => if s.frames.cfg.source = 2 then 2 else 0

/-- Whether the module has a frame timer at all: it runs and is ready (Table 18-10). -/
def ticking (s : State) : Bool := alive s && s.ready

/-- Lengths in ns: the configured period, n stretch quanta, the late lead, the minimum frame (R54). -/
def periodNs (c : FrameCfg) : Nat := c.periodUs * 1000
def quantaNs (c : FrameCfg) (n : Nat) : Nat := n * c.quantumUs * 1000
def leadNs (c : FrameCfg) : Nat := c.lateLead * 100
def minFrameNs (c : FrameCfg) : Nat := periodNs c - 2000

/-! ### The check point and stretch (R46, R47) -/

/-- The module checks its frame; what is not complete is reported late, and catch-up ends with a first check that is complete
(R48). A collective operation in its deadline frame makes the module late too (R310). -/
def checkNow (s : State) : State :=
  let f := s.frames
  let done := frameComplete s
  let late := !done || deadlineMissed s
  let s1 := modFrames s (fun f => { f with
    checks := f.checks + 1, checked := true, late := f.late || late, lateCnt := f.lateCnt + b2n (late && !f.late)
    catchUp := f.catchUp && !(done && decide (f.checks = 0)) })
  if !late then s1
  else if tickSource s = 0 then modGrp s1 (fun g => { g with lateRanks := if g.lateRanks.contains g.rank then g.lateRanks else g.lateRanks ++ [g.rank] })
  else if s.grp.state = .member && decide (f.checks < 255) then sendLate s1
  else s1

/-- The time of the current plan's check point. -/
def checkAt (s : State) : Nat := s.frames.planned - leadNs s.frames.cfg

/-- A new plan for the current frame: n quanta in all; a check point that has passed is made up for at once (DEDUCED, log entries 32 and 58). -/
def replan (s : State) (at_ n planned : Nat) : State :=
  let s1 := modFrames s (fun f => { f with
    planned := planned, stretch := n, stretchCnt := f.stretchCnt + (n - f.stretch), checked := false
    lateMark := if f.stretch < n then some f.ticks else f.lateMark })
  if checkAt s1 ≤ at_ then checkNow s1 else s1

/-- The body of a PLAN. -/
def planBody (s : State) : List Byte :=
  leBytes s.frames.stretch 1 ++ leBytes 0 3 ++ leBytes (s.frames.planned - s.frames.lastTick) 4 ++ leBytes 0 8

/-- The keystone moves the planned tick by one quantum and tells every member. -/
def stretchFrame (s : State) (at_ : Nat) : State :=
  let f := s.frames
  let s1 := replan (modGrp s (fun g => { g with lateRanks := [] })) at_ (f.stretch + 1) (f.planned + quantaNs f.cfg 1)
  if leads s then (s.grp.members.filter (· != s.grp.rank)).foldl (fun t r => sendCtl t 6 r (frameNow s) (planBody s1) []) s1 else s1

/-- Whether this module or a member is in overrun (R48). -/
def anyOverrun (s : State) : Bool := s.frames.overrun || s.grp.overrunRanks.any (fun e => e.2 != 0)

/-! ### Flags of a frame (R82, R124, R140) -/

/-- Counts the cells in which a flag was set in the frame, and clears the marks. -/
def countFlags (s : State) : State :=
  let one (on : Bool) (c i : Nat) (s : State) : State := if on then countErr s (c / 16) i 1 else s
  let s1 := s.cells.foldl (fun s e => one e.2.emptyF e.1 3 (one e.2.cancelF e.1 2 (one e.2.oflF e.1 1 (one e.2.nvF e.1 0 s)))) s
  mapCells s1 (fun c => { c with nvF := false, oflF := false, cancelF := false, emptyF := false })

/-- The training latch of a phase 3 step (R140). -/
def latchTraining (s : State) : State :=
  match s.residency.current with
  | none => s
  | some c =>
    let hit := s.cells.any (fun e => e.2.nvF || e.2.oflF)
    modCtx s c (fun x => match x.inFlight with
      | some t => if decide (t.phase = 3) && hit then { x with inFlight := some { t with latch := true } } else x
      | none => x)

/-! ### Commit and abort (R189, R273, R303 to R305) -/

def stopRun (s : State) (c : Nat) : State := modGrp s (fun g => { g with runNow := if g.runNow = some c then none else g.runNow, abortSent := g.abortSent.filter (· != c) })

/-- Whether the running step has completed its last row and nothing aborts it. -/
def commitDue (x : Ctx) : Bool :=
  match x.inFlight with | some t => t.started && decide (t.row = t.rowCount) && decide (t.overflowLeft = 0) && x.abortNext.isEmpty | none => false

def commitTick (s : State) (done : Bool) : State :=
  match s.residency.current with
  | none => s
  | some c => match ctxOf s c with
    | some x => if done && commitDue x then commitStep (stopRun s c) c else s
    | none => s

/-- Whether two step_seq values name a step in common. -/
def seqMeet (a b : Nat) : Bool := decide (a = b ∨ a = 0xFFFFFFFF ∨ b = 0xFFFFFFFF)

/-- Whether a member's STEP_ABORT has asked the keystone for this abort. -/
def asksAbort (c seq : Nat) (p : Pending) : Bool := match p.op with | .stepAbort _ k q => decide (k = c) && seqMeet q seq && p.data == [1] | _ => false

/-- An abort of a group context's step that takes effect at this tick on every member. `cause` is what the keystone knows of
it; whether another module's abort leaves a step to run again is free where this module does not know (log entry 26) (DEDUCED, log entry 58). -/
def noteAbort (s : State) (c seq : Nat) (cause : Option Nat) : State :=
  match ctxOf s c with
  | none => s
  | some x =>
    let hit (t : Step) : Bool := decide (seq = 0xFFFFFFFF) || decide (seqOf t = seq)
    let asked := s.host.ticking.any (asksAbort c seq)
    let s0 := if hasStep x seq || seq = 0xFFFFFFFF then { s with host := { s.host with ticking := s.host.ticking.map (fun p => if asksAbort c seq p then { p with data := [2] } else p) } } else s
    let s1 := abortQueued s0 c hit
    if !x.inFlight.toList.any hit then s1
    else
      let own := x.abortNext.filter (· != .group)
      let unknown := own.isEmpty && (match cause with | some k => decide (k = 1) | none => true)
      let soft := unknown && !asked && Config.keepsOffset s1.freeCount
      modCtx { s1 with freeCount := s1.freeCount + b2n unknown } c (fun x => { x with abortNext := own ++ (if soft then [.poisonTransient none] else []) ++ [.group] })

/-- The keystone gathers the aborts of this tick: those asked for, and its own (DESIGN CHOICE, log entry 26). -/
def keystoneAborts (s : State) : State :=
  let s1 := (groupSteps s).foldl (fun s e => match ctxOf s e.1 with
    | some x => if x.abortNext.isEmpty then s else askAbort s e.1 (seqOf e.2) 0
    | none => s) s
  let asks := s1.grp.abortAsk
  let s2 := asks.foldl (fun s a => announce s (frameNow s) (abortEntry a.1 a.2.1)) s1
  modGrp (asks.foldl (fun s a => noteAbort s a.1 a.2.1 (some a.2.2)) s2) (fun g => { g with abortAsk := [] })

/-- The entries of a kind that act at this tick. -/
def dueEntries (s : State) (kind : Nat) : List (List Byte) :=
  (s.grp.announced.filter (fun a => decide (a.frame = frameNow s) && decide (a.kind = kind))).map (·.entry)

/-- The aborts of a member: those of the TICK message's entries (DESIGN CHOICE, log entry 26). -/
def memberAborts (s : State) : State := (dueEntries s 2).foldl (fun s e => noteAbort s (fieldAt e 2 2) (fieldAt e 4 4) none) s

/-- The abort of one context at this tick. A member that has a cause of its own asks the keystone, and waits for its entry. -/
def abortDue (s : State) (c : Nat) : State :=
  match ctxOf s c with
  | none => s
  | some x =>
    match x.abortNext, x.inFlight with
    | [], _ => s
    | k :: _, some t =>
      if x.group && s.grp.state == .member && !x.abortNext.contains .group then
        sendAbort { s with freeCount := s.freeCount + 1 } c (seqOf t) (causeCode s.freeCount k)
      else
        let own := x.abortNext.filter (· != .group)
        abortStep (stopRun s c) c (if own.isEmpty then [.group] else own)
    | _, none => setCtx s c { x with abortNext := [] }

def abortTick (s : State) : State :=
  let s1 := if leads s then keystoneAborts s else memberAborts s
  (allCtxs s1).foldl (fun s e => abortDue s e.1) s1

/-! ### Changes that wait for a tick (R349) -/

/-- The frame settings that are due (R58); a member's timing stays the keystone's. A change of source ends an episode of lost ticks (R55) (DEDUCED, log entry 75). -/
def applyFrame (s : State) : State :=
  match s.frames.announced with
  | none => s
  | some (c, t) =>
    if s.frames.ticks < t then s
    else modFrames s (fun f =>
      { f with cfg := if s.grp.state == .member then { f.cfg with source := c.source, syncOutEn := c.syncOutEn } else c, announced := none
               syncLost := f.syncLost && decide (f.cfg.source = c.source), freeRun := f.freeRun && decide (f.cfg.source = c.source) })

/-- A group context's STEP_ABORT: the keystone sets ABORT for this tick; a member asks for it. None while the command waits. -/
def groupAbort (s : State) (p : Pending) (c seq : Nat) (x : Ctx) : Option State :=
  if !hasStep x seq then some (if p.data = [2] then finishDone s p.hdr p.op p.accepted 0 0 else finish s p.hdr p.op stWrongState 0 0)
  else if leads s then
    let s1 := announce s (frameNow s) (abortEntry c seq)
    let (s2, st) := applyStepAbort (stopRun s1 c) c seq
    some (if st = stDone then finishDone s2 p.hdr p.op p.accepted 0 0 else finish s2 p.hdr p.op st 0 0)
  else none

/-- A change at its tick and its reply; none where it still waits. -/
def applyChange (s : State) (p : Pending) : Option State :=
  let h := p.hdr
  let done (s : State) (r r2 : Nat) : Option State := some (finishDone s h p.op p.accepted r r2)
  match p.op with
  | .powerCapSet _ cap => done (modPower s (fun w => { w with cap := cap })) cap 0
  | .powerPrioritySet _ a b c => done (applyPriority s a b c) 0 0
  | .traceConfig _ e r n => done (applyTrace s e r n) 0 0
  | .hangPolicySet _ a => done (modHealth s (fun x => { x with policy := a })) 0 0
  | .frameConfig _ _ => done s 0 0
  | .rangeAttr _ i e => done (applyRange s i e) 0 0
  | .kvPagesMap _ c op spill _ _ =>
    let (s1, st, n) := applyKvPages s c op spill p.data
    if st = stDone then done s1 n 0 else some (finish s1 h p.op st n 0)
  | .tableLoad _ c r => done (modSlot s c (recordSlot r) writeSlot) (recordTable r).generation (p.data.headD 0)
  | .tableActivate _ c slot frame => done (modSlot s c slot turnSlot) frame 0
  | .ctxCreate _ q => let c := p.data.headD 0; done (applyCtxCreate s h q c) c 0
  | .ctxPin _ c pin => let (s1, n) := applyPin s c pin; done s1 n 0
  | .schedUnload _ c bank =>
    match ctxOf s c with
    | some x => if unloadable x bank then done (applyUnload s c bank) 0 0 else some (finish s h p.op stWrongState 0 0)
    | none => some (finish s h p.op stWrongState 0 0)
  | .partCreate _ q keep m0 m1 mc mq => done (applyPartCreate s q keep m0 m1 mc mq) 0 0
  | .stepAbort _ c seq =>
    match ctxOf s c with
    | some x =>
      if x.group && grouped s then groupAbort s p c seq x
      else
        let (s1, st) := applyStepAbort s c seq
        if st = stDone then done s1 0 0 else some (finish s1 h p.op st 0 0)
    | none => some (finish s h p.op stWrongState 0 0)
  | .groupLeave _ => if leads s then none else done (standAlone s) 0 0
  | .memberExclude _ _ => none
  | _ => done s 0 0

/-- Code tables change before the residency decisions, as Table 2-1 orders; the other changes follow. -/
def tableChange : Instr → Bool
  | .tableLoad _ _ _ => true
  | .tableActivate _ _ _ _ => true
  | _ => false

/-- Applies the changes that are due among those that a test names. A member's STEP_ABORT asks the keystone once, and is
answered when the step has ended with an abort. -/
def applyDue (s : State) (f : Instr → Bool) : State :=
  s.host.ticking.foldl (fun s p =>
    if !f p.op || decide (s.frames.ticks < p.atTick) then s
    else
      let s1 := { s with host := { s.host with ticking := s.host.ticking.erase p } }
      match applyChange s1 p with
      | some t => t
      | none =>
        match p.op with
        | .stepAbort _ c seq => if p.data.isEmpty then sendAbort { s1 with freeCount := s1.freeCount + 1, host := { s1.host with ticking := s1.host.ticking ++ [{ p with data := [1] }] } } c seq (Config.pick s1.freeCount % 65536) else s
        | _ => s) s

/-! ### Group membership at a tick (R300, R306, R358) -/

/-- Ends the commands that wait for a change of membership. -/
def endGroupCmds (s : State) (f : Instr → Bool) : State :=
  (s.host.ticking.filter (fun p => f p.op)).foldl (fun s p =>
    finishDone { s with host := { s.host with ticking := s.host.ticking.erase p } } p.hdr p.op p.accepted 0 0) s

/-- The start tick of a formation or of a rejoin on this module: keystone or member, with the descriptor's tick source, and
GROUP_FORM completes (DEDUCED, log entry 57). -/
def startGroup (s : State) (epoch : Nat) : State :=
  let g := s.grp
  match g.form with
  | none => s
  | some f =>
    let lead := decide (g.keystoneRank = f.rank)
    let s1 : State := { s with
      grp := { g with state := if lead then .keystone else .member, size := f.size, rank := f.rank, epoch := epoch, members := List.range f.size, lost := [], excluded := []
                      startFrame := none, runnable := [], missed := [], beat := [], lateRanks := [], overrunRanks := [], overflow := [], abortAsk := [], abortSent := [], runNow := none }
      frames := { s.frames with syncLost := false, freeRun := false, cfg := { s.frames.cfg with source := if lead then 0 else f.source } } }
    let s2 := modGrp s1 (fun g => { g with treeDepth := depthOf s1 })
    match g.formHdr with
    | none => s2
    | some h => setLongReply (modGrp s2 (fun g => { g with formHdr := none })) (fun l => l.hdr == h) (doneStatus s2 g.formAccepted) 0 0

/-- A rank leaves the group for good. -/
def excludeRank (s : State) (r : Nat) : State :=
  if s.grp.state ≠ .keystone ∧ s.grp.rank = r then standAlone s
  else
    let s1 := modGrp s (fun g =>
      { g with members := g.members.filter (· != r), lost := g.lost.filter (· != r), excluded := if g.excluded.contains r then g.excluded else g.excluded ++ [r]
               waiting := g.waiting.filter (· != r) })
    blockSpans (modGrp s1 (fun g => { g with treeDepth := depthOf s1 }))

/-- A MEMBERSHIP entry that acts at this tick. -/
def obeyMembership (s : State) (e : List Byte) : State :=
  let r := fieldAt e 2 1
  let epoch := fieldAt e 10 2
  match fieldAt e 1 1 with
  | 0 => if s.grp.startFrame.isSome then startGroup s epoch else s
  | 1 =>
    if decide (r = s.grp.rank) && (s.grp.state == .lost || s.grp.state == .joining || s.grp.state == .member) then
      let s1 := if s.grp.state = .joining then startGroup s epoch else s
      modFrames (modGrp s1 (fun g => { g with state := .member, epoch := epoch, abortSent := [], runNow := none })) (fun f => { f with syncLost := false, freeRun := false })
    else modGrp s (fun g => { g with lost := g.lost.filter (· != r), epoch := epoch, missed := mset 0 g.missed r 0 })
  | 2 => endGroupCmds (excludeRank s r) (fun i => match i with | .memberExclude _ k => k == r | _ => false)
  | _ => if grouped s then endGroupCmds (standAlone s) (fun i => match i with | .groupLeave _ => true | _ => false) else s

/-- Whether a MEMBERSHIP entry lets this module adopt the keystone's counter at a frame (R300 step 5, R306). -/
def adopts (s : State) (frame : Nat) : Bool :=
  s.grp.announced.any (fun a => decide (a.frame = frame) && decide (a.kind = 4) &&
    ((decide (fieldAt a.entry 1 1 = 0) && s.grp.startFrame.isSome) || (decide (fieldAt a.entry 1 1 = 1) && decide (fieldAt a.entry 2 1 = s.grp.rank) && (s.grp.state == .lost || s.grp.state == .joining || s.grp.state == .member))))

/-! ### The group command gate (R446) -/

/-- Opcodes of gated commands (R447). -/
def gatedOp (i : Instr) : Bool :=
  let op := opcodeOf i
  (commandOf i).isSome && !(decide (op / 256 = 0) || decide (op / 256 = 0x0A) || decide (op ∈ [0x0505, 0x0901, 0x0405, 0x0406, 0x0703, 0x0704, 0x0902]))

/-- The first gated command that waits for its start. -/
def nextGated (s : State) : Option CmdHdr := (s.host.started.find? gatedOp).bind (fun i => (commandOf i).map (·.2))

/-- The keystone's part of the gate at a tick: setting, clearing, and the next grant once every member is done (DEDUCED, log entry 59). -/
def gateTick (s : State) : State :=
  let g := s.grp
  if !leads s then s
  else if g.gateEnabled && (g.gateNext == some false || decide (g.members.length < 16)) then
    announce (modGrp s (fun g => { g with gateEnabled := false, gateNext := none, grantsLeft := 0, waiting := [] })) (frameNow s) (gateEntry 2 0)
  else if g.gateNext = some true then announce (modGrp s (fun g => { g with gateEnabled := true, gateNext := none })) (frameNow s) (gateEntry 0 g.grantsLeft)
  else if g.gateEnabled && decide (0 < g.grantsLeft) && g.waiting.isEmpty && grantDone s then
    announce (modGrp s (fun g => { g with grantsLeft := g.grantsLeft - 1, waiting := g.members.filter (fun r => r != g.rank && !g.lost.contains r) }))
      (frameNow s) (gateEntry 1 (g.grantsLeft - 1))
  else s

/-- A GATE entry that acts at this tick. -/
def obeyGate (s : State) (e : List Byte) : State :=
  match fieldAt e 1 1 with
  | 0 => modGrp s (fun g => { g with gateMember := true, grantHdr := none })
  | 1 => modGrp s (fun g => { g with grantHdr := nextGated s })
  | _ => modGrp s (fun g => { g with gateMember := false, grantHdr := none })

/-- A CONFIG entry that acts at this tick: the keystone's timing, beside the module's own source (R58, R300). The keystone has its own
settings, and a module outside the group obeys none but those of the tick at which it comes in. -/
def obeyConfig (s : State) (e : List Byte) : State :=
  if sendsTicks s || !(s.grp.state == .member || adopts s (frameNow s)) then s
  else modFrames s (fun f => { f with cfg := { f.cfg with periodUs := fieldAt e 1 1, quantumUs := fieldAt e 2 1, maxQuanta := fieldAt e 3 1, lateLead := fieldAt e 4 1 } })

/-! ### Residency in a group (R261) -/

/-- The keystone announces that the running group context's next step runs (DEDUCED, log entry 59). -/
def announceRun (s : State) : State :=
  match s.residency.current with
  | none => s
  | some c => match ctxOf s c with
    | none => s
    | some x =>
      if leads s && x.group && decide (1 < s.grp.size) && decide (s.residency.switchStep = 0) && runnable s c x && s.grp.runNow != some c then announceCtx s 0 c else s

/-- A RESIDENCY entry that acts at this tick: a run of the context on the cells, or a decision that the member obeys (DEDUCED, log entry 59). -/
def obeyRun (s : State) (e : List Byte) : State :=
  let c := fieldAt e 2 2
  if decide (fieldAt e 1 1 = 0) && s.residency.current == some c && decide (s.residency.switchStep = 0) then modGrp s (fun g => { g with runNow := some c })
  else obeyResidency s (fieldAt e 1 1) c

/-! ### Issue of a row (R35 action 5, R44, R48, R184, R277, R290) -/

/-- The first row of a step that has not begun: its bucket's in the active image (R43); a bucket that this image lacks has no row, and its
fetch fails (DEDUCED, log entry 73). -/
def headRow (x : Ctx) (t : Step) : Nat :=
  match findBucket (activeImage x) t.bucket with | some b => bucketFirstRow b | none => secLen (activeImage x) 1

/-- The row that comes next: its context, its index, and whether it is an overflow row that runs again. -/
def rowDue (s : State) : Option (Nat × Nat × Bool) :=
  match s.residency.current with
  | none => none
  | some c => match ctxOf s c with
    | none => none
    | some x =>
      let free := !(x.group && decide (1 < s.grp.size)) || s.grp.runNow == some c
      if !rowsRun s || !free then none
      else match x.inFlight with
        | some t =>
          if 0 < t.overflowLeft then some (c, t.firstRow + t.row - 1, true)
          else if t.row < t.rowCount then some (c, t.firstRow + t.row, false) else none
        | none => match x.queue with
          | t :: _ => if x.state == .resident && ableHere x && unitsReady s c && (!x.group || grouped s) then some (c, headRow x t, false) else none
          | [] => none

/-- A tile entry: the cell starts its tile, or after the end of an overrun tile (R48). A tile of another context ends what the
cell's resident regions held for the old one. -/
def issueTile (s : State) (c cell : Nat) : State :=
  modCell s cell (fun y =>
    let z := { y with residentTag := if y.residentTag = some c then y.residentTag else none }
    if y.active then { z with later := z.later ++ [y.nextTile] } else startTile z y.nextTile)

/-- A prefetch descriptor beyond the 64 that the queue holds is rejected; its post is still sent, and the step is aborted (R184, R188). The 64
are descriptors not yet admitted (DESIGN CHOICE, log entry 62). -/
def joinPrefetch (s : State) (e : Engine) (x : QDesc) : State :=
  if (engOf s e).prefetchQ.length < 64 then modEng s e (fun y => acceptDesc y .prefetch x)
  else
    let s1 := modEng (recordError s e .prefetch x stNoSpace 0 0) e (fun y => { y with ledger := { y.ledger with accepted := y.ledger.accepted + 1, failed := y.ledger.failed + 1 } })
    abortCtx (sendPost s1 e x) x.context .engine

/-- A descriptor list entry (R175). -/
def issueList (s : State) (l : Engine × List QDesc × List QDesc) : State :=
  l.2.2.foldl (fun s x => joinPrefetch s l.1 x) (modEng s l.1 (fun y => l.2.1.foldl (fun y x => acceptDesc y .list x) y))

/-- The port windows of a frame: weights 8, 2 and 6 and no narrowing without an entry. -/
def portWindow (ws : List (Nat × List Byte)) (p : Nat) (x : Port) : Port :=
  match ws.find? (fun e => e.1 == p) with
  | some (_, w) => { x with share := [], weights := [(0, fieldAt w 0 1 % 16), (1, fieldAt w 1 1 % 16), (2, fieldAt w 2 1 % 16)].filter (fun e => e.2 != 0), narrowPermitted := bit (fieldAt w 3 1) 0 }
  | none => { x with share := [], weights := [(0, 8), (1, 2), (2, 6)], narrowPermitted := false }

def portWindows (s : State) (ws : List (Nat × List Byte)) : State := (List.range 14).foldl (fun s p => modPort s p (portWindow ws p)) s

/-- Cells with a tile entry. -/
def tileCells (r : RowImg) (again : Bool) : List Nat := (r.entries.filter (fun e => entKind e == 7 || (entKind e == 1 && !again))).map entTarget

/-- The overflow of a row's layer: tokens, and the frames that one frame's capacity leaves to insert (R277). Which layer of the step's
bucket it is, and how many tokens the gating tiles wrote, is free (log entry 22). -/
def drawOverflow (s : State) (img : List Byte) (bucket : Nat) : Nat × Nat :=
  let sec := section_ img 5
  let caps := ((List.range (sec.length / 16)).filter (fun i => fieldAt sec (16 * i) 2 == bucket)).map (fun i => fieldAt sec (16 * i + 0xC) 4)
  let tokens := Config.overflowTokens s.freeCount
  if caps = [] then (0, 0) else (tokens, ceilDiv tokens (caps.getD (Config.overflowLayer s.freeCount % caps.length) 0) - 1)

/-- Overflow frames after a row whose slot is reserved: in a group the largest count, as the TICK gives it. -/
def overflowFrames (s : State) (x : Ctx) (info : Option TickInfo) : Nat :=
  if x.group && decide (1 < s.grp.size) then
    (if leads s then (s.grp.members.map (fun r => mget 0 s.grp.overflow r)).foldl max s.frames.overflowOwn
      else match info with | some i => i.overflow | none => s.frames.overflowOwn)
  else s.frames.overflowOwn

/-- The step in flight moves past the row it has issued. -/
def passRow (s : State) (c : Nat) (r : RowImg) (again : Bool) (info : Option TickInfo) : State :=
  match ctxOf s c with
  | none => s
  | some x =>
    match x.inFlight with
    | none => s
    | some t =>
      if again then setCtx s c { x with inFlight := some { t with overflowLeft := t.overflowLeft - 1 } }
      else
        let k := if bit r.flags 0 then overflowFrames s x info else 0
        let s1 := setCtx s c { x with inFlight := some { t with row := t.row + 1, overflowLeft := k, overflowFrames := t.overflowFrames + k } }
        let s2 := if k = 0 then s1 else account s1 c acOvFrames k
        let follows := match rowOf (activeImage x) c (r.index + 1) with | some q => bit q.flags 0 && decide (t.row + 1 < t.rowCount) | none => false
        if !follows then modFrames s2 (fun f => { f with overflowOwn := if bit r.flags 0 then 0 else f.overflowOwn })
        else
          let (tokens, n) := drawOverflow s2 (activeImage x) t.bucket
          modFrames (account { s2 with freeCount := s2.freeCount + 1 } c acOvTokens tokens) (fun f => { f with overflowOwn := n })

/-- Issues a row that was fetched. -/
def issueRow (s : State) (c : Nat) (r : RowImg) (again : Bool) (info : Option TickInfo) : State :=
  let cells := tileCells r again
  let s1 := cells.foldl (fun s cell => countOp (issueTile s c cell) (cell / 16) 31 1) s
  let s2 := account s1 c acCellFrames cells.length
  let s3 := if again then s2 else
    let (img, step) := match ctxOf s c with | some x => (activeImage x, match x.inFlight with | some t => t.id | none => 0) | none => ([], 0)
    (r.entries.filter (fun e => entKind e == 5)).foldl (fun s e => admitList s (entTarget e) c step ((section_ img 6).drop (entOffset e))) (r.lists.foldl issueList s2)
  passRow (portWindows { s3 with frames := { s3.frames with running := some r } } (if again then [] else r.windows)) c r again info

/-- A frame without a row (DEDUCED, log entry 40). -/
def idleFrame (s : State) : State := portWindows { s with frames := { s.frames with running := none } } []

/-- The first row of a step at a tick, or its next row (R471, R273). A row that has not been fetched leaves the frame idle; a
first row whose fetch failed begins its step and aborts it (R44). -/
def startRow (s : State) (info : Option TickInfo) : State :=
  match rowDue s with
  | none => idleFrame s
  | some (c, i, again) =>
    let begun := match ctxOf s c with | some x => x.inFlight.isSome | none => false
    if !begun && s.frames.fetchBad then abortCtx (startStep (idleFrame s) c) c .rowFetch
    else
      match s.frames.fetched with
      | none => idleFrame s
      | some r =>
        if r.context ≠ c ∨ r.index ≠ i then idleFrame s
        else
          let s1 := if begun then s else startStep s c
          match (ctxOf s1 c).bind (·.inFlight) with
          | some _ => issueRow s1 c r again info
          | none => idleFrame s1

/-- The budget of the row that this tick issues; none for an idle frame (DEDUCED, log entry 40). -/
def dueBudget (s : State) : Option Nat :=
  match rowDue s, s.frames.fetched with
  | some (c, i, _), some r => if r.context = c ∧ r.index = i then some r.budget else none
  | _, _ => none

/-! ### The tick (Table 2-1) -/

/-- The overrun of the frame that ends (R48): the counter, the run, catch-up. -/
def overrunTick (s : State) (exceeds : Bool) : State :=
  modFrames s (fun f => { f with
    overrun := exceeds, overrunRun := if exceeds then f.overrunRun + 1 else 0, overrunCnt := f.overrunCnt + b2n exceeds, catchUp := f.catchUp || exceeds })

/-- Action 1: the counter, and the state of the new frame. An announced entry names the keystone's frames: a module outside the group's
numbering acts on none but with the tick at which it adopts them (DEDUCED, log entries 32, 57 and 75). -/
def beginFrame (s : State) (at_ : Nat) (info : Option TickInfo) (accepted : Bool) : State :=
  let f := s.frames
  let jump := match info with | some i => if adopts s i.frame then some i.frame else none | none => none
  let outside := jump.isNone && (s.grp.state == .lost || s.grp.state == .joining) && !sendsTicks s
  { s with
    now := max s.now at_
    frames := { f with
      counter := (match jump with | some n => BitVec.ofNat 48 n | none => f.counter + 1), ticks := f.ticks + 1, lastTick := at_, stretch := 0, late := false, droopStep := false
      checks := 0, checked := false, freeRun := decide (tickSource s ≠ 0) && !accepted
      syncLost := f.syncLost && !(accepted && (s.grp.state == .standalone || s.grp.state == .joining))
      lateMark := if f.overrun then some (f.ticks + 1) else f.lateMark }
    grp := { s.grp with lateRanks := [], announced := if outside then s.grp.announced.filter (fun a => a.frame != (f.counter + 1).toNat) else s.grp.announced } }

/-- The plan of the new frame: its period, and the quanta that an overrun in the group asks for from the start (R48). -/
def planFrame (s : State) (at_ : Nat) (info : Option TickInfo) : State :=
  let c := s.frames.cfg
  let n := if tickSource s = 0 then (if anyOverrun s then c.maxQuanta else 0) else match info with | some i => i.stretch | none => 0
  modFrames s (fun f => { f with
    planned := at_ + periodNs c + quantaNs c n, stretch := n, stretchCnt := f.stretchCnt + n, lateMark := if n = 0 then f.lateMark else some f.ticks })

/-- Members whose heartbeat has not come since the last tick (R303). -/
def countMissed (s : State) : State :=
  if !leads s then s
  else modGrp s (fun g =>
    { g with missed := (g.members.filter (fun r => r != g.rank && !g.lost.contains r)).foldl (fun m r => if mget false g.beat r then mset 0 m r 0 else madd m r 1) g.missed, beat := [] })

/-- Ranks that this tick shows to be lost: those that the keystone's own operations wait for, and those out of reach. -/
def loseUnreached (s : State) : State :=
  if !leads s then s
  else
    let ok := reached s ++ hopeful s
    (timedOutRanks s ++ s.grp.members.filter (fun r => r != s.grp.rank && !ok.contains r)).foldl loseRank s

/-- What the TICK of this tick says. -/
def ownInfo (s : State) (x : Option Ctx) : TickInfo :=
  { frame := frameNow s, stretch := s.frames.stretch
    overflow := (match x with | some x => (match x.inFlight with | some t => (if x.group then t.overflowLeft else 0) | none => 0) | none => 0)
    ends := (dueEntries s 4).any (fun e => decide (fieldAt e 1 1 = 3)) }

/-- The settings that will hold at a frame, as far as they are announced. -/
def cfgAt (s : State) (frame : Nat) : FrameCfg :=
  match s.frames.announced with
  | some (c, t) => if t - s.frames.ticks ≤ (frame + 2 ^ 48 - frameNow s) % 2 ^ 48 then c else s.frames.cfg
  | none => s.frames.cfg

/-- The entries of the keystone's TICK: those that are due or announced. A CONFIG entry carries the settings that will hold at its frame
(R58), whatever announced it. -/
def tickEntries (s : State) : List (List Byte) :=
  let l := s.grp.announced.map (fun a => if a.kind = 1 then configEntry (cfgAt s a.frame) a.frame else a.entry)
  let own := match s.frames.announced with | some (c, t) => [configEntry c (frameIn s (t - s.frames.ticks))] | none => []
  (l ++ own).eraseDups

/-- Action 6: the keystone's TICK with every entry that is due or announced, or a member's heartbeat. -/
def groupSend (s : State) (wasLate : Bool) : State :=
  let s1 := if s.grp.state = .standalone then s else tellReach s
  if sendsTicks s1 then sendTick s1 (ownInfo s1 (runningCtx s1)) (tickEntries s1)
  else if s1.grp.state = .member ∧ mget 0 s1.health.dieState 0 = 0 then sendHeartbeat s1 wasLate
  else s1

/-- The entries of this tick have acted. -/
def dropDue (s : State) : State := modGrp s (fun g => { g with announced := g.announced.filter (fun a => a.frame != frameNow s), tickInfo := none })

/-- Tables of the host interface that take force at a tick (R331, R343). -/
def forceTables (s : State) : State :=
  { s with host := { s.host with
      winNow := s.host.windows.filter (fun e => bit e.2.flags.toNat 0)
      exposures := s.host.exposures.map (fun e => (e.1, { e.2 with inForce := expValid e.2 && !e.2.closing })) } }

/-- The counters of Table 12-10 as this tick leaves them. -/
def snapAccounts (s : State) : State :=
  { s with
    ctxs := s.ctxs.map (fun e => (e.1, e.2.map (fun x => { x with acctTick := x.acct })))
    parts := s.parts.map (fun e => (e.1, { e.2 with acctTick := e.2.acct })) }

/-- Actions 1 and 2: counters and flags of the frame that ends, commit and abort, and the bank switches. -/
def tickBanks (s : State) (at_ : Nat) (info : Option TickInfo) (accepted : Bool) : State :=
  let done := frameComplete s
  let s1 := beginFrame (overrunTick (countFlags (latchTraining s)) (!done)) at_ info accepted
  let s2 := abortTick (commitTick s1 done)
  let s3 := (allCtxs s2).foldl (fun s e => switchBank s e.1) s2
  applyDue s3 tableChange

/-- Action 3 and the other changes that wait for a tick. -/
def tickDecide (s : State) : State :=
  let s0 := applyFrame (applyCfg (applyDue s (fun i => !tableChange i)))
  let s1 := (dueEntries s0 1).foldl obeyConfig s0
  let s2 := endRecovery (hangStage s1)
  let s3 := announceRun (residencyTick (forceTables s2))
  let s4 := (dueEntries s3 3).foldl obeyRun s3
  let s5 := (dueEntries s4 4).foldl obeyMembership s4
  let s6 := gateTick s5
  let s7 := (dueEntries s6 5).foldl obeyGate s6
  match s7.grp.runNow with | some c => if rowsRun s7 then s7 else stopRun s7 c | none => s7

/-- The whole tick; the page tables in the control ranges follow what it has changed (R260). `info` is what a TICK message says of it, `accepted` whether it is an edge or a message that R54 accepts. -/
def applyTick (s : State) (at_ : Nat) (info : Option TickInfo) (accepted : Bool) : State :=
  let ran := s.frames.running.isSome
  let wasLate := s.frames.late
  let ns := at_ - s.frames.lastTick
  let s1 := planFrame (tickDecide (tickBanks s at_ info accepted)) at_ info
  let s2 := if s1.power.lineLow && !s1.power.brakePin then beginBrake s1 true s1.power.brakeUv else s1
  let permit (p : Nat) : Bool := match s2.frames.fetched with | some r => r.windows.any (fun w => w.1 == p && bit (fieldAt w.2 3 1) 0) | none => false
  let s3 := beginRetrains (retryPorts (scheduledRetrains (powerTick s2 at_ ns (dueBudget s2) permit)))
  let s4 := snapAccounts (publishTotals (watchTick s3) ran)
  let s5 := startRow s4 info
  let s6 := modFrames s5 (fun f => { f with fetched := none, fetchBad := false })
  let s7 := if s6.frames.cfg.syncOutEn then { s6 with mgmt := { s6.mgmt with syncOutPulses := s6.mgmt.syncOutPulses + 1 } } else s6
  let s8 := (allCtxs s7).foldl (fun s e => storePages s e.1) (resumeColls s7)
  dropDue (groupSend (loseUnreached (countMissed s8)) wasLate)

/-! ### The steps of the frame family -/

/-- TICK: the frame timer. A module that times its own frames ends the frame at the planned tick, or stretches it while a
report of this plan or an overrun stands (R47, R48); a module that has lost its ticks runs free at its period (R55) (DEDUCED, log entry 75). -/
def execTick (at_ : Nat) (s : State) : Host.Outcome State Fault Refusal :=
  let f := s.frames
  let s0 := { s with now := max s.now at_ }
  if !ticking s then .next s0
  else if tickSource s = 0 then
    if at_ < f.planned then .next s0
    else if (!s.grp.lateRanks.isEmpty || anyOverrun s) && decide (f.stretch < f.cfg.maxQuanta) then .next (stretchFrame s0 at_)
    else .next (applyTick s at_ none false)
  else if f.freeRun && decide (f.lastTick + periodNs f.cfg ≤ at_) then .next (applyTick s at_ none false)
  else .next s0

/-- OVERRUN_ABORT: after 16 consecutive ticks in overrun, its own or a member's, the step is aborted at the next tick (DEDUCED, log entry 75). -/
def execOverrunAbort (s : State) : Host.Outcome State Fault Refusal :=
  if isKeystone s && (decide (16 ≤ s.frames.overrunRun) || s.grp.overrunRanks.any (fun e => decide (16 ≤ e.2))) then .next (abortRunning s .overrun) else .next s

/-- CHECK_POINT: one check for each plan, one late lead before its tick. -/
def execCheckPoint (at_ : Nat) (s : State) : Host.Outcome State Fault Refusal :=
  let s0 := { s with now := max s.now at_ }
  if ticking s && !s.frames.checked && decide (checkAt s ≤ at_) then .next (checkNow s0) else .next s0

/-- Whether a tick that arrives from outside is at least the minimum frame after the last one (R54). -/
def inTime (s : State) (at_ : Nat) : Bool := decide (s.frames.lastTick + minFrameNs s.frames.cfg ≤ at_)

/-- A member loses its keystone (R305), or finds that its counter differs from the TICK's (R57): it aborts the steps of its group contexts at its
next tick and is LOST, with its own counter (DEDUCED, log entry 57). -/
def loseKeystone (s : State) : State :=
  if s.grp.state ≠ .member then s
  else modGrp ((groupSteps s).foldl (fun s e => abortCtx s e.1 .memberLost) s) (fun g => { g with state := .lost })

/-- SYNC_IN_EDGE: a pulse below 20 ns is no edge; a module that takes its ticks elsewhere does not look at the pin (DEDUCED, log entry 75). -/
def execSyncInEdge (at_ highNs : Nat) (s : State) : Host.Outcome State Fault Refusal :=
  let s0 := { s with now := max s.now at_ }
  if !ticking s || decide (tickSource s ≠ 2) || decide (highNs < 20) then .next s0
  else if inTime s at_ then
    let s1 := applyTick s at_ (s.grp.tickInfo.filter (fun i => decide (i.frame = frameIn s 1))) true
    .next (if s.grp.tickInfo.any (fun i => decide (i.frame ≠ frameNow s1)) then loseKeystone s1 else s1)
  else .next (modFrames s0 (fun f => { f with syncOverrunCnt := f.syncOverrunCnt + 1 }))

/-- SYNC_LOST: no tick for 1.5 periods; an internal tick, and free running from then on (DEDUCED, log entry 75). -/
def execSyncLost (at_ : Nat) (s : State) : Host.Outcome State Fault Refusal :=
  let f := s.frames
  let s0 := { s with now := max s.now at_ }
  if !ticking s || decide (tickSource s = 0) || f.freeRun || decide (2 * at_ < 2 * f.lastTick + 3 * periodNs f.cfg) then .next s0
  else
    let s1 := modFrames s0 (fun f => { f with syncLost := true, syncLostCnt := f.syncLostCnt + b2n (!f.syncLost) })
    let s2 := if f.syncLost then s1 else raiseEvent s1 0 0x8002 8 0xFFFF []
    .next (applyTick (loseKeystone s2) at_ none false)

/-! ### ROW_FETCH (R44, R90, R174, R175) -/

/-- Writes what Umango has put into a descriptor area before the fetch. -/
def writeArea (s : State) (x : Ctx) (w : List (Nat × List Byte)) : State :=
  let act : Actor := { owner := x.partition, cluster := 0, self := none, context := 0xFFFF }
  w.foldl (fun s e => (putPiece act (descBase x + e.1) { state := s } { off := 0, data := e.2, poison := false }).state) s

/-- Bytes of the active image as they stand in the control range (R260); none where they return poison (R44). A context without a control range
has no copy but the bank's own. -/
def bankRead (s : State) (x : Ctx) (off n : Nat) : Option (List Byte) :=
  if (controlEntry x).isNone then some (bytesAt (activeImage x) off n)
  else
    let a := bankBase x x.activeB + off
    if objReadable s x.partition a n && !peekPoison s x.partition a n then some (peekObj s x.partition a n) else none

/-- The operation words of the tile at an offset of section 0; none where its ops_crc fails or it returns poison (R90). -/
def fetchTile (s : State) (x : Ctx) (off : Nat) : Option (List (BitVec 64)) :=
  let o := secOff (activeImage x) 0 + off
  (bankRead s x o 16).bind (fun h =>
    let n := fieldAt h 0 2
    (bankRead s x (o + 16) (8 * n)).bind (fun ops =>
      if crc32c ops = fieldAt h 8 4 then some ((List.range n).map (fun j => BitVec.ofNat 64 (fieldAt ops (8 * j) 8))) else none))

/-- The tile that a cell needs for its entry, with its offset: a cell that holds the tile of this context, image and offset fetches nothing
(R90). -/
def cellTile (s : State) (c : Nat) (x : Ctx) (e : Nat) : Option (Nat × Nat × List (BitVec 64)) :=
  let y := cellOf s (entTarget e)
  let gen := match activeBank x with | some b => b.generation | none => 0
  if y.tileAt = some (c, gen, entOffset e) ∧ y.later = [] then some (entTarget e, entOffset e, y.tile)
  else (fetchTile s x (entOffset e)).map (fun w => (entTarget e, entOffset e, w))

/-- The descriptors of a list's bytes, for a step of a context. -/
def listDescs (c step : Nat) (raw : List Byte) (from_ n : Nat) : List QDesc :=
  (upto from_ n).map (fun k => { raw := (raw.drop (16 + 64 * k)).take 64, generation := fieldAt raw 8 4, context := c, step := step, tile := 0, misaligned := false })

/-- The engine of a list entry. -/
def entEngine (e : Nat) : Engine := match entKind e with | 2 => .mover (entTarget e) | 3 => .gather (entTarget e) | _ => .packer (entTarget e)

/-- A list that is read and checked in the order of R175; none where a check fails or its bytes are poisoned. One that does not start on a 128 B
boundary (R174) is fetched as it stands, as no check names it (DESIGN CHOICE, log entry 62). -/
def fetchList (s : State) (c : Nat) (x : Ctx) (step e : Nat) : Option (Engine × List QDesc × List QDesc) :=
  let a := descBase x + entOffset e
  let hd := peekObj s x.partition a 16
  let n := fieldAt hd 0 2
  let p := fieldAt hd 2 2
  let size := 16 + 64 * (n + p)
  if !objReadable s x.partition a 16 || peekPoison s x.partition a 16 || decide (1024 < n) || decide (64 < p) || (decide (entKind e ≠ 3) && decide (p ≠ 0)) || decide (fieldAt hd 4 4 ≠ 0) || decide (descBytes x < entOffset e + size) then none
  else
    let raw := peekObj s x.partition a size
    if !objReadable s x.partition a size || peekPoison s x.partition a size || decide (crc32c (raw.take 12 ++ raw.drop 16) ≠ fieldAt raw 12 4) then none
    else some (entEngine e, listDescs c step raw 0 n, listDescs c step raw n p)

/-- A port window record. -/
def fetchWindow (s : State) (x : Ctx) (e : Nat) : Option (Nat × List Byte) :=
  let a := descBase x + entOffset e
  if !objReadable s x.partition a 16 || peekPoison s x.partition a 16 || decide (descBytes x < entOffset e + 16) then none else some (entTarget e, peekObj s x.partition a 16)

/-- Collects results, none where one of them is none. -/
def allSome {α : Type} : List (Option α) → Option (List α)
  | [] => some []
  | none :: _ => none
  | some a :: t => (allSome t).map (a :: ·)

/-- Row `i` of the active image as it stands in the control range; none where it ends before it, fails its CRC or returns poison (R44). -/
def bankRow (s : State) (c : Nat) (x : Ctx) (i : Nat) : Option RowImg :=
  let img := activeImage x
  match rowOf img c i with
  | none => none
  | some _ =>
    let o := secOff img 1 + ((section_ img 1).length - (rowsFrom (section_ img 1) i).length)
    (bankRead s x o 32).bind (fun h =>
      (bankRead s x o (32 + 8 * fieldAt h 8 2)).bind (fun row =>
        if crc32c (rowCrcBytes row) = fieldAt row 0x1C 4 then
          some { context := c, index := i, budget := fieldAt row 4 4, flags := fieldAt row 0xA 2, entries := rowEntries row }
        else none))

/-- What ROW_FETCH brings: the row with its lists and windows, for a step, and each cell's tile. -/
def fetchRow (s : State) (c : Nat) (x : Ctx) (step i : Nat) : Option (RowImg × List (Nat × Nat × List (BitVec 64))) :=
  match bankRow s c x i with
  | none => none
  | some r =>
    let of_ (f : Nat → Bool) : List Nat := r.entries.filter (fun e => f (entKind e))
    match allSome ((of_ (fun k => k == 1 || k == 7)).map (cellTile s c x)), allSome ((of_ (fun k => k == 2 || k == 3 || k == 4)).map (fetchList s c x step)),
      allSome ((of_ (· == 6)).map (fetchWindow s x)) with
    | some ts, some ls, some ws => some ({ r with lists := ls, windows := ws }, ts)
    | _, _, _ => none

/-- Puts the tiles of the next row into the inactive halves of the cells' buffers (R90). -/
def placeTiles (s : State) (c gen : Nat) (ts : List (Nat × Nat × List (BitVec 64))) : State :=
  ts.foldl (fun s e => modCell s e.1 (fun y => { y with nextTile := e.2.2, nextAt := some (c, gen, e.2.1) })) s

/-- The row that the coming tick is to issue: the next of the step in flight, or the first of the step at the queue's head. -/
def fetchTarget (x : Ctx) : Option (Nat × Bool) :=
  let first (l : List Step) : Option (Nat × Bool) := match l with | t :: _ => some (headRow x t, false) | [] => none
  match x.inFlight with
  | some t => if 0 < t.overflowLeft then some (t.firstRow + t.row - 1, true) else if t.row < t.rowCount then some (t.firstRow + t.row, true) else first x.queue
  | none => first x.queue

/-- The number of the step whose row that is. -/
def fetchStep (x : Ctx) : Nat :=
  let first (l : List Step) : Nat := match l with | t :: _ => t.id | [] => 0
  match x.inFlight with
  | some t => if 0 < t.overflowLeft ∨ t.row < t.rowCount then t.id else first x.queue
  | none => first x.queue

/-- The context whose rows the coming tick may issue: the running one, or the one that is to take the empty cells (DEDUCED, log entry 39). -/
def fetchCtx (s : State) : Option Nat :=
  match s.residency.current with
  | some c => some c
  | none => if s.residency.switchStep = 0 then (bestRunnable s).map (·.1) else none

/-- A fetch that fails aborts the step (R44). -/
def fetchFails (s : State) (c : Nat) (begun : Bool) : State :=
  let s1 := modFrames s (fun f => { f with rowFetchErrors := f.rowFetchErrors + 1, fetched := none, fetchBad := !begun })
  if begun then abortCtx s1 c .rowFetch else s1

/-- Whether an address lies in the half of a training target that is not active. -/
def inactiveHalf (x : Ctx) (a : Nat) : Bool :=
  (targetsOf (activeImage x)).any (fun t => let h := if x.targetHalf then t.half0 else t.half1; decide (h ≤ a ∧ a < h + halfBytesOf t))

/-- What Umango observes when it builds the lists of a slot-table entry, looked at in the descriptors that lie in what it has just written: a
list streams a target from its active half (R139), and a page list names pages of the entry's phase set alone (R275). Which descriptors
serve the units of a mask the spec does not say (R134) (DEDUCED, log entry 62). -/
def listBuilt (s : State) (x : Ctx) (written : List (Nat × List Byte)) (e : Nat) (l : List QDesc) : Bool :=
  let covered (o n : Nat) : Bool := written.any (fun w => decide (w.1 ≤ o ∧ o + n ≤ w.1 + w.2.length))
  let pageOk (v : Nat) : Bool := bit v 63 || x.pages.any (fun g => g.mapped && g.frame == v % 2 ^ 48 && g.phaseSet == entPhase e && g.state != .free)
  l.zipIdx.all (fun q =>
    let d := plainDesc q.1.raw
    !covered (entOffset e + 16 + 64 * q.2) 64 || (!inactiveHalf x d.src
      && (d.op != 2 || (List.range d.count).all (fun k =>
        let a := d.list + 8 * k
        !(decide (descBase x ≤ a) && covered (a - descBase x) 8) || pageOk (leNat (peekObj s x.partition a 8))))))

/-- ROW_FETCH: `written` is what Umango has written into the context's descriptor area since the last fetch, by offset. Lists that Umango does
not build so are no such command's operand. -/
def execRowFetch (written : List (Nat × List Byte)) (s : State) : Host.Outcome State Fault Refusal :=
  if !ticking s then .next s
  else match fetchCtx s with
  | none => .next s
  | some c => match ctxOf s c with
    | none => .next s
    | some x =>
      if written.any (fun e => decide (descBytes x < e.1 + e.2.length)) then .refused (.noSuchUnit "descriptor area")
      else
        let s1 := writeArea s x written
        match fetchTarget x with
        | none => .next s1
        | some (i, begun) =>
          match fetchRow s1 c x (fetchStep x) i with
          | none => .next (fetchFails s1 c begun)
          | some (r, ts) =>
            let named := r.entries.filter (fun e => entKind e == 2 || entKind e == 3)
            let all_ (e : Nat) : List QDesc := (r.lists.filter (fun l => l.1 == entEngine e)).flatMap (fun l => l.2.1 ++ l.2.2)
            if !named.all (fun e => listBuilt s1 x written e (all_ e)) then .refused (.noSuchUnit "descriptor list")
            else .next (modFrames (placeTiles s1 c (match activeBank x with | some b => b.generation | none => 0) ts) (fun f => { f with fetched := some r, fetchBad := false }))

end Sys2Proof.Machine
end

