-- ==== Sys2Proof/Machine/Group.lean ====
section
/-! DEFINITION. Machine/Group.lean: formation, loss, rejoin and end of a group (R300 to R306, R358), and the control messages
that arrive (R298, R301, R302, Tables 13-14 and 13-15). -/

namespace Sys2Proof.Machine

open Sys2Proof

/-! ### GROUP_FORM, GROUP_LEAVE, MEMBER_EXCLUDE -/

/-- The candidate ranks of a descriptor. -/
def candidates (p : GroupFormParams) : List Nat := p.keystoneOrder.filter (· != 0xFF)

/-- The field checks of Table 15-12. -/
def formFields (p : GroupFormParams) : List Check :=
  [need (decide (1 ≤ p.size ∧ p.size ≤ 64)) stParamRange 0x24, need (decide (p.rank < p.size)) stParamRange 0x25,
    need (decide (p.source = 1 ∨ p.source = 2)) stParamRange 0x27,
    need ((candidates p).all (fun r => decide (r < p.size)) && !(candidates p).isEmpty) stParamRange 0x28]
    ++ p.portMap.zipIdx.map (fun e => need (decide (e.1 = 0xFF ∨ e.1 < p.size)) stParamRange (0x2C + e.2))

/-- Trains every port of the port map that is not up. -/
def trainMap (s : State) (p : GroupFormParams) : State :=
  (List.range 14).foldl (fun s k => if p.portMap.getD k 0xFF = 0xFF || portUp (portOf s k) then s else modPort s k retrainPort) s

/-- GROUP_FORM: the module is JOINING, trains its ports and tells what it reaches; a rejoin is asked of the candidates. -/
def execGroupForm (h : CmdHdr) (p : GroupFormParams) (s : State) : Host.Outcome State Fault Refusal :=
  let i : Instr := .groupForm h p
  if p.portMap.length ≠ 14 ∨ p.keystoneOrder.length ≠ 4 ∨ p.identities.length ≠ p.size then .refused (.noSuchUnit "group descriptor")
  else
    runCommand s i h (formFields p) []
      [need (s.grp.state == .standalone) stWrongState, need (p.identities.getD p.rank [] == moduleIdentity) stParamConflict (0x40 + 16 * p.rank)]
      (fun s =>
        let g : Group := { s.grp with state := .joining, rank := p.rank, form := some p, formHdr := some h, formAccepted := s.frames.ticks, reach := [], startFrame := none }
        let s1 := tellReach (trainMap (acceptLong i h { s with grp := g }) p)
        if p.rejoin then ((candidates p).filter (· != p.rank)).foldl (fun s r => sendCtl s 10 r (frameNow s) (groupBody s 1) []) s1 else s1)

/-- Whether a group context has a step queued or in flight. -/
def groupWork (s : State) : Bool := (allCtxs s).any (fun e => e.2.group && hasWork e.2)

def leaves : Instr → Bool | .groupLeave _ => true | _ => false
def excludes (r : Nat) : Instr → Bool
  | .memberExclude _ k => k == r
  | _ => false

/-- GROUP_LEAVE: a member stands alone at the next tick; the keystone announces the end of the group (DEDUCED, log entry 57). -/
def execGroupLeave (h : CmdHdr) (s : State) : Host.Outcome State Fault Refusal :=
  let i : Instr := .groupLeave h
  runCommand s i h [] []
    [need (grouped s || s.grp.state == .lost) stWrongState, need (!groupWork s) stWrongState, need (!tickPending s leaves) stBusy]
    (fun s =>
      if leads s then acceptTick i h 3 (announce s (frameIn s 3) (memberEntry 3 0xFF (frameIn s 3) s.grp.epoch))
      else acceptTick i h 1 s)

/-- MEMBER_EXCLUDE: a live rank is lost first; the keystone announces the exclusion. -/
def execMemberExclude (h : CmdHdr) (rank : Nat) (s : State) : Host.Outcome State Fault Refusal :=
  let i : Instr := .memberExclude h rank
  runCommand s i h [] []
    [need (leads s) stWrongState, need (s.grp.members.contains rank && rank != s.grp.rank) stParamRange 0x20, need (!tickPending s (excludes rank)) stBusy]
    (fun s => let s1 := loseRank s rank
      acceptTick i h 3 (announce s1 (frameIn s1 3) (memberEntry 2 rank (frameIn s1 3) s1.grp.epoch)))

/-! ### JOIN_WINDOW_CLOSE (R300) -/

/-- What a rank reaches, as far as this module has heard. -/
def reachOf (s : State) (r : Nat) : Nat := if r = s.grp.rank then rankMask (reached s) else mget 0 s.grp.reach r

/-- The first candidate that every rank reaches; none where a rank is missing or no candidate is reached by all. -/
def chooseKeystone (s : State) (p : GroupFormParams) : Option Nat :=
  let all_ := List.range p.size
  if all_.any (fun r => r != s.grp.rank && !((reached s).contains r && s.grp.reach.any (fun e => e.1 == r))) then none
  else (candidates p).find? (fun k => all_.all (fun r => r == k || bit (reachOf s r) k))

/-- A formation that fails: the module stays as it was. -/
def failForm (s : State) : State :=
  let g := s.grp
  let s1 := modGrp s (fun g => { ({} : Group) with epoch := g.epoch, linkEpoch := g.linkEpoch, sent := g.sent })
  match g.formHdr with | some h => setLongReply s1 (fun l => l.hdr == h) stMemberLost 0 0 | none => s1

/-- The keystone announces the start tick of the formation, with its frame settings (DEDUCED, log entry 57). -/
def announceStart (s : State) : State :=
  let f := frameIn s 3
  announce (announce (modGrp s (fun g => { g with startFrame := some f })) f (configEntry s.frames.cfg f)) f (memberEntry 0 0xFF f ((s.grp.epoch + 1) % 65536))

/-- JOIN_WINDOW_CLOSE. -/
def execJoinWindowClose (s : State) : Host.Outcome State Fault Refusal :=
  match s.grp.state, s.grp.form with
  | .joining, some p =>
    let coming := s.grp.announced.any (fun a => decide (a.kind = 4) && decide (fieldAt a.entry 1 1 = 1) && decide (fieldAt a.entry 2 1 = s.grp.rank))
    if s.grp.startFrame.isSome || coming then .next s
    else if p.rejoin then .next (failForm s)
    else match chooseKeystone s p with
      | none => .next (failForm s)
      | some k =>
        let s1 := modGrp s (fun g => { g with keystoneRank := k, members := List.range p.size, startFrame := some 0 })
        .next (if k = p.rank then announceStart s1 else s1)
  | _, _ => .next s

/-! ### TICK messages (R301, R54, R57) -/

/-- Whether a TICK is as Tables 13-14 and 13-15 ask (DEDUCED, log entry 58). -/
def tickOk (m : Msg) : Bool :=
  decide (m.length % 16 = 0) && decide (fieldAt m.body 1 1 < 2) && decide (fieldAt m.body 6 10 = 0) && (entriesOf m.data).all entryOk

def infoOf (m : Msg) : TickInfo := { frame := m.frame, stretch := fieldAt m.body 0 1, overflow := fieldAt m.body 2 2, ends := bit (fieldAt m.body 1 1) 0 }

/-- The frame at whose tick an entry acts. -/
def entryFrame (m : Msg) (e : List Byte) : Nat := match fieldAt e 0 1 with | 1 => fieldAt e 8 6 | 3 => fieldAt e 4 6 | 4 => fieldAt e 4 6 | _ => m.frame

/-- Keeps the entries of a TICK until the tick of each; a group that ends at this tick needs no entry for it (DEDUCED, log entry 58). -/
def noteEntries (s : State) (m : Msg) : State :=
  let s1 := (entriesOf m.data).foldl (fun s e => announce s (entryFrame m e) e) s
  if bit (fieldAt m.body 1 1) 0 then announce s1 m.frame (memberEntry 3 0xFF m.frame s1.grp.epoch) else s1

/-- Forwards a TICK to the ranks attached to this module. -/
def relayTick (s : State) (m : Msg) : State :=
  (childRanks s).foldl (fun s r => match portTo s r with
    | none => s
    | some p => sendCtlMsg s 5 { m with port := p, dstRank := r }) s

/-- The entries of a tick that has already been applied here: a TICK in several messages, or one behind its edge. -/
def applyLate (s : State) : State :=
  let s1 := memberAborts s
  let s2 := (allCtxs s1).foldl (fun s e => abortDue s e.1) s1
  let s3 := (dueEntries s2 3).foldl obeyRun s2
  let s4 := (dueEntries s3 4).foldl obeyMembership s3
  dropDue ((dueEntries s4 5).foldl obeyGate s4)

/-- A frame that an edge began learns its stretch and its inserted overflow frames. -/
def lateInfo (s : State) (at_ : Nat) (i : TickInfo) : State :=
  let s1 := replan s at_ (max s.frames.stretch i.stretch) (s.frames.lastTick + periodNs s.frames.cfg + quantaNs s.frames.cfg (max s.frames.stretch i.stretch))
  match s1.residency.current, s1.frames.running with
  | some c, some r =>
    if bit r.flags 0 then modCtx s1 c (fun x => { x with inFlight := x.inFlight.map (fun t => { t with overflowLeft := i.overflow, overflowFrames := t.overflowFrames - t.overflowLeft + i.overflow }) }) else s1
  | _, _ => s1

def ignoreTick (s : State) : State := modFrames s (fun f => { f with syncOverrunCnt := f.syncOverrunCnt + 1 })

/-- A tick that a TICK message gives; a member whose counter then differs from the message's leaves the group's step (R57). -/
def messageTick (s : State) (at_ : Nat) (m : Msg) : State :=
  let s1 := applyTick s at_ (some (infoOf m)) true
  if m.frame = frameNow s1 then s1 else loseKeystone s1

/-- Whether this module has applied a frame number (R54). -/
def hasApplied (s : State) (frame : Nat) : Bool := decide ((frameNow s + 2 ^ 48 - frame) % 2 ^ 48 < 2 ^ 47)

/-- A tick message at a member (DEDUCED, log entry 58). -/
def memberTick (s : State) (at_ : Nat) (m : Msg) : State :=
  let more := decide (m.length = 896)
  let applied := hasApplied s m.frame
  if adopts (noteEntries s m) m.frame then applyTick (noteEntries s m) at_ (some (infoOf m)) true
  else if tickSource s = 2 then
    if m.frame = frameNow s then applyLate (lateInfo (noteEntries s m) at_ (infoOf m))
    else if applied then ignoreTick s
    else modGrp (noteEntries s m) (fun g => { g with tickInfo := some (infoOf m) })
  else if applied then
    (if s.grp.tickMore && decide (m.frame = frameNow s) then modGrp (applyLate (noteEntries s m)) (fun g => { g with tickMore := more }) else ignoreTick s)
  else if inTime s at_ then modGrp (messageTick (noteEntries s m) at_ m) (fun g => { g with tickMore := more })
  else ignoreTick s

/-- A TICK that a lost member accepts is its tick, with its own counter (R55) (DEDUCED, log entry 58). -/
def lostTick (s : State) (at_ : Nat) (m : Msg) : State :=
  if s.grp.state ≠ .lost ∨ tickSource s ≠ 1 then s
  else if hasApplied s m.frame || !inTime s at_ then ignoreTick s
  else applyTick s at_ (some (infoOf m)) true

/-- A tick message at a module that joins, or that has lost its group: it waits for the tick at which it may adopt the
keystone's counter; a lost module asks for it. No entry but those of CONFIG and MEMBERSHIP concerns it (DEDUCED, log entry 57). -/
def outsideTick (s : State) (at_ : Nat) (m : Msg) : State :=
  let s1 := noteEntries (modGrp s (fun g => { g with epoch := fieldAt m.body 4 2, keystoneRank := if g.state = .joining ∧ g.startFrame.isNone then m.srcRank else g.keystoneRank })) m
  if adopts s1 m.frame then applyTick s1 at_ (some (infoOf m)) true
  else
    let s2 := modGrp s1 (fun g => { g with announced := g.announced.filter (fun a => a.frame != m.frame && (decide (a.kind = 1) || decide (a.kind = 4))) })
    let s3 := if s2.grp.state = .lost ∧ !s2.grp.announced.any (fun a => decide (a.kind = 4)) then sendCtl s2 10 m.srcRank (frameNow s2) (groupBody s2 1) [] else s2
    lostTick s3 at_ m

/-- TICK_MESSAGE. -/
def execTickMessage (at_ : Nat) (m : Msg) (s : State) : Host.Outcome State Fault Refusal :=
  onControl s 5 m (tickOk m) (fun s =>
    let s0 := { s with now := max s.now at_ }
    if !ticking s0 then s0
    else match s.grp.state with
      | .member => memberTick (relayTick s0 m) at_ m
      | .joining => outsideTick (relayTick s0 m) at_ m
      | .lost => outsideTick (relayTick s0 m) at_ m
      | _ => s0)

/-! ### The other control messages -/

/-- PLAN: the current frame's new plan; a check point that it leaves behind is made up for at once (R47) (DEDUCED, log entry 58). -/
def execPlan (at_ : Nat) (m : Msg) (s : State) : Host.Outcome State Fault Refusal :=
  onControl s 6 m (decide (m.length = 0) && decide (fieldAt m.body 1 3 = 0) && decide (fieldAt m.body 8 8 = 0)) (fun s =>
    let s0 := { s with now := max s.now at_ }
    if s.grp.state = .member ∧ m.frame = frameNow s then replan s0 at_ (fieldAt m.body 0 1) (s.frames.lastTick + fieldAt m.body 4 4) else s0)

/-- Whether a message comes from a live member of the group that this module leads. -/
def fromMember (s : State) (m : Msg) : Bool := leads s && s.grp.members.contains m.srcRank && m.srcRank != s.grp.rank && !s.grp.lost.contains m.srcRank

/-- LATE: a report on the current frame. -/
def execLate (m : Msg) (s : State) : Host.Outcome State Fault Refusal :=
  onControl s 7 m (decide (m.length = 0) && decide (fieldAt m.body 0 1 < 4) && decide (fieldAt m.body 2 14 = 0)) (fun s =>
    if fromMember s m && decide (m.frame = frameNow s) && bit (fieldAt m.body 0 1) 0 && !s.grp.lateRanks.contains m.srcRank then
      modGrp s (fun g => { g with lateRanks := g.lateRanks ++ [m.srcRank] })
    else s)

/-- The keystone announces the rejoin of a rank, with its frame settings, unless it has done so (DEDUCED, log entry 57). -/
def announceRejoin (s : State) (r : Nat) : State :=
  if s.grp.announced.any (fun a => decide (a.kind = 4) && decide (fieldAt a.entry 1 1 = 1) && decide (fieldAt a.entry 2 1 = r)) then s
  else
    let f := frameIn s 3
    announce (announce s f (configEntry s.frames.cfg f)) f (memberEntry 1 r f ((s.grp.epoch + 1) % 65536))

/-- A heartbeat of a live member: its state, its collective timeouts, and what shows it to be lost (R303). -/
def heartbeat (s : State) (m : Msg) : State :=
  let r := m.srcRank
  let flags := fieldAt m.body 0 1
  let s1 := modGrp s (fun g =>
    { g with beat := mset false g.beat r true, runnable := mset 0 g.runnable r (fieldAt m.body 4 4), overflow := mset 0 g.overflow r (fieldAt m.body 2 2)
             overrunRanks := mset 0 g.overrunRanks r (if bit flags 1 then mget 0 g.overrunRanks r + 1 else 0)
             waiting := if bit flags 4 && decide (m.frame = frameNow s) then g.waiting.filter (· != r) else g.waiting })
  let s2 := if bit flags 3 || decide (m.frame ≠ frameNow s) then loseRank s1 r else s1
  (entriesOf m.data).foldl (fun s e => ((List.range 64).filter (bit (fieldAt e 8 8))).foldl loseRank s) s2

/-- HEARTBEAT: one from a rank that was lost shows that the keystone reaches it again (R306). -/
def execHeartbeat (m : Msg) (s : State) : Host.Outcome State Fault Refusal :=
  onControl s 8 m (decide (m.length = 16 * fieldAt m.body 1 1) && decide (fieldAt m.body 0 1 < 32) && decide (fieldAt m.body 8 8 = 0)
      && (entriesOf m.data).all (fun e => decide (fieldAt e 6 2 = 0))) (fun s =>
    if fromMember s m then heartbeat s m
    else if leads s && s.grp.lost.contains m.srcRank then announceRejoin s m.srcRank
    else s)

/-- ABORT: the keystone places an entry in its next tick. -/
def execAbort (m : Msg) (s : State) : Host.Outcome State Fault Refusal :=
  onControl s 9 m (decide (m.length = 0) && decide (fieldAt m.body 8 8 = 0)) (fun s =>
    if fromMember s m then askAbort s (fieldAt m.body 0 2) (fieldAt m.body 4 4) (fieldAt m.body 2 2) else s)

/-- GROUP: what a rank reaches, or its wish to rejoin. -/
def execGroup (m : Msg) (s : State) : Host.Outcome State Fault Refusal :=
  onControl s 10 m (decide (m.length = 0) && decide (fieldAt m.body 4 1 < 2) && decide (fieldAt m.body 5 1 = m.srcRank) && decide (fieldAt m.body 6 2 = 0)) (fun s =>
    match s.grp.form with
    | none => s
    | some p =>
      if fieldAt m.body 0 4 ≠ p.groupId then s
      else
        let s1 := tellReach (modGrp s (fun g => { g with reach := mset 0 g.reach m.srcRank (fieldAt m.body 8 8) }))
        if fieldAt m.body 4 1 = 1 && leads s1 && s1.grp.members.contains m.srcRank && m.srcRank != s1.grp.rank then announceRejoin (loseRank s1 m.srcRank) m.srcRank else s1)

/-- HEARTBEAT_TIMEOUT: the eighth tick in a row without the rank's heartbeat. -/
def execHeartbeatTimeout (rank : Nat) (s : State) : Host.Outcome State Fault Refusal :=
  if 64 ≤ rank then .refused (.noSuchUnit "rank")
  else if leads s && decide (8 ≤ mget 0 s.grp.missed rank) then .next (loseRank s rank)
  else .next s

end Sys2Proof.Machine
end

