-- ==== Sys2Proof/Machine/Packet.lean ====
section
/-! DEFINITION. Machine/Packet.lean: how a packet of a submission ring is fetched, checked in the order of Table 14-11 and
read as a command (R333, R335, R337 to R339, R346), and how a long command ends (R349). -/

namespace Sys2Proof.Machine

open Sys2Proof

/-! ### Parameters (Tables 15-3 to 15-14) -/

/-- A Reserved field of a packet: its offset, its bytes, and its Reserved bits. -/
abbrev Resv := Nat × Nat × Nat

def resvSpan (o n : Nat) : Resv := (o, n, 2 ^ (8 * n) - 1)
def resvBits (o mask : Nat) : Resv := (o, 1, mask)

/-- The first field of a list, by ascending offset, that is not zero. -/
def firstResv (p : List Byte) (l : List Resv) : Option Nat := (l.find? (fun r => (fieldAt p r.1 r.2.1) &&& r.2.2 != 0)).map (·.1)

/-- Reserved fields of a range table entry (Table 9-6) and of an image source entry (Table 12-3). -/
def rangeResv : List Resv := [(0, 8, 0xFFFF * 2 ^ 48), resvBits 0x11 0xE0, resvSpan 0x14 12]
def sourceResv : List Resv := [(0, 8, 0xFFFF * 2 ^ 48), (0x10, 8, 0xFFFF * 2 ^ 48), resvBits 0x19 0xE0, resvSpan 0x1A 6]

def shiftResv (o : Nat) (l : List Resv) : List Resv := l.map (fun r => (o + r.1, r.2))

/-- Parameter bytes and Reserved fields of the admin, partition and memory commands. -/
def paramsLow (op : Nat) (p : List Byte) : Option (Nat × List Resv) :=
  match op with
  | 0x0001 => some (0, [])
  | 0x0002 => some (8, [])
  | 0x0003 => some (16, [resvSpan 0x22 6])
  | 0x0004 => some (24, [resvSpan 0x33 5])
  | 0x0005 => some (8, [resvSpan 0x21 7])
  | 0x0101 => some (16, [resvSpan 0x28 8])
  | 0x0102 => some (8, [resvBits 0x21 0xFE, resvSpan 0x22 6])
  | 0x0103 => some (8 + fieldAt p 0x20 2, [resvSpan 0x22 6])
  | 0x0104 => some (64, [resvSpan 0x54 12])
  | 0x0105 => some (16, [resvSpan 0x2C 4])
  | 0x0106 => some (8, [resvBits 0x20 0xFE, resvSpan 0x21 7])
  | 0x0107 => some (8 + fieldAt p 0x20 2, [resvSpan 0x22 6])
  | 0x0202 => some (24, [])
  | 0x0203 => some (24, [])
  | 0x0204 => some (16, [])
  | 0x0205 => some (40, [resvSpan 0x21 7] ++ shiftResv 0x28 rangeResv)
  | 0x0206 => some (24, [resvSpan 0x31 7])
  | 0x0207 => some (16, [resvSpan 0x23 1])
  | _ => none

/-- Those of the codec, context, schedule and group commands. -/
def paramsMid (op : Nat) (p : List Byte) : Option (Nat × List Resv) :=
  match op with
  | 0x0301 => some (2072, [resvSpan 0x21 7])
  | 0x0302 => some (16, [resvSpan 0x22 6, (0x28, 8, 0xFFFF * 2 ^ 48)])
  | 0x0303 => some (48, [resvBits 0x25 0xFE, resvSpan 0x2C 4])
  | 0x0304 => some (24, [resvSpan 0x23 5, resvSpan 0x2C 4])
  | 0x0401 => some (32 + 32 * fieldAt p 0x23 1,
      [resvBits 0x22 0xFE, resvSpan 0x25 3, resvSpan 0x38 8] ++ (List.range (fieldAt p 0x23 1)).flatMap (fun k => shiftResv (0x40 + 32 * k) sourceResv))
  | 0x0402 => some (8, [resvBits 0x21 0xFE, resvSpan 0x22 6])
  | 0x0403 => some (8, [resvSpan 0x22 6])
  | 0x0404 => some (8, [resvSpan 0x21 7])
  | 0x0405 => some (16, [resvSpan 0x21 7])
  | 0x0406 => some (16, [resvSpan 0x22 6])
  | 0x0501 => some (24, [resvSpan 0x21 7])
  | 0x0502 => some (8, [resvSpan 0x22 6])
  | 0x0503 => some (16, [resvSpan 0x21 3])
  | 0x0504 => some (24, [resvSpan 0x22 6])
  | 0x0505 => some (8, [resvSpan 0x21 3])
  | 0x0506 => some (8, [resvBits 0x25 0xFE, resvSpan 0x26 2])
  | 0x0601 => some (32 + 16 * fieldAt p 0x24 1, [resvBits 0x26 0xFE, resvSpan 0x3A 6])
  | 0x0602 => some (0, [])
  | 0x0603 => some (8, [(0x20, 2, 0xC000), resvSpan 0x23 5])
  | 0x0604 => some (8, [(0x20, 2, 0xC000), resvBits 0x22 0xFE, resvSpan 0x23 5])
  | 0x0605 => some (8, [resvSpan 0x21 7])
  | _ => none

/-- Those of the power, check-value, health, debug and configuration commands. -/
def paramsHigh (op : Nat) : Option (Nat × List Resv) :=
  match op with
  | 0x0701 => some (8, [resvSpan 0x22 6])
  | 0x0702 => some (8, [resvSpan 0x23 5])
  | 0x0703 => some (16, [resvSpan 0x20 8])
  | 0x0704 => some (16, [resvSpan 0x20 8])
  | 0x0705 => some (0, [])
  | 0x0801 => some (24, [resvBits 0x21 0xF0, resvSpan 0x23 1, resvSpan 0x26 2])
  | 0x0802 => some (16, [resvSpan 0x21 7])
  | 0x0803 => some (16, [resvSpan 0x21 7])
  | 0x0901 => some (8, [resvSpan 0x21 1, resvSpan 0x24 4])
  | 0x0902 => some (20, [resvSpan 0x20 8])
  | 0x0903 => some (8, [resvSpan 0x21 7])
  | 0x0904 => some (16, [resvSpan 0x20 8])
  | 0x0905 => some (16, [resvSpan 0x22 6])
  | 0x0A01 => some (20, [(0x20, 4, 0xFFFFFFFC), resvSpan 0x24 4])
  | 0x0A02 => some (16, [resvSpan 0x21 1, resvSpan 0x26 2])
  | 0x0A03 => some (20, [resvSpan 0x20 8])
  | 0x0A04 => some (20, [resvSpan 0x22 6])
  | 0x0A05 => some (8, [resvSpan 0x21 1, resvSpan 0x24 4])
  | 0x0B01 => some (8, [resvSpan 0x22 6])
  | 0x0B02 => some (16, [resvSpan 0x22 6])
  | 0x0B03 => some (8, [resvSpan 0x21 7])
  | _ => none

/-- Parameter bytes and Reserved fields of an opcode; none for one that is not in the tables. -/
def paramsOf (op : Nat) (p : List Byte) : Option (Nat × List Resv) :=
  if op < 0x0300 then paramsLow op p else if op < 0x0700 then paramsMid op p else paramsHigh op

/-- Reserved fields of a packet header (Table 14-10). -/
def headerResv : List Resv := [resvBits 2 0xFC, resvSpan 7 1, resvSpan 0xA 2, resvSpan 0x10 12]

/-- The packet length that a command's parameters ask for (R346). -/
def packetBytes (params : Nat) : Nat := 32 + ceilDiv params 32 * 32

/-! ### Reading a command -/

/-- A range table entry from its 32 bytes. -/
def rangeFrom (b : List Byte) : RangeEntry :=
  let a := fieldAt b 0x11 1
  { base := fieldAt b 0 8 % 2 ^ 48, size := fieldAt b 8 8, owner := fieldAt b 0x10 1, hint := a % 4, landing := bit a 2, plain := bit a 3, prewarm := bit a 4
    reserved := firstResv b rangeResv, context := fieldAt b 0x12 2 }

/-- An image source entry from its 32 bytes. -/
def sourceFrom (b : List Byte) : SourceEntry :=
  let a := fieldAt b 0x19 1
  { base := fieldAt b 0 8 % 2 ^ 48, size := fieldAt b 8 8, host := fieldAt b 0x10 8 % 2 ^ 48, kind := fieldAt b 0x18 1, hint := a % 4, landing := bit a 2
    plain := bit a 3, prewarm := bit a 4, reserved := firstResv b sourceResv }

/-- The parameters of CTX_CREATE (Table 15-8). -/
def ctxParams (p : List Byte) : CtxCreateParams :=
  let f := fieldAt p
  { requestedId := f 0x20 1, priority := f 0x21 1, group := bit (f 0x22 1) 0, frameLines := f 0x24 1, pageEntries := f 0x28 4, sessionSlots := f 0x2C 4
    descUnits := f 0x30 2, imageUnits := f 0x32 2, dirUnits := f 0x34 2, saveUnits := f 0x36 2
    sources := (List.range (f 0x23 1)).map (fun k => sourceFrom (bytesAt p (0x40 + 32 * k) 32)) }

/-- The parameters of GROUP_FORM (Table 15-12). -/
def groupParams (p : List Byte) : GroupFormParams :=
  let f := fieldAt p
  { groupId := f 0x20 4, size := f 0x24 1, rank := f 0x25 1, rejoin := bit (f 0x26 1) 0, source := f 0x27 1
    keystoneOrder := (List.range 4).map (fun k => f (0x28 + k) 1), portMap := (List.range 14).map (fun k => f (0x2C + k) 1)
    identities := (List.range (f 0x24 1)).map (fun k => bytesAt p (0x40 + 16 * k) 16) }

/-- The parameters of ENCODE_RANGE (Table 15-6). -/
def encodeParams (p : List Byte) : EncodeParams :=
  let f := fieldAt p
  { context := f 0x20 1, format := f 0x21 1, modeReq := f 0x22 1, slot := f 0x23 1, decUnits := f 0x24 1, padOk := bit (f 0x25 1) 0, seqBase := f 0x26 2
    count := f 0x28 4, src := f 0x30 8, dst := f 0x38 8, dstBytes := f 0x40 8, index := f 0x48 8 }

/-- The parameters of CV_RUN (Table 15-13). -/
def cvParams (p : List Byte) : CvRunParams :=
  let f := fieldAt p
  let g := f 0x21 1
  { stream := f 0x20 1, start := bit g 0, final := bit g 1, alive16 := bit g 2, checkAlive := bit g 3, poly := f 0x22 1, alive := f 0x24 2, src := f 0x28 8, bytes := f 0x30 8 }

/-- The admin, partition and memory commands. -/
def readLow (h : CmdHdr) (op : Nat) (p : List Byte) : Option Instr :=
  let f := fieldAt p
  match op with
  | 0x0001 => some (.nop h)
  | 0x0002 => some (.identify h (f 0x20 8))
  | 0x0003 => some (.capRead h (f 0x20 2) (f 0x28 8))
  | 0x0004 => some (.queueCreate h (f 0x20 8) (f 0x28 8) (f 0x30 1) (f 0x31 1) (f 0x32 1))
  | 0x0005 => some (.queueDelete h (f 0x20 1))
  | 0x0101 => some (.partCreate h (f 0x20 1) (f 0x21 1) (f 0x22 2) (f 0x24 2) (f 0x26 1) (f 0x27 1))
  | 0x0102 => some (.partDestroy h (f 0x20 1) (bit (f 0x21 1) 0))
  | 0x0103 => some (.keyInstall h (bytesAt p 0x28 (f 0x20 2)))
  | 0x0104 => some (.attestQuote h (bytesAt p 0x20 32) (f 0x40 8) (f 0x48 8) (f 0x50 4))
  | 0x0105 => some (.fwStage h (f 0x20 8) (f 0x28 4))
  | 0x0106 => some (.fwActivate h (bit (f 0x20 1) 0))
  | 0x0107 => some (.dumpKeySet h (bytesAt p 0x28 (f 0x20 2)))
  | 0x0202 => some (.bulkLoad h (f 0x20 8) (f 0x28 8) (f 0x30 8))
  | 0x0203 => some (.bulkStore h (f 0x20 8) (f 0x28 8) (f 0x30 8))
  | 0x0204 => some (.calderaInval h (f 0x20 8) (f 0x28 8))
  | 0x0205 => some (.rangeAttr h (f 0x20 1) (rangeFrom (bytesAt p 0x28 32)))
  | 0x0206 => some (.scrubRange h (f 0x20 8) (f 0x28 8) (f 0x30 1))
  | 0x0207 => some (.kvPagesMap h (f 0x20 1) (f 0x21 1) (f 0x22 1) (f 0x24 4) (f 0x28 8))
  | _ => none

/-- The codec, context, schedule and group commands. -/
def readMid (h : CmdHdr) (op : Nat) (p : List Byte) : Option Instr :=
  let f := fieldAt p
  match op with
  | 0x0301 => some (.tableLoad h (f 0x20 1) (bytesAt p 0x28 2064))
  | 0x0302 => some (.tableActivate h (f 0x20 1) (f 0x21 1) (f 0x28 8))
  | 0x0303 => some (.encodeRange h (encodeParams p))
  | 0x0304 => some (.decodeCheck h (f 0x20 1) (f 0x21 1) (f 0x22 1) (f 0x28 4) (f 0x30 8))
  | 0x0401 => some (.ctxCreate h (ctxParams p))
  | 0x0402 => some (.ctxDestroy h (f 0x20 1) (bit (f 0x21 1) 0))
  | 0x0403 => some (.ctxPin h (f 0x20 1) (f 0x21 1))
  | 0x0404 => some (.ctxEvict h (f 0x20 1))
  | 0x0405 => some (.ctxQuery h (f 0x20 1) (f 0x28 8))
  | 0x0406 => some (.acctRead h (f 0x20 1) (f 0x21 1) (f 0x28 8))
  | 0x0501 => some (.schedLoad h (f 0x20 1) (f 0x28 8) (f 0x30 8))
  | 0x0502 => some (.schedUnload h (f 0x20 1) (f 0x21 1))
  | 0x0503 => some (.stepSubmit h (f 0x20 1) (f 0x24 4) (f 0x28 8))
  | 0x0504 => some (.kernelLaunch h (f 0x20 1) (f 0x21 1) (f 0x28 8) (f 0x30 8))
  | 0x0505 => some (.stepAbort h (f 0x20 1) (f 0x24 4))
  | 0x0506 => some (.frameConfig h
      { periodUs := f 0x20 1, quantumUs := f 0x21 1, maxQuanta := f 0x22 1, lateLead := f 0x23 1, source := f 0x24 1, syncOutEn := bit (f 0x25 1) 0 })
  | 0x0601 => some (.groupForm h (groupParams p))
  | 0x0602 => some (.groupLeave h)
  | 0x0603 => some (.linkTrain h (f 0x20 2) (f 0x22 1))
  | 0x0604 => some (.linkKeyRotate h (f 0x20 2) (bit (f 0x22 1) 0))
  | 0x0605 => some (.memberExclude h (f 0x20 1))
  | _ => none

/-- The power, check-value, health, debug and configuration commands. -/
def readHigh (h : CmdHdr) (op : Nat) (p : List Byte) : Option Instr :=
  let f := fieldAt p
  match op with
  | 0x0701 => some (.powerCapSet h (f 0x20 2))
  | 0x0702 => some (.powerPrioritySet h (f 0x20 1) (f 0x21 1) (f 0x22 1))
  | 0x0703 => some (.powerRead h (f 0x28 8))
  | 0x0704 => some (.vfTableRead h (f 0x28 8))
  | 0x0705 => some (.calibrate h)
  | 0x0801 => some (.cvRun h (cvParams p))
  | 0x0802 => some (.cvSave h (f 0x20 1) (f 0x28 8))
  | 0x0803 => some (.cvRestore h (f 0x20 1) (f 0x28 8))
  | 0x0901 => some (.resetDomain h (f 0x20 1) (f 0x22 2))
  | 0x0902 => some (.healthRead h (f 0x28 8) (f 0x30 4))
  | 0x0903 => some (.hangPolicySet h (f 0x20 1))
  | 0x0904 => some (.spareMapRead h (f 0x28 8))
  | 0x0905 => some (.marginRun h (f 0x20 1) (f 0x21 1) (f 0x28 8))
  | 0x0A01 => some (.traceConfig h (f 0x20 4) (f 0x28 8) (f 0x30 4))
  | 0x0A02 => some (.counterRead h (f 0x20 1) (f 0x22 2) (f 0x24 2) (f 0x28 8))
  | 0x0A03 => some (.waitgraphRead h (f 0x28 8) (f 0x30 4))
  | 0x0A04 => some (.dumpRead h (f 0x20 2) (f 0x28 8) (f 0x30 4))
  | 0x0A05 => some (.stepGate h (f 0x20 1) (f 0x22 2))
  | 0x0B01 => some (.cfgRead h (f 0x20 2))
  | 0x0B02 => some (.cfgWrite h (f 0x20 2) (f 0x28 8))
  | 0x0B03 => some (.cfgCompact h (f 0x20 1))
  | _ => none

/-- The command that a packet of an opcode carries (DEDUCED, log entry 5). -/
def decodePacket (h : CmdHdr) (op : Nat) (p : List Byte) : Option Instr :=
  if op < 0x0300 then readLow h op p else if op < 0x0700 then readMid h op p else readHigh h op p

/-! ### Fetching (R333, R335, R338, R339) -/

/-- Entries of a ring from one position to another. -/
def ringSpan (log head tail : Nat) : Nat := (tail + 2 ^ log - head) % 2 ^ log

/-- `n` bytes of a submission ring from an entry on, wrapping at its end. -/
def ringBytes (s : State) (x : Queue) (head n : Nat) : List Byte :=
  ((List.range (ceilDiv n 64)).flatMap (fun k => hostRead s (x.sqBase + 64 * ((head + k) % 2 ^ x.sqLog2)) 64)).take n

/-- A completion entry is free for the next command: replies that the host has not consumed and commands between start and
reply leave one (R335) (DEDUCED, log entry 30). -/
def entryFree (x : Queue) : Bool := decide (ringSpan x.cqLog2 x.cqHead x.cqTail + x.inFlight.length + 1 < 2 ^ x.cqLog2)

/-- Whether the device may serve a queue now. -/
def serves (x : Queue) : Bool := x.enabled && x.fetching && x.sqHead != x.sqTail && entryFree x

/-- Whether the device fetches commands at all: it is ready, its host link works, IDE is in force where it must be (R325),
and die 0 is in service (DEDUCED, log entry 30). -/
def fetches (s : State) : Bool :=
  alive s && s.ready && ioOn s && cachememOn s && decide (mget 0 s.health.dieState 0 = 0)

/-- The queue whose turn it is: the first that can be served, from the round-robin position on (DEDUCED, log entry 30). -/
def turn (s : State) : Option Nat :=
  ((List.range 256).map (fun k => (s.host.rrNext + k) % 256)).find? (fun q => match queueOf? s q with | some x => serves x | none => false)

/-- The command header of a packet, as the device keeps it. -/
def headerOf (x : Queue) (q : Nat) (p : List Byte) : CmdHdr :=
  { fn := x.owner, queue := q, ring := x.ring, sqPos := x.sqHead, tag := fieldAt p 0xC 4, alive := fieldAt p 8 2
    ordered := bit (fieldAt p 2 1) 0, irq := bit (fieldAt p 2 1) 1, partition := fieldAt p 3 1 }

/-- The crc of a packet: header bytes 0x00 to 0x1B and everything from 0x20 on (R337). -/
def packetCrcOk (p : List Byte) : Bool := decide (fieldAt p 0x1C 4 = crc32c (p.take 0x1C ++ p.drop 0x20))

/-- What the checks of a packet find: a rejection with its status and detail, whether the alive value is consumed, or a command. -/
inductive Fetched where
  | rejected (status detail : Nat) (aliveUsed : Bool)
  | command (i : Instr)
  deriving DecidableEq, Repr

/-- Orders 3 to 8.1 of Table 14-11 for a packet whose length and crc hold (DEDUCED, log entry 30). -/
def checkPacket (x : Queue) (q : Nat) (h : CmdHdr) (p : List Byte) : Fetched :=
  let op := fieldAt p 0 2
  if fieldAt p 6 1 ≠ q then .rejected stParamConflict 6 false
  else if 8 < h.partition ∨ (x.owner ≠ 0 ∧ h.partition + 1 ≠ x.owner) then .rejected stNotPermitted noDetail false
  else if h.alive = (x.alive + 65535) % 65536 then .rejected stAliveRepeat noDetail false
  else if h.alive ≠ x.alive then .rejected stAliveGap noDetail false
  else
    match paramsOf op p, decodePacket h op p with
    | some (n, resv), some i =>
      match firstResv p (headerResv ++ resv ++ [resvSpan (32 + n) (p.length - (32 + n))]) with
      | some o => .rejected stParamRange o true
      | none =>
        match rightsCheck i h with
        | some e => .rejected e.1 noDetail true
        | none => if p.length ≠ packetBytes n then .rejected stBadLength noDetail true else .command i
    | _, _ => .rejected stBadOpcode noDetail true

/-- Consumes ring entries, and with `aliveUsed` the expected alive value. -/
def consume (x : Queue) (n : Nat) (aliveUsed : Bool) : Queue :=
  { x with sqHead := (x.sqHead + n) % 2 ^ x.sqLog2, alive := if aliveUsed then (x.alive + 1) % 65536 else x.alive }

/-- A packet that fails a check: its entries are consumed, its reply echoes the header as read, and it is counted. -/
def rejectPacket (s : State) (q : Nat) (x : Queue) (n : Nat) (p : List Byte) (status detail : Nat) (aliveUsed : Bool) : State :=
  let h := headerOf x q p
  let y := consume x n aliveUsed
  let bad := decide (status = stAliveRepeat ∨ status = stAliveGap)
  let s0 := countHost s false (64 * n)
  let s1 := { s0 with host := { s0.host with
    qrejRejected := madd s.host.qrejRejected q 1, qrejAlive := if bad then madd s.host.qrejAlive q 1 else s.host.qrejAlive } }
  let s2 := busWrite s1 (y.cqBase + 32 * y.cqTail) (replyBytes { h with queue := fieldAt p 6 1 } (fieldAt p 0 2) status 0 0 detail y.phase)
  let s3 := setQueue s2 q (some (afterReply y h))
  if h.irq then msix s3 y.owner y.vector else s3

/-- Fetches the packet at the head of a queue. A command that is ordered waits for the earlier commands of its queue (DEDUCED, log entry 30). -/
def fetchPacket (s : State) (q : Nat) (x : Queue) : State :=
  let avail := ringSpan x.sqLog2 x.sqHead x.sqTail
  let hd := ringBytes s x x.sqHead 64
  let len := fieldAt hd 4 2
  let n := ceilDiv len 64
  if len < 32 ∨ 4096 < len ∨ len % 32 ≠ 0 then rejectPacket s q x 1 hd stBadLength noDetail false
  else if avail < n then rejectPacket s q x avail hd stBadLength noDetail false
  else
    let p := ringBytes s x x.sqHead len
    if !packetCrcOk p then rejectPacket s q x n hd stBadCrc noDetail false
    else
      let h := headerOf x q p
      match checkPacket x q h p with
      | .rejected st d a => rejectPacket s q x n hd st d a
      | .command i =>
        if h.ordered && !x.inFlight.isEmpty then s
        else
          let y := consume x n true
          let s1 := setQueue (countHost s false (64 * n)) q (some { y with inFlight := y.inFlight ++ [(h.sqPos, h.alive)] })
          { s1 with host := { s1.host with started := s1.host.started ++ [i] } }

/-- PACKET_FETCH: the queue whose turn it is has its next packet fetched, and the turn passes on. The command that a good
packet carries stands among the started ones, and runs as the step of its own name (log entry 6) (DEDUCED, log entry 30). -/
def execPacketFetch (q : Nat) (s : State) : Host.Outcome State Fault Refusal :=
  if 256 ≤ q then .refused (.noSuchUnit "queue")
  else
    match queueOf? s q with
    | none => .next s
    | some x =>
      if !fetches s || turn s != some q then .next s
      else
        let s1 := fetchPacket s q x
        .next { s1 with host := { s1.host with rrNext := (q + 1) % 256 } }

/-! ### The end of a long command (R349) -/

/-- What the work of a long command leaves: the state, the status, result and result2; none while it goes on. A command
whose outcome its own rules have already set ends with it. -/
def longOutcome (s : State) (l : LongCmd) : Option (State × Nat × Nat × Nat) :=
  match l.op, l.reply with
  | .marginRun _ k _ _, some r => some (cutMarginRun s k, r)
  | _, some r => some (s, r)
  | .queueDelete _ q, none => endQueueDelete s q
  | .partDestroy _ p z, none => some (endPartDestroy s p z)
  | .attestQuote h nonce m dst _, none => some (endAttestQuote s h nonce m dst)
  | .fwStage _ _ _, none => some (endFwStage s l.image)
  | .bulkLoad h src dst n, none => some (endBulkLoad s h src dst n)
  | .bulkStore h src dst n, none => some (endBulkStore s h src dst n)
  | .calderaInval _ b n, none => some (endCalderaInval s b n)
  | .scrubRange _ b n m, none => some (endScrubRange s b n m)
  | .encodeRange h p, none => some (endEncodeRange s h p)
  | .decodeCheck h c w u n src, none => some (endDecodeCheck s h c w u n src)
  | .ctxDestroy _ c scrub, none => endCtxDestroy s c scrub
  | .schedLoad _ c _ _, none => some (endSchedLoad s c l.image)
  | .linkTrain _ m _, none => endLinkTrain s m
  | .linkKeyRotate _ m _, none => endLinkKeyRotate s m
  | .cvRun h p, none => some (endCvRun s h p)
  | .marginRun h k d dst, none => some (endMarginRun s h k d dst)
  | .dumpRead h k dst _, none => some (endDumpRead s h k dst)
  | .cfgCompact _ sel, none => some (endCfgCompact s sel)
  | _, none => none

/-- Whether a long command rewrites the journal of a module in recovery, which then boots normally (R387) (DEDUCED, log entry 36). -/
def repairsJournal (s : State) (l : LongCmd) : Bool := s.rot.divergent && isCompact l.op && l.reply.isNone

/-- Takes a long command out of those in progress and writes its reply. -/
def endLong (s : State) (l : LongCmd) : State :=
  match longOutcome { s with host := { s.host with long := s.host.long.erase l } } l with
  | none => s
  | some (s1, st, r, r2) =>
    let s2 := finish s1 l.hdr l.op (if st = stDone then doneStatus s1 l.accepted else st) r r2
    if repairsJournal s l then beginDomain s2 ⟨5, 0⟩ 1 else s2

/-- LONG_COMMAND_END: the long command that began at a ring entry of a queue ends, if its work is done. -/
def execLongCommandEnd (q sqPos : Nat) (s : State) : Host.Outcome State Fault Refusal :=
  match s.host.long.find? (fun l => l.hdr.queue == q && l.hdr.sqPos == sqPos) with
  | none => .next s
  | some l => .next (endLong s l)

end Sys2Proof.Machine
end

