-- ==== Sys2Proof/Machine/Dispatch.lean ====
section
/-! DEFINITION. Machine/Dispatch.lean: the meaning of every step of the table, one arm per constructor. -/

namespace Sys2Proof.Machine

open Sys2Proof

def exec (i : Instr) (s : State) : Host.Outcome State Fault Refusal :=
  match i with
  -- frames and ticks (02)
  | .tick at_ => Sys2Proof.Machine.execTick at_ s
  | .overrunAbort => Sys2Proof.Machine.execOverrunAbort s
  | .abortReconcile context => Sys2Proof.Machine.execAbortReconcile context s
  | .weightReloadComplete context => Sys2Proof.Machine.execWeightReloadComplete context s
  | .checkPoint at_ => Sys2Proof.Machine.execCheckPoint at_ s
  | .syncInEdge at_ highNs => Sys2Proof.Machine.execSyncInEdge at_ highNs s
  | .syncLost at_ => Sys2Proof.Machine.execSyncLost at_ s
  | .rowFetch written => Sys2Proof.Machine.execRowFetch written s
  | .droop die => Sys2Proof.Machine.execDroop die s
  -- cells (04, 05)
  | .mmaRun cell f errs => Sys2Proof.Machine.execMmaRun cell f errs s
  | .mmaDrain cell f errs => Sys2Proof.Machine.execMmaDrain cell f errs s
  | .vld cell vd ra fmt imm errs => Sys2Proof.Machine.execVld cell vd ra fmt imm errs s
  | .vst cell vs1 ra fmt sat imm => Sys2Proof.Machine.execVst cell vs1 ra fmt sat imm s
  | .vadd cell vd vs1 vs2 => Sys2Proof.Machine.execVadd cell vd vs1 vs2 s
  | .vsub cell vd vs1 vs2 => Sys2Proof.Machine.execVsub cell vd vs1 vs2 s
  | .vmul cell vd vs1 vs2 => Sys2Proof.Machine.execVmul cell vd vs1 vs2 s
  | .vfma cell vd vs1 vs2 vs3 => Sys2Proof.Machine.execVfma cell vd vs1 vs2 vs3 s
  | .vmax cell vd vs1 vs2 => Sys2Proof.Machine.execVmax cell vd vs1 vs2 s
  | .vmin cell vd vs1 vs2 => Sys2Proof.Machine.execVmin cell vd vs1 vs2 s
  | .vmov cell vd vs1 => Sys2Proof.Machine.execVmov cell vd vs1 s
  | .vabs cell vd vs1 => Sys2Proof.Machine.execVabs cell vd vs1 s
  | .vneg cell vd vs1 => Sys2Proof.Machine.execVneg cell vd vs1 s
  | .vbcast cell vd imm => Sys2Proof.Machine.execVbcast cell vd imm s
  | .vaddi cell vd vs1 imm => Sys2Proof.Machine.execVaddi cell vd vs1 imm s
  | .vmuli cell vd vs1 imm => Sys2Proof.Machine.execVmuli cell vd vs1 imm s
  | .vrsum cell vd vs1 => Sys2Proof.Machine.execVrsum cell vd vs1 s
  | .vrmax cell vd vs1 => Sys2Proof.Machine.execVrmax cell vd vs1 s
  | .vmsk cell vd vs1 ra imm errs => Sys2Proof.Machine.execVmsk cell vd vs1 ra imm errs s
  | .exp2 cell vd vs => Sys2Proof.Machine.execExp2 cell vd vs s
  | .log2 cell vd vs => Sys2Proof.Machine.execLog2 cell vd vs s
  | .statClr cell mask => Sys2Proof.Machine.execStatClr cell mask s
  | .statMax cell slot v lanes => Sys2Proof.Machine.execStatMax cell slot v lanes s
  | .statSum cell slot v lanes => Sys2Proof.Machine.execStatSum cell slot v lanes s
  | .statRead cell slot v => Sys2Proof.Machine.execStatRead cell slot v s
  | .moveDesc cell ra errs => Sys2Proof.Machine.execMoveDesc cell ra errs s
  | .moveFlags cell ra => Sys2Proof.Machine.execMoveFlags cell ra s
  | .semWait cell sem n peek => Sys2Proof.Machine.execSemWait cell sem n peek s
  | .semWaitGrant cell sem => Sys2Proof.Machine.execSemWaitGrant cell sem s
  | .semPost cell sem inc remote target => Sys2Proof.Machine.execSemPost cell sem inc remote target s
  | .swap cell region => Sys2Proof.Machine.execSwap cell region s
  | .loopBegin cell k body => Sys2Proof.Machine.execLoopBegin cell k body s
  | .loopKset cell k value => Sys2Proof.Machine.execLoopKset cell k value s
  | .loopAset cell a value => Sys2Proof.Machine.execLoopAset cell a value s
  | .loopAadd cell a addend => Sys2Proof.Machine.execLoopAadd cell a addend s
  | .fence cell mask => Sys2Proof.Machine.execFence cell mask s
  | .sequencerWaitEnd cell errs => Sys2Proof.Machine.execSequencerWaitEnd cell errs s
  | .operationRetire cell q => Sys2Proof.Machine.execOperationRetire cell q s
  -- windows, credits and semaphores (07)
  | .windowWrite src addr data poison mesh => Sys2Proof.Machine.execWindowWrite src addr data poison mesh s
  | .windowRead src addr err mesh => Sys2Proof.Machine.execWindowRead src addr err mesh s
  | .windowWriteAck e index errs => Sys2Proof.Machine.execWindowWriteAck e index errs s
  | .put src addr data poison => Sys2Proof.Machine.execPut src addr data poison s
  | .get src addr len errs => Sys2Proof.Machine.execGet src addr len errs s
  | .semAdd src cell sem inc => Sys2Proof.Machine.execSemAdd src cell sem inc s
  | .creditAdd src cell counter units => Sys2Proof.Machine.execCreditAdd src cell counter units s
  -- streaming engines (08) and codec (10)
  | .descriptorAdmit e q => Sys2Proof.Machine.execDescriptorAdmit e q s
  | .transferIssue e q errs => Sys2Proof.Machine.execTransferIssue e q errs s
  | .transferComplete e index errs => Sys2Proof.Machine.execTransferComplete e index errs s
  | .farTierTimeout cluster index => Sys2Proof.Machine.execFarTierTimeout cluster index s
  | .blockDecode e index => Sys2Proof.Machine.execBlockDecode e index s
  | .blockPack cluster index errs => Sys2Proof.Machine.execBlockPack cluster index errs s
  | .packerResultRead context page storedLines spilled spillPage => Sys2Proof.Machine.execPackerResultRead context page storedLines spilled spillPage s
  | .quarantineRelease context page => Sys2Proof.Machine.execQuarantineRelease context page s
  -- stack memory and the caldera (09)
  | .calderaRead src addr err mesh => Sys2Proof.Machine.execCalderaRead src addr err mesh s
  | .calderaWrite src addr data poison mesh => Sys2Proof.Machine.execCalderaWrite src addr data poison mesh s
  | .birsp addr => Sys2Proof.Machine.execBirsp addr s
  | .lineFill addr owner => Sys2Proof.Machine.execLineFill addr owner s
  | .stackRead addr owner errs => Sys2Proof.Machine.execStackRead addr owner errs s
  | .stackWrite addr owner data poison => Sys2Proof.Machine.execStackWrite addr owner data poison s
  | .rowRepair stack row => Sys2Proof.Machine.execRowRepair stack row s
  | .patrolScrub addr errs => Sys2Proof.Machine.execPatrolScrub addr errs s
  | .stackLinkFlitError stack group at_ => Sys2Proof.Machine.execStackLinkFlitError stack group at_ s
  | .stackLinkRetrain stack failedTx failedRx => Sys2Proof.Machine.execStackLinkRetrain stack failedTx failedRx s
  | .atomic src op size addr operand compare => Sys2Proof.Machine.execAtomic src op size addr operand compare s
  | .lineReduction src op addr data => Sys2Proof.Machine.execLineReduction src op addr data s
  | .calderaWayRetire die slice set way => Sys2Proof.Machine.execCalderaWayRetire die slice set way s
  | .viaductFlitError quarter => Sys2Proof.Machine.execViaductFlitError quarter s
  | .dieError die => Sys2Proof.Machine.execDieError die s
  | .cxlMemWrite addr data => Sys2Proof.Machine.execCxlMemWrite addr data s
  | .cxlMemRead addr => Sys2Proof.Machine.execCxlMemRead addr s
  -- registers (14)
  | .hxDbell fn q tail posted => Sys2Proof.Machine.execHxDbell fn q tail posted s
  | .hxCqdb fn q head => Sys2Proof.Machine.execHxCqdb fn q head s
  | .hxEvqHead fn head => Sys2Proof.Machine.execHxEvqHead fn head s
  | .ringEnable fn event vector cqLog2 sqLog2 => Sys2Proof.Machine.execRingEnable fn event vector cqLog2 sqLog2 s
  | .ringDisable fn event => Sys2Proof.Machine.execRingDisable fn event s
  | .hostWindowEntryWrite fn index offset size value => Sys2Proof.Machine.execHostWindowEntryWrite fn index offset size value s
  | .exposureEntryWrite fn index word value => Sys2Proof.Machine.execExposureEntryWrite fn index word value s
  | .rcRegisterRead fn offset => Sys2Proof.Machine.execRcRegisterRead fn offset s
  | .hxPwrAlarm fn value => Sys2Proof.Machine.execHxPwrAlarm fn value s
  | .registerWrite fn offset value => Sys2Proof.Machine.execRegisterWrite fn offset value s
  | .packetFetch q => Sys2Proof.Machine.execPacketFetch q s
  | .longCommandEnd q sqPos => Sys2Proof.Machine.execLongCommandEnd q sqPos s
  -- commands (15)
  | .nop h => Sys2Proof.Machine.execNop h s
  | .identify h dst => Sys2Proof.Machine.execIdentify h dst s
  | .capRead h id dst => Sys2Proof.Machine.execCapRead h id dst s
  | .queueCreate h sqBase cqBase sqLog2 cqLog2 vector => Sys2Proof.Machine.execQueueCreate h sqBase cqBase sqLog2 cqLog2 vector s
  | .queueDelete h queue => Sys2Proof.Machine.execQueueDelete h queue s
  | .partCreate h partition keepWays mask0 mask1 maxContexts maxQueues => Sys2Proof.Machine.execPartCreate h partition keepWays mask0 mask1 maxContexts maxQueues s
  | .partDestroy h partition zeroRanges => Sys2Proof.Machine.execPartDestroy h partition zeroRanges s
  | .keyInstall h blob => Sys2Proof.Machine.execKeyInstall h blob s
  | .dumpKeySet h blob => Sys2Proof.Machine.execDumpKeySet h blob s
  | .attestQuote h nonce selection dst dstBytes => Sys2Proof.Machine.execAttestQuote h nonce selection dst dstBytes s
  | .fwStage h src imageBytes => Sys2Proof.Machine.execFwStage h src imageBytes s
  | .fwActivate h resetNow => Sys2Proof.Machine.execFwActivate h resetNow s
  | .bulkLoad h src dst bytes => Sys2Proof.Machine.execBulkLoad h src dst bytes s
  | .bulkStore h src dst bytes => Sys2Proof.Machine.execBulkStore h src dst bytes s
  | .calderaInval h base size => Sys2Proof.Machine.execCalderaInval h base size s
  | .rangeAttr h index entry => Sys2Proof.Machine.execRangeAttr h index entry s
  | .scrubRange h base size mode => Sys2Proof.Machine.execScrubRange h base size mode s
  | .kvPagesMap h context op spill count list => Sys2Proof.Machine.execKvPagesMap h context op spill count list s
  | .tableLoad h context record => Sys2Proof.Machine.execTableLoad h context record s
  | .tableActivate h context slot frame => Sys2Proof.Machine.execTableActivate h context slot frame s
  | .encodeRange h p => Sys2Proof.Machine.execEncodeRange h p s
  | .decodeCheck h context walk expectUnits count src => Sys2Proof.Machine.execDecodeCheck h context walk expectUnits count src s
  | .ctxCreate h p => Sys2Proof.Machine.execCtxCreate h p s
  | .ctxDestroy h context scrub => Sys2Proof.Machine.execCtxDestroy h context scrub s
  | .ctxPin h context pin => Sys2Proof.Machine.execCtxPin h context pin s
  | .ctxEvict h context => Sys2Proof.Machine.execCtxEvict h context s
  | .ctxQuery h context dst => Sys2Proof.Machine.execCtxQuery h context dst s
  | .acctRead h scope id dst => Sys2Proof.Machine.execAcctRead h scope id dst s
  | .schedLoad h context src imageBytes => Sys2Proof.Machine.execSchedLoad h context src imageBytes s
  | .schedUnload h context bank => Sys2Proof.Machine.execSchedUnload h context bank s
  | .stepSubmit h context manifestBytes manifest => Sys2Proof.Machine.execStepSubmit h context manifestBytes manifest s
  | .kernelLaunch h context bucketId inputAddr outputAddr => Sys2Proof.Machine.execKernelLaunch h context bucketId inputAddr outputAddr s
  | .stepAbort h context stepSeq => Sys2Proof.Machine.execStepAbort h context stepSeq s
  | .frameConfig h p => Sys2Proof.Machine.execFrameConfig h p s
  | .groupForm h p => Sys2Proof.Machine.execGroupForm h p s
  | .groupLeave h => Sys2Proof.Machine.execGroupLeave h s
  | .linkTrain h portMask op => Sys2Proof.Machine.execLinkTrain h portMask op s
  | .linkKeyRotate h portMask newExchange => Sys2Proof.Machine.execLinkKeyRotate h portMask newExchange s
  | .memberExclude h rank => Sys2Proof.Machine.execMemberExclude h rank s
  | .powerCapSet h cap => Sys2Proof.Machine.execPowerCapSet h cap s
  | .powerPrioritySet h b0 b1 b2 => Sys2Proof.Machine.execPowerPrioritySet h b0 b1 b2 s
  | .powerRead h dst => Sys2Proof.Machine.execPowerRead h dst s
  | .vfTableRead h dst => Sys2Proof.Machine.execVfTableRead h dst s
  | .calibrate h => Sys2Proof.Machine.execCalibrate h s
  | .cvRun h p => Sys2Proof.Machine.execCvRun h p s
  | .cvSave h stream dst => Sys2Proof.Machine.execCvSave h stream dst s
  | .cvRestore h stream src => Sys2Proof.Machine.execCvRestore h stream src s
  | .resetDomain h cls number => Sys2Proof.Machine.execResetDomain h cls number s
  | .healthRead h dst dstBytes => Sys2Proof.Machine.execHealthRead h dst dstBytes s
  | .hangPolicySet h action => Sys2Proof.Machine.execHangPolicySet h action s
  | .spareMapRead h dst => Sys2Proof.Machine.execSpareMapRead h dst s
  | .marginRun h stack kind dst => Sys2Proof.Machine.execMarginRun h stack kind dst s
  | .traceConfig h enable ring ringBytes => Sys2Proof.Machine.execTraceConfig h enable ring ringBytes s
  | .counterRead h cls first count dst => Sys2Proof.Machine.execCounterRead h cls first count dst s
  | .waitgraphRead h dst dstBytes => Sys2Proof.Machine.execWaitgraphRead h dst dstBytes s
  | .dumpRead h dumpId dst dstBytes => Sys2Proof.Machine.execDumpRead h dumpId dst dstBytes s
  | .stepGate h op commands => Sys2Proof.Machine.execStepGate h op commands s
  | .cfgRead h key => Sys2Proof.Machine.execCfgRead h key s
  | .cfgWrite h key value => Sys2Proof.Machine.execCfgWrite h key value s
  | .cfgCompact h select => Sys2Proof.Machine.execCfgCompact h select s
  -- the CXL port (14)
  | .flr fn => Sys2Proof.Machine.execFlr fn s
  | .hotReset => Sys2Proof.Machine.execHotReset s
  | .cxlLinkTraining width rate flit256 => Sys2Proof.Machine.execCxlLinkTraining width rate flit256 s
  | .atsInvalidation base size => Sys2Proof.Machine.execAtsInvalidation base size s
  | .ideFail p => Sys2Proof.Machine.execIdeFail p s
  -- links and group (13)
  | .flitReceive port raw fec => Sys2Proof.Machine.execFlitReceive port raw fec s
  | .recordReceive port vc => Sys2Proof.Machine.execRecordReceive port vc s
  | .write m => Sys2Proof.Machine.execWrite m s
  | .reduce m => Sys2Proof.Machine.execReduce m s
  | .readReq m => Sys2Proof.Machine.execReadReq m s
  | .readResp m => Sys2Proof.Machine.execReadResp m s
  | .post m => Sys2Proof.Machine.execPost m s
  | .fenceReq m => Sys2Proof.Machine.execFenceReq m s
  | .fenceAck m => Sys2Proof.Machine.execFenceAck m s
  | .tickMessage at_ m => Sys2Proof.Machine.execTickMessage at_ m s
  | .plan at_ m => Sys2Proof.Machine.execPlan at_ m s
  | .late m => Sys2Proof.Machine.execLate m s
  | .heartbeat m => Sys2Proof.Machine.execHeartbeat m s
  | .abort m => Sys2Proof.Machine.execAbort m s
  | .group m => Sys2Proof.Machine.execGroup m s
  | .fecLockLoss port lane => Sys2Proof.Machine.execFecLockLoss port lane s
  | .laneErrorRate port lane => Sys2Proof.Machine.execLaneErrorRate port lane s
  | .trainingPhase port phase e => Sys2Proof.Machine.execTrainingPhase port phase e s
  | .keyRotation port sending => Sys2Proof.Machine.execKeyRotation port sending s
  | .joinWindowClose => Sys2Proof.Machine.execJoinWindowClose s
  | .heartbeatTimeout rank => Sys2Proof.Machine.execHeartbeatTimeout rank s
  | .collectiveOpStart engine index => Sys2Proof.Machine.execCollectiveOpStart engine index s
  | .collectiveOpComplete engine index => Sys2Proof.Machine.execCollectiveOpComplete engine index s
  | .collectiveTimeout engine index => Sys2Proof.Machine.execCollectiveTimeout engine index s
  -- residency (12)
  | .blockedGraceExpiry => Sys2Proof.Machine.execBlockedGraceExpiry s
  | .residencyStall context => Sys2Proof.Machine.execResidencyStall context s
  | .evictionHoldExpiry context => Sys2Proof.Machine.execEvictionHoldExpiry context s
  | .evictionComplete context => Sys2Proof.Machine.execEvictionComplete context s
  | .admissionComplete context => Sys2Proof.Machine.execAdmissionComplete context s
  | .hostAccessTimeout access context entry => Sys2Proof.Machine.execHostAccessTimeout access context entry s
  -- power, thermal and pins (17, 20)
  | .pwrbrkAssert at_ durationNs => Sys2Proof.Machine.execPwrbrkAssert at_ durationNs s
  | .brakeRelease deassertedNs => Sys2Proof.Machine.execBrakeRelease deassertedNs s
  | .stuckLineAlarm => Sys2Proof.Machine.execStuckLineAlarm s
  | .inputUndervoltage centivolts durationUs => Sys2Proof.Machine.execInputUndervoltage centivolts durationUs s
  | .inputPowerDown centivolts durationUs => Sys2Proof.Machine.execInputPowerDown centivolts durationUs s
  | .railFault order => Sys2Proof.Machine.execRailFault order s
  | .auxLoss => Sys2Proof.Machine.execAuxLoss s
  | .modulePowerUp => Sys2Proof.Machine.execModulePowerUp s
  | .powerOff => Sys2Proof.Machine.execPowerOff s
  | .powerOn => Sys2Proof.Machine.execPowerOn s
  | .hxMcAlert value => Sys2Proof.Machine.execHxMcAlert value s
  | .setdasa staticAddr dynamicAddr => Sys2Proof.Machine.execSetdasa staticAddr dynamicAddr s
  | .entdaa dynamicAddr => Sys2Proof.Machine.execEntdaa dynamicAddr s
  | .sclStuck lowMs => Sys2Proof.Machine.execSclStuck lowMs s
  | .calibration measured => Sys2Proof.Machine.execCalibration measured s
  | .sensorDisagree pair reading0 reading1 => Sys2Proof.Machine.execSensorDisagree pair reading0 reading1 s
  | .thermalSample dieTemps stackTemps => Sys2Proof.Machine.execThermalSample dieTemps stackTemps s
  | .thermalRecovery => Sys2Proof.Machine.execThermalRecovery s
  | .referenceClockLoss clock => Sys2Proof.Machine.execReferenceClockLoss clock s
  -- reset, boot and health (16, 18)
  | .rstInAssert durationNs => Sys2Proof.Machine.execRstInAssert durationNs s
  | .moduleBoot rngOk pufOk => Sys2Proof.Machine.execModuleBoot rngOk pufOk s
  | .moduleReady => Sys2Proof.Machine.execModuleReady s
  | .powerCycleTimeout => Sys2Proof.Machine.execPowerCycleTimeout s
  | .hangDetect u => Sys2Proof.Machine.execHangDetect u s
  | .sampleComplete => Sys2Proof.Machine.execSampleComplete s
  | .coreHeartbeatMiss die core at_ => Sys2Proof.Machine.execCoreHeartbeatMiss die core at_ s
  | .resetComplete d selfTestOk => Sys2Proof.Machine.execResetComplete d selfTestOk s
  | .resetTimeout d => Sys2Proof.Machine.execResetTimeout d s
  -- attestation over DOE (16)
  | .getVersion => Sys2Proof.Machine.execGetVersion s
  | .getCapabilities => Sys2Proof.Machine.execGetCapabilities s
  | .negotiateAlgorithms rsa3072 sha384 secp384r1 aes256gcm => Sys2Proof.Machine.execNegotiateAlgorithms rsa3072 sha384 secp384r1 aes256gcm s
  | .getDigests => Sys2Proof.Machine.execGetDigests s
  | .getCertificate slot offset length => Sys2Proof.Machine.execGetCertificate slot offset length s
  | .challenge slot nonce => Sys2Proof.Machine.execChallenge slot nonce s
  | .getMeasurements index sign nonce => Sys2Proof.Machine.execGetMeasurements index sign nonce s
  | .keyExchange slot exchange => Sys2Proof.Machine.execKeyExchange slot exchange s
  | .finish verifyOk => Sys2Proof.Machine.execFinish verifyOk s
  | .endSession => Sys2Proof.Machine.execEndSession s
  | .getSlhCert offset length => Sys2Proof.Machine.execGetSlhCert offset length s
  | .getSlhSig => Sys2Proof.Machine.execGetSlhSig s
  -- test port (19) and the rows added at the end of the table
  | .bypass tdi => Sys2Proof.Machine.execBypass tdi s
  | .samplePreload pins => Sys2Proof.Machine.execSamplePreload pins s
  | .extest pins => Sys2Proof.Machine.execExtest pins s
  | .idcode => Sys2Proof.Machine.execIdcode s
  | .auxApplied => Sys2Proof.Machine.execAuxApplied s
  | .undervoltageRelease centivolts durationUs => Sys2Proof.Machine.execUndervoltageRelease centivolts durationUs s
  | .hostReadUnanswered q sqPos bytesDone => Sys2Proof.Machine.execHostReadUnanswered q sqPos bytesDone s
  | .ideKm p => Sys2Proof.Machine.execIdeKm p s
  | .doeDiscovery index => Sys2Proof.Machine.execDoeDiscovery index s
  | .statusMailboxRefresh => Sys2Proof.Machine.execStatusMailboxRefresh s

end Sys2Proof.Machine
end

