-- ==== Sys2Proof/Safety.lean ====
section
/-! DEFINITION. Safety.lean: the terms in which claims about runs are made: the canonical form of the module's sparse arrays
and byte memories, the invariant of the whole state, and when a step answers a next state. -/

namespace Sys2Proof.Machine

open Sys2Proof

/-- A sparse array in canonical form: indices strictly rise, and no entry equals the default `d`. -/
def mapWf {α : Type} [DecidableEq α] (d : α) : SMap α → Bool
  | [] => true
  | [(_, v)] => decide (v ≠ d)
  | (k, v) :: (l, w) :: t => decide (v ≠ d) && decide (k < l) && mapWf d ((l, w) :: t)

/-- The canonical form of a byte memory: an unlisted byte reads as zero. -/
def memoryWf (m : List Host.Cell) : Bool := mapWf (0 : Byte) m

/-- The canonical form of the module's memory: addresses strictly rise, and no entry equals what an unlisted address reads as. -/
def Memory.wf (m : Memory) : Bool := memoryWf m.bytes

/-- The stacks' memory and the host's memory are in canonical form. -/
def MemoriesCanonical (s : State) : Prop := s.mem.wf = true ∧ memoryWf s.host.mem = true

/-- The outcome is a next state. -/
def Answers (o : Host.Outcome State Fault Refusal) : Prop := ∃ t, o = .next t

/-- The outcome is a next state with a property. -/
def AnswersWith (o : Host.Outcome State Fault Refusal) (P : State → Prop) : Prop := ∃ t, o = .next t ∧ P t

/-! ### Cells -/

/-- A cell whose sequencer is at an operation: its tile runs and has not faulted, nothing is held, and the operation is the next one
of the tile (R91, R108, R110). -/
def CellReady (s : State) (cell : Nat) (op : TileOp) : Prop := cellOk cell = true ∧ canIssue (cellOf s cell) op = true

/-- A cell that can issue a queued operation: its sequencer is at it, and the operation's queue has room. -/
def CellFree (s : State) (cell : Nat) (op : TileOp) (q : CellQueue) : Prop := CellReady s cell op ∧ queueFull (cellOf s cell) q = false

/-- Between two states only one cell, the operation counters of its cluster and the model's own counter differ. -/
def OnlyCell (s t : State) (cell : Nat) : Prop :=
  { t with cells := s.cells, clusters := s.clusters, freeCount := s.freeCount } = s
    ∧ (∀ n, n ≠ cell → cellOf t n = cellOf s n)
    ∧ (∀ n, clusterOf t n = { clusterOf s n with ops := (clusterOf t n).ops })
    ∧ (∀ n, n ≠ cell / 16 → clusterOf t n = clusterOf s n)

/-- An operation as it stands in its queue, with no reads, writes, rows to feed, descriptor or flags. -/
def plainIssued (q : CellQueue) (op : TileOp) : Issued :=
  { q := q, op := op, reads := [], writes := [], feeds := [], desc := none, flagsAt := none, raised := quiet }

/-- A queued operation has been issued: `b` is its cell as the operation's reads found it, `i` the operation as it stands last in
its queue, with the writes it has still to perform and the flags it has still to raise (R93, R101). Of the cell, only a vector register,
an accumulator, a statistics slot and the byte counts may differ beside; the sequencer has moved on. -/
def IssuesAs (s t : State) (cell : Nat) (b : Cell) (i : Issued) : Prop :=
  OnlyCell s t cell ∧
  let d := cellOf t cell
  let x := closeLoops b.loops b.k b.pc
  d = { b with
    v := d.v, acc := d.acc, slots := d.slots, bytes := d.bytes, pc := x.1, loops := x.2.1, k := x.2.2, held := none
    issued := b.issued ++ [i], progress := b.progress + 1 }

/-- A queued operation whose one result is a vector register: every other register, the accumulators and the slots stay, and the
operation has the flags to raise that its lanes raised (R82). -/
def WritesLanes (o : Host.Outcome State Fault Refusal) (s : State) (cell : Nat) (b : Cell) (op : TileOp) (q : CellQueue) (reads : List Nat) (vd : Nat)
    (r : List (F32 × Raised)) : Prop :=
  AnswersWith o (fun t =>
    let d := cellOf t cell
    IssuesAs s t cell b { plainIssued q op with reads := reads, raised := raiseAll (r.map (·.2)) }
      ∧ (∀ v, vReg d v = if v = vd then r.map (·.1) else vReg b v) ∧ d.acc = b.acc ∧ d.slots = b.slots)

/-- The tile has operations left, or work that has not retired, after the one at hand: passing it does not end the tile. -/
def TileGoesOn (c : Cell) : Prop := c.issued ≠ [] ∨ (closeLoops c.loops c.k c.pc).1 < c.tile.length

/-- The physical scratchpad offset of a tile offset (R153). -/
def tilePhys (s : State) (cell o : Nat) : Nat := tileRow (layoutOf s) (cellOf s cell).half (o / rowBytes) * rowBytes + o % rowBytes

/-- The scratchpad byte at a physical offset. -/
def spByte (s : State) (cell o : Nat) : Byte := readByte (cellOf s cell).sp o

/-! ### Pages -/

/-- The lines of a page's frame (R237, R272). -/
def pageLines (x : Ctx) (g : Page) : Nat := if g.spill then 35 else x.params.frameLines

/-! ### Messages -/

/-- A message whose header fields have their widths arrives on a port that is up (Table 13-5, R297, R298). -/
def MsgArrives (s : State) (m : Msg) : Prop := msgFits m = true ∧ portUp (portOf s m.port) = true

/-- The state in which a message that passes its checks is performed: its bytes are counted on the port. -/
def received (s : State) (m : Msg) : State := countLink s m.port 1 (48 + m.data.length)

/-! ### Commands -/

/-- What every command asks before its own conditions (R338, R347, R362, R446): the gate does not hold it, the journal's
copies agree, its sender has the right of its scope, and a P command names a partition that exists; ATTEST_QUOTE alone may
be module-level. -/
def CmdReady (s : State) (i : Instr) (h : CmdHdr) : Prop :=
  gateHolds s i h = false ∧ s.rot.divergent = false ∧ (h.fn = 0 ∨ scopeOf (opcodeOf i) ≠ some .pf ∧ h.partition + 1 = h.fn)
    ∧ (scopeOf (opcodeOf i) = some .p → h.partition = 8 ∧ opcodeOf i = 0x0104 ∨ h.partition ≠ 8 ∧ (partOf s h.partition).present = true)

/-- A record of `n` bytes can be written at a destination (R350). -/
def DstReady (s : State) (h : CmdHdr) (dst n : Nat) : Prop := dstCheck s h dst n = none

/-- An object of `n` bytes can be read for a command's partition (R350). -/
def SrcReady (s : State) (h : CmdHdr) (src n : Nat) : Prop := sourceCheck s h src n = none

/-- An immediate command: `u` is the state that its effect leaves of `s`; its reply, DONE or DONE_LATE, follows at once (R349). -/
def Replies (o : Host.Outcome State Fault Refusal) (s : State) (i : Instr) (h : CmdHdr) (result result2 : Nat) (u : State) : Prop :=
  o = .next (writeReply u h (opcodeOf i) (doneStatus u s.frames.ticks) result result2 0xFFFF)

/-- A command whose change takes effect at a tick: beside what `u` says of the state, it waits for the tick `n` ticks ahead (R349). -/
def WaitsForTick (o : Host.Outcome State Fault Refusal) (s : State) (i : Instr) (h : CmdHdr) (n : Nat) (data : List Nat) (u : State) : Prop :=
  o = .next { u with host := { u.host with ticking := u.host.ticking ++ [{ op := i, data := data, hdr := h, accepted := s.frames.ticks, atTick := s.frames.ticks + n }] } }

/-- A command whose work goes on after its start: beside what `u` says of the state, it stands among the long ones, without an
outcome (R349). -/
def WorksOn (o : Host.Outcome State Fault Refusal) (s : State) (i : Instr) (h : CmdHdr) (image : List Byte) (u : State) : Prop :=
  o = .next { u with host := { u.host with long := u.host.long ++ [{ op := i, image := image, hdr := h, accepted := s.frames.ticks, reply := none }] } }

end Sys2Proof.Machine
end

