-- ==== Sys2Proof/Certificates/Slice0/Obligations.lean ====
section
/-! DEFINITION. Certificates/Slice0/Obligations.lean: the statements for the provers. Each docstring names the rules of spec/
that it states, or says what of the model it rests on. -/

open Sys2Proof Sys2Proof.Machine

/-! ### The queue of commands -/

/-- A step runs the command at the front of the queue: it is exec of that command on the state with the queue's rest. With
nothing waiting the block idles (the model's own choice, log entry 4). -/
def Obligations.StepRunsFront : Prop :=
  ∀ (s : State) (c : Instr) (rest : List Instr),
    step { s with pending := c :: rest } = exec c { s with pending := rest } ∧ step { s with pending := [] } = .next { s with pending := [] }

/-! ### Tile operations -/

/-- R81, R80, R82, R91, R108, Table 4-9: at the next operation of a running tile, VADD, VSUB, VMUL, VFMA, VMAX, VMIN, VMOV, VABS, VNEG,
VBCAST, VADDI and VMULI compute lane by lane, write vd, have the flags to raise that a lane raises, and change nothing else; an operation
that is not the next one of its tile changes nothing. The maximum and the minimum raise no flag, answer the canonical NaN where an
operand is NaN, and take +0 as greater than −0. -/
def Obligations.VectorArithmetic : Prop :=
  (∀ (s : State) (cell vd a b d : Nat) (imm : F32), vOk vd = true → vOk a = true → vOk b = true → vOk d = true →
      let c := cellOf s cell
      let x := vReg c a
      let y := vReg c b
      let z := vReg c d
      let lanes (i : Instr) (op : TileOp) (r : List (F32 × Raised)) : Prop :=
        (CellFree s cell op .vector → WritesLanes (exec i s) s cell c op .vector [] vd r) ∧ (cellOk cell = true → canIssue c op = false → exec i s = .next s)
      lanes (.vadd cell vd a b) (.vadd vd a b) (List.zipWith f32Add x y) ∧ lanes (.vsub cell vd a b) (.vsub vd a b) (List.zipWith f32Sub x y)
        ∧ lanes (.vmul cell vd a b) (.vmul vd a b) (List.zipWith f32Mul x y) ∧ lanes (.vfma cell vd a b d) (.vfma vd a b d) (lanes3 f32Fma x y z)
        ∧ lanes (.vmax cell vd a b) (.vmax vd a b) (List.zipWith (fun p q => (f32Max p q, quiet)) x y)
        ∧ lanes (.vmin cell vd a b) (.vmin vd a b) (List.zipWith (fun p q => (f32Min p q, quiet)) x y)
        ∧ lanes (.vmov cell vd a) (.vmov vd a) (x.map (fun p => (p, quiet))) ∧ lanes (.vabs cell vd a) (.vabs vd a) (x.map (fun p => (f32Abs p, quiet)))
        ∧ lanes (.vneg cell vd a) (.vneg vd a) (x.map (fun p => (f32Neg p, quiet))) ∧ lanes (.vbcast cell vd imm) (.vbcast vd imm) (List.replicate 64 (imm, quiet))
        ∧ lanes (.vaddi cell vd a imm) (.vaddi vd a imm) (x.map (fun p => f32Add p imm)) ∧ lanes (.vmuli cell vd a imm) (.vmuli vd a imm) (x.map (fun p => f32Mul p imm)))
    ∧ (∀ p q : F32, (isNaN32 p = true ∨ isNaN32 q = true) → f32Max p q = 0x7FC00000 ∧ f32Min p q = 0x7FC00000)
    ∧ f32Max 0 0x80000000 = 0 ∧ f32Max 0x80000000 0 = 0 ∧ f32Min 0 0x80000000 = 0x80000000 ∧ f32Min 0x80000000 0 = 0x80000000

/-- R114, R99, Table 4-9: VRSUM and VRMAX put the result of the fixed six-stage tree into every lane; EXP2 and LOG2 replace each lane
by the function's value. The bits that R112 and R113 leave open are free (log entry 10); exp2 of
an integer from −149 to 127, log2 of a power of two, exp2 of ±0 and log2 of 1.0 are exact. -/
def Obligations.VectorTreesAndFunctions : Prop :=
  ∀ (s : State) (cell vd a : Nat), vOk vd = true → vOk a = true →
    let c := cellOf s cell
    let x := vReg c a
    let sum := treeFold f32Add 6 x quiet
    let top := treeFold (fun p q => (f32Max p q, quiet)) 6 x quiet
    let all (r : List F32 × Raised) (i : Instr) (op : TileOp) : Prop := CellFree s cell op .vector →
      AnswersWith (exec i s) (fun t => IssuesAs s t cell c { plainIssued .vector op with raised := r.2 }
        ∧ (∀ v, vReg (cellOf t cell) v = if v = vd then List.replicate 64 (r.1.headD 0) else vReg c v) ∧ (cellOf t cell).acc = c.acc ∧ (cellOf t cell).slots = c.slots)
    all sum (.vrsum cell vd a) (.vrsum vd a) ∧ all top (.vrmax cell vd a) (.vrmax vd a)
      ∧ (CellFree s cell (.exp2 vd a) .sfu → WritesLanes (exec (.exp2 cell vd a) s) s cell c (.exp2 vd a) .sfu [] vd (x.map sfuExp2))
      ∧ (CellFree s cell (.log2 vd a) .sfu → WritesLanes (exec (.log2 cell vd a) s) s cell c (.log2 vd a) .sfu [] vd (x.map sfuLog2))
      ∧ (∀ n : Int, -149 ≤ n → n ≤ 127 →
        let power : F32 := BitVec.ofNat 32 (if -126 ≤ n then (n + 127).toNat * 2 ^ 23 else 2 ^ (n + 149).toNat)
        (sfuExp2 (intF32 n)).1 = power ∧ (sfuLog2 power).1 = intF32 n)
      ∧ (sfuExp2 0).1 = 0x3F800000 ∧ (sfuExp2 0x80000000).1 = 0x3F800000 ∧ (sfuLog2 0x3F800000).1 = 0

/-- R98, Table 4-9: VLD expands 64 elements at a[ra] + imm, each block with its scale at a[ra + 1], and VMSK keeps a lane where
the mask at a[ra] has a 1, where the addresses are in range and aligned and no row read is poisoned. The cell is as the reads find it: with
no write of an issued operation outstanding it is unchanged (R93). -/
def Obligations.VectorLoads : Prop :=
  ∀ (s : State) (cell vd a ra fmt o : Nat) (imm : BitVec 32), vOk vd = true → vOk a = true → aOk ra = true → fmt ≤ 13 →
    let c := cellOf s cell
    let len := elemBytes fmt 64
    let sl := match fmtBlock fmt with | some b => 64 / b | none => 0
    let sa := aReg c ((ra + 1) % 16)
    let r := tileRead (layoutOf s) c .vector s.freeCount o len
    let sc := tileRead (layoutOf s) r.cell .vector r.draws sa sl
    let m := aReg c ra
    let rm := tileRead (layoutOf s) c .vector s.freeCount m 8
    (CellFree s cell (.vld vd ra fmt imm) .vector → vecAddr c ra imm = some o → outOfRange o len = false → (sl = 0 ∨ outOfRange sa sl = false) →
      o % max 1 (fmtBits fmt / 8) = 0 → r.poisoned = false → sc.poisoned = false →
      WritesLanes (exec (.vld cell vd ra fmt imm []) s) s cell sc.cell (.vld vd ra fmt imm) .vector (r.rows ++ sc.rows) vd ((elemCodes (fmtBits fmt) r.bytes).zipIdx.map (fun e =>
        expand (fmtValue fmt e.1 (match fmtBlock fmt with | some b => (sc.bytes.getD (e.2 / b) 0).toNat | none => 0x7F)))))
      ∧ (CellFree s cell (.vmsk vd a ra imm) .vector → outOfRange m 8 = false → m % 8 = 0 → rm.poisoned = false →
        WritesLanes (exec (.vmsk cell vd a ra imm []) s) s cell rm.cell (.vmsk vd a ra imm) .vector rm.rows vd
          ((vReg c a).zipIdx.map (fun e => (if bit (leNat rm.bytes) e.2 then e.1 else imm, quiet))))
      ∧ ((∀ i ∈ c.issued, i.writes = []) → r.cell = c ∧ sc.cell = c ∧ rm.cell = c ∧ r.poisoned = (r.rows.any (fun x => mget false c.spPoison x)))

/-- R98, R101, R102, R144, Table 4-8: VST has 64 converted values to store at a[ra] + imm, and a block format's scales at a[ra + 1], in pieces
that hold all their bytes in order and lie in one row each. MOVE FLAGS has the status word to store at a[ra], with NV, OF, CANCEL and EMPTY
cleared; behind a MOVE DESC that waits it waits for its turn. Nothing is stored yet; registers, accumulators and slots stay. -/
def Obligations.VectorStores : Prop :=
  ∀ (s : State) (cell v ra fmt o : Nat) (sat : Bool) (imm : BitVec 32), vOk v = true → aOk ra = true → fmt ≤ 13 →
    let c := cellOf s cell
    let regs := layoutOf s
    let len := elemBytes fmt 64
    let sl := match fmtBlock fmt with | some b => 64 / b | none => 0
    let sa := aReg c ((ra + 1) % 16)
    let el := convertRow fmt sat (vReg c v)
    let m := aReg c ra
    let k := captureFlags regs c s.freeCount m
    (CellFree s cell (.vst v ra fmt sat imm) .vector → vecAddr c ra imm = some o → outOfRange o len = false → (sl = 0 ∨ outOfRange sa sl = false) →
      o % max 1 (fmtBits fmt / 8) = 0 → AnswersWith (exec (.vst cell v ra fmt sat imm) s) (fun t =>
        IssuesAs s t cell c { plainIssued .vector (.vst v ra fmt sat imm) with
            writes := tilePieces regs c o el.1 ++ (if sl = 0 then [] else tilePieces regs c sa el.2.1), raised := el.2.2 }
          ∧ (cellOf t cell).v = c.v ∧ (cellOf t cell).acc = c.acc ∧ (cellOf t cell).slots = c.slots))
      ∧ (∀ (at_ : Nat) (bs : List Byte), (tilePieces regs c at_ bs).flatMap (·.2) = bs ∧ ∀ e ∈ tilePieces regs c at_ bs, e.1 % rowBytes + e.2.length ≤ rowBytes)
      ∧ (CellFree s cell (.moveFlags ra) .mover → outOfRange m 8 = false → m % 8 = 0 → AnswersWith (exec (.moveFlags cell ra) s) (fun t =>
        let d := cellOf t cell
        (moverWaits c = false → IssuesAs s t cell k.1 { plainIssued .mover (.moveFlags ra) with writes := k.2.1 } ∧ d.nv = false ∧ d.ofl = false ∧ d.cancel = false ∧ d.empty = false)
          ∧ (moverWaits c = true → IssuesAs s t cell c { plainIssued .mover (.moveFlags ra) with flagsAt := some m })
          ∧ d.v = c.v ∧ d.acc = c.acc ∧ d.slots = c.slots))
      ∧ ((∀ i ∈ c.issued, i.raised = quiet) → k.2.1 = tilePieces regs c m (leBytes (statusWord c) 8) ∧ k.1 = { c with nv := false, ofl := false, cancel := false, empty := false })

/-- R71, R72, R95: MMA RUN on plain and block formats. Row i of the accumulator bank becomes, column by column, the sum of the
products in groups, on top of what stood there where the operation accumulates; no other row, register, slot or scratchpad byte
changes. -/
def Obligations.MatrixRun : Prop :=
  ∀ (s : State) (cell : Nat) (f : RunOp), CellFree s cell (.run f) .run → f.ok = true →
    let c := cellOf s cell
    let m := f.mMinus1 + 1
    let k := 8 * f.kUnits
    let ae := aReg c f.raElem
    let be := aReg c f.rbElem
    let aLen := elemBytes f.fmtA (m * k)
    let bLen := elemBytes f.fmtB (32 * k)
    let aSl := match fmtBlock f.fmtA with | some b => m * k / b | none => 0
    let bSl := match fmtBlock f.fmtB with | some b => 32 * k / b | none => 0
    let ra := tileRead (layoutOf s) c .run s.freeCount ae aLen
    let rb := tileRead (layoutOf s) ra.cell .run ra.draws be bLen
    let sa := tileRead (layoutOf s) rb.cell .run rb.draws (aReg c f.raScale) aSl
    let sb := tileRead (layoutOf s) sa.cell .run sa.draws (aReg c f.rbScale) bSl
    let rows := operandRows f.fmtA m k f.ta ra.bytes sa.bytes
    let cols := operandRows f.fmtB 32 k f.tb rb.bytes sb.bytes
    let g := (fmtGroup f.fmtA).getD 32
    let out (i : Nat) (row : List FVal) : List (F32 × Raised) := cols.zipIdx.map (fun e =>
      outputOf g row e.1 (if f.acc then some ((accRowOf c f.bank (f.accRow + i)).getD e.2 0) else none))
    outOfRange ae aLen = false → outOfRange be bLen = false → (aSl = 0 ∨ outOfRange (aReg c f.raScale) aSl = false) →
    (bSl = 0 ∨ outOfRange (aReg c f.rbScale) bSl = false) → ae % 32 = 0 → be % 32 = 0 →
    ra.poisoned = false → rb.poisoned = false → sa.poisoned = false → sb.poisoned = false →
    AnswersWith (exec (.mmaRun cell f []) s) (fun t =>
      let d := cellOf t cell
      IssuesAs s t cell sb.cell { plainIssued .run (.run f) with
          reads := ra.rows ++ rb.rows ++ sa.rows ++ sb.rows, raised := raiseAll (rows.zipIdx.map (fun e => raiseAll ((out e.2 e.1).map (·.2)))) }
        ∧ d.v = c.v ∧ d.slots = c.slots
        ∧ (∀ i row, rows[i]? = some row → accRowOf d f.bank (f.accRow + i) = (out i row).map (·.1))
        ∧ (∀ b i, (b ≠ f.bank ∨ i < f.accRow ∨ f.accRow + rows.length ≤ i) → b < 2 → i < 128 → accRowOf d b i = accRowOf c b i))

/-- R96, R97: MMA DRAIN to every format. The fused rows are converted and stand to be written one after another at a[rd], one output pitch
apart, and a block format's scales at a[rs], one scale pitch apart; accumulators, registers and slots stay, and the statistics rows
wait to be fed, one slot after another from the given one. -/
def Obligations.MatrixDrain : Prop :=
  ∀ (s : State) (cell : Nat) (f : DrainOp), CellFree s cell (.drain f) .drain → f.ok = true →
    let c := cellOf s cell
    let regs := layoutOf s
    let n := f.rowsMinus1 + 1
    let pitch := 16 * f.outPitch
    let de := aReg c f.rdElem
    let ds := aReg c f.rdScale
    let rf := aReg c f.rf
    let scLen := match fmtBlock f.fmtOut with | some b => 32 / b | none => 0
    let scPitch := match fmtBlock f.fmtOut with | some b => pitch * 8 / (fmtBits f.fmtOut * b) | none => 0
    let fLen := fusionBytes f.fusion n
    let fo := tileRead regs c .drain s.freeCount rf fLen
    let ws := elemCodes 32 fo.bytes
    let row (i : Nat) : List (F32 × Raised) := (accRowOf c f.bank (f.accRow + i)).zipIdx.map (fun e => fuse f.fusion e.1 (fusionValue f.fusion ws i e.2))
    let out (i : Nat) : List Byte × List Byte × Raised := convertRow f.fmtOut f.sat ((row i).map (·.1))
    outOfRange de ((n - 1) * pitch + elemBytes f.fmtOut 32) = false → (scLen = 0 ∨ outOfRange ds ((n - 1) * scPitch + scLen) = false) →
    (fLen = 0 ∨ outOfRange rf fLen = false) → de % 32 = 0 → fo.poisoned = false →
    AnswersWith (exec (.mmaDrain cell f []) s) (fun t =>
      let d := cellOf t cell
      IssuesAs s t cell fo.cell { plainIssued .drain (.drain f) with
          reads := fo.rows
          writes := (List.range n).flatMap (fun i => tilePieces regs c (de + i * pitch) (out i).1 ++ (if scLen = 0 then [] else tilePieces regs c (ds + i * scPitch) (out i).2.1))
          feeds := if f.statMode = 0 then [] else (List.range n).map (fun i => ((f.statSlot + i) % 8, decide (f.statMode = 2), (row i).map (·.1)))
          raised := raiseBoth (raiseAll ((List.range n).map (fun i => raiseAll ((row i).map (·.2))))) (raiseAll ((List.range n).map (fun i => (out i).2.2))) }
        ∧ d.acc = c.acc ∧ d.v = c.v ∧ d.slots = c.slots)

/-- R121, R100, R120 to R125: the statistics operations, on the cell as they find it: rows of issued drains may have reached their slots, in
order; with none still to be fed it is the cell itself. CLR clears the slots of its mask, MAX and SUM fold lanes into one slot, READ writes
the slot's lanes into a register; every other slot and register stays. MAX changes vmax and max_seen alone; a NaN lane makes vmax the
canonical NaN, which stays until the slot is cleared. -/
def Obligations.Statistics : Prop :=
  ∀ (s : State) (cell k v n : Nat) (mask : BitVec 8), k < 8 → vOk v = true → 1 ≤ n → n ≤ 64 →
    let c := cellOf s cell
    let b := (settled c s.freeCount).1
    let lanes := (vReg c v).take n
    let slots (i : Instr) (op : TileOp) (r : Raised) (f : Nat → StatSlot) : Prop := CellFree s cell op .stat → AnswersWith (exec i s) (fun t =>
      IssuesAs s t cell b { plainIssued .stat op with raised := r } ∧ (cellOf t cell).acc = c.acc ∧ (cellOf t cell).v = c.v ∧ ∀ i, slotOf (cellOf t cell) i = f i)
    slots (.statClr cell mask) (.statClr mask) quiet (fun i => if i < 8 ∧ bit mask.toNat i = true then StatSlot.reset else slotOf b i)
      ∧ slots (.statMax cell k v n) (.statMax k v n) quiet (fun i => if i = k then slotMax (slotOf b k) lanes else slotOf b i)
      ∧ slots (.statSum cell k v n) (.statSum k v n) (slotSum (slotOf b k) lanes).2 (fun i => if i = k then (slotSum (slotOf b k) lanes).1 else slotOf b i)
      ∧ (CellFree s cell (.statRead k v) .stat → AnswersWith (exec (.statRead cell k v) s) (fun t =>
        IssuesAs s t cell b { plainIssued .stat (.statRead k v) with raised := (slotRead (slotOf b k)).2 } ∧ (cellOf t cell).acc = c.acc ∧ (cellOf t cell).slots = b.slots
          ∧ ∀ i, vReg (cellOf t cell) i = if i = v then (slotRead (slotOf b k)).1 else vReg c i))
      ∧ ((∀ i ∈ c.issued, i.feeds = []) → b = c)
      ∧ ∀ (x : StatSlot) (l : List F32), slotMax x l = { x with vmax := l.foldl f32Max x.vmax, maxSeen := x.maxSeen || !l.isEmpty }
        ∧ ((∃ p ∈ l, isNaN32 p = true) → (slotMax x l).vmax = 0x7FC00000)
        ∧ (x.vmax = 0x7FC00000 → (slotMax x l).vmax = 0x7FC00000 ∧ (slotSum x l).1.vmax = 0x7FC00000)

/-- R101: MOVE DESC hands the 64 bytes at a[ra] to the mover's tile queue, as accepted work of the running context and its step, where fewer
than 8 transfers are outstanding and nothing of the mover queue waits; elsewhere the descriptor waits in the operation. -/
def Obligations.MoveDescriptor : Prop :=
  ∀ (s : State) (cell ra : Nat), CellFree s cell (.moveDesc ra) .mover → aOk ra = true →
    let c := cellOf s cell
    let o := aReg c ra
    let r := tileRead (layoutOf s) c .mover s.freeCount o 64
    let b := r.cell
    let q : QDesc := { raw := r.bytes, generation := 0, context := s.residency.current.getD 0xFFFF, step := ((runningCtx s).bind (·.inFlight)).elim 0 (·.id), tile := c.tileNo, misaligned := decide (o % 64 ≠ 0) }
    let x := closeLoops c.loops c.k c.pc
    outOfRange o 64 = false → r.poisoned = false → TileGoesOn c →
    AnswersWith (exec (.moveDesc cell ra []) s) (fun t =>
      let d := cellOf t cell
      (c.mover.xfers.length < 8 → moverWaits c = false → OnlyCell s t cell ∧ d = { b with
          mover := { c.mover with tileQ := c.mover.tileQ ++ [q], ledger := { c.mover.ledger with accepted := c.mover.ledger.accepted + 1 } }
          bytes := d.bytes, pc := x.1, loops := x.2.1, k := x.2.2, held := none, progress := c.progress + 1 })
        ∧ (8 ≤ c.mover.xfers.length ∨ moverWaits c = true → IssuesAs s t cell b { plainIssued .mover (.moveDesc ra) with reads := r.rows, desc := some q })
        ∧ d.v = c.v ∧ d.acc = c.acc ∧ d.slots = c.slots)

/-- R103, R105, R106, R107, R153, R163, R164, Table 4-12: the sequencer's own operations, once they can complete. SEM_WAIT takes n
unless it peeks; SEM_POST adds to a count that stays within 65,535; SWAP exchanges the halves of its region; ASET and AADD write a
register, AADD modulo 2^48; FENCE only passes. -/
def Obligations.SequencerOperations : Prop :=
  ∀ (s : State) (cell j n r target a : Nat) (peek remote : Bool) (v : BitVec 48) (w : BitVec 32) (mask : BitVec 6),
    j < 64 → 1 ≤ n → n < 65536 → r < 16 → cellOk target = true → (remote = true ∨ target = 0) → aOk a = true → mask ≠ 0 → TileGoesOn (cellOf s cell) →
    let c := cellOf s cell
    let passed : Cell := { c with pc := (closeLoops c.loops c.k c.pc).1, loops := (closeLoops c.loops c.k c.pc).2.1, k := (closeLoops c.loops c.k c.pc).2.2, progress := c.progress + 1, held := none }
    let dest := if remote then target else cell
    (CellReady s cell (.semWait j n peek) → n ≤ (semOf c j).value → AnswersWith (exec (.semWait cell j n peek) s) (fun t => OnlyCell s t cell
        ∧ (∀ i, semOf (cellOf t cell) i = if i = j ∧ peek = false then { semOf c j with value := (semOf c j).value - n } else semOf c i)
        ∧ cellOf t cell = { passed with sem := (cellOf t cell).sem }))
      ∧ (CellReady s cell (.semPost j n remote target) → writesDone c = true → (semOf (cellOf s dest) j).value + n ≤ 65535 →
        AnswersWith (exec (.semPost cell j n remote target) s) (fun t =>
          (∀ i, semOf (cellOf t dest) i = if i = j then { semOf (cellOf s dest) j with value := (semOf (cellOf s dest) j).value + n } else semOf (cellOf s dest) i)
            ∧ (cellOf t cell).pc = passed.pc ∧ (∀ m, m ≠ cell → m ≠ dest → cellOf t m = cellOf s m) ∧ { t with cells := s.cells, mem := s.mem } = s
            ∧ t.mem = (crossing s 0 (cell / 2048) (dest / 2048) 8).mem))
      ∧ (CellReady s cell (.swap r) → accessesDone c = true → AnswersWith (exec (.swap cell r) s) (fun t => OnlyCell s t cell
        ∧ (∀ i, mget false (cellOf t cell).half i = if i = r then !(mget false c.half r) else mget false c.half i) ∧ cellOf t cell = { passed with half := (cellOf t cell).half }))
      ∧ (CellReady s cell (.fence mask) → fenceDone c mask = true → AnswersWith (exec (.fence cell mask) s) (fun t => OnlyCell s t cell ∧ cellOf t cell = passed))
      ∧ (CellReady s cell (.loopAset a v) → AnswersWith (exec (.loopAset cell a v) s) (fun t => OnlyCell s t cell ∧ (∀ i, mget 0 (cellOf t cell).a i = if i = a then v else mget 0 c.a i)
        ∧ cellOf t cell = { passed with a := (cellOf t cell).a }))
      ∧ (CellReady s cell (.loopAadd a w) → AnswersWith (exec (.loopAadd cell a w) s) (fun t => OnlyCell s t cell
        ∧ (∀ i, mget 0 (cellOf t cell).a i = if i = a then mget 0 c.a a + w.signExtend 48 else mget 0 c.a i) ∧ cellOf t cell = { passed with a := (cellOf t cell).a }))

/-- R106, Table 4-12: LOOP KSET writes a k register; LOOP BEGIN enters its body while k is not 0, and skips it where k is 0. The
last operation of a body counts k down and goes back to the body's first operation until k is 0. -/
def Obligations.Loops : Prop :=
  ∀ (s : State) (cell k value body : Nat), kOk k = true → value < 65536 → 1 ≤ body → body ≤ 256 →
    let c := cellOf s cell
    (CellReady s cell (.loopKset k value) → c.loops = [] → c.pc + 1 < c.tile.length → AnswersWith (exec (.loopKset cell k value) s) (fun t => OnlyCell s t cell
      ∧ ∀ i, mget 0 (cellOf t cell).k i = if i = k then BitVec.ofNat 16 value else mget 0 c.k i))
      ∧ (CellReady s cell (.loopBegin k body) → mget 0 c.k k ≠ 0 → c.pc + body < c.tile.length → AnswersWith (exec (.loopBegin cell k body) s) (fun t => OnlyCell s t cell
        ∧ (cellOf t cell).pc = c.pc + 1 ∧ (cellOf t cell).loops = { k := k, first := c.pc + 1, last := c.pc + body } :: c.loops ∧ (cellOf t cell).k = c.k))
      ∧ (CellReady s cell (.loopBegin k body) → mget 0 c.k k = 0 → c.loops = [] → c.pc + body + 1 < c.tile.length → AnswersWith (exec (.loopBegin cell k body) s) (fun t => OnlyCell s t cell
        ∧ (cellOf t cell).pc = c.pc + body + 1 ∧ (cellOf t cell).loops = [] ∧ (cellOf t cell).k = c.k))
      ∧ (∀ (l : Loop) (rest : List Loop) (m : SMap (BitVec 16)), mget 0 m l.k ≠ 1 →
        (closeLoops (l :: rest) m l.last).1 = l.first ∧ (closeLoops (l :: rest) m l.last).2.1 = l :: rest
          ∧ mget 0 (closeLoops (l :: rest) m l.last).2.2 l.k = mget 0 m l.k - 1)

/-- R91, R103, R164: an operation that cannot be issued holds the sequencer, which issues nothing behind it: a queued one whose
queue holds four, and a SEM_WAIT whose count is too low, which stands at the head of its semaphore's queue.
R110: a tile fault performs nothing: the cell keeps every register, accumulator, slot and byte, records the faulting
operation's index and code, and stops issuing; its cluster counts a tile fault.
R146: an error that strikes a row as an operation reads it acts before the operation does: a corrected one is counted in the cell and in its
cluster, an uncorrectable one poisons the row. -/
def Obligations.SequencerHoldsAndFaults : Prop :=
  (∀ (s : State) (cell j n : Nat) (peek : Bool) (op : TileOp) (q : CellQueue) (errs : RowErrs),
      let c := cellOf s cell
      (CellReady s cell op → op.ok = true → queueOf op = some q → queueFull c q = true → AnswersWith (issueOp s cell op errs) (fun t => OnlyCell s t cell
        ∧ cellOf t cell = { c with held := some op, heldAt := (cellOf t cell).heldAt }))
        ∧ (CellReady s cell (.semWait j n peek) → j < 64 → (semOf c j).value < n → n < 65536 → AnswersWith (exec (.semWait cell j n peek) s) (fun t => OnlyCell s t cell
          ∧ (cellOf t cell).held = some (.semWait j n peek) ∧ (cellOf t cell).sem = c.sem ∧ (cellOf t cell).pc = c.pc
          ∧ mget [] (cellOf t cell).semQ j = .sequencer n peek :: mget [] c.semQ j))
        ∧ (cellOk cell = true → c.held ≠ none → op.ok = true → issueOp s cell op errs = .next s)
        ∧ (CellFree s cell op q → op.ok = true → queueOf op = some q → issueOp s cell op errs = issueOp (strikeRows s cell (opReads s cell op) errs) cell op []))
    ∧ (∀ (s : State) (cell code : Nat) (op : TileOp) (q : CellQueue), CellFree s cell op q → op.ok = true → queueOf op = some q → opEffect s cell op = .fault code →
      AnswersWith (issueOp s cell op []) (fun t =>
        let c := cellOf s cell
        cellOf t cell = { c with faultIndex := BitVec.ofNat 16 c.pc, faultCode := BitVec.ofNat 8 code, faulted := true, active := false, held := none }
          ∧ (∀ m, m ≠ cell → cellOf t m = cellOf s m) ∧ mget 0 (clusterOf t (cell / 16)).errors 4 = mget 0 (clusterOf s (cell / 16)).errors 4 + 1
          ∧ ∀ op' errs, op'.ok = true → issueOp t cell op' errs = .next t))
    ∧ (∀ (s : State) (cell row : Nat) (rows : List Nat), cell < 4096 → row < 2048 → row ∈ rows →
      let c := cellOf s cell
      let t := strikeRows s cell rows [(2048 * cell + row, .corrected)]
      let u := strikeRows s cell rows [(2048 * cell + row, .uncorrectable)]
      cellOf t cell = { c with spCorrected := c.spCorrected + 1 } ∧ mget 0 (clusterOf t (cell / 16)).errors 6 = mget 0 (clusterOf s (cell / 16)).errors 6 + 1
        ∧ (∀ r, mget false (cellOf u cell).spPoison r = (decide (r = row) || mget false c.spPoison r)) ∧ cellOf u cell = { c with spPoison := (cellOf u cell).spPoison })

/-- R91, R103, R164: SEQUENCER_WAIT_END completes a held SEM_WAIT once the count satisfies it, puts a held operation to work once its queue has
room, and changes nothing before. SEM_WAIT_GRANT grants an engine's or a collective operation's wait at the head of the queue.
R92, R93, R101, R108: OPERATION_RETIRE makes the oldest operation of a queue final, unless an earlier one that it depends on is still in its
queue: its writes are performed, its rows fed, its flags raised, its descriptor accepted; the last operation of a tile ends the tile. -/
def Obligations.HeldAndRetired : Prop :=
  ∀ (s : State) (cell j n : Nat) (peek : Bool) (q : CellQueue) (errs : RowErrs), cellOk cell = true →
    let c := cellOf s cell
    (j < 64 → 1 ≤ n → c.held = some (.semWait j n peek) → n ≤ (semOf c j).value → s.obs.traceOn = false → TileGoesOn c →
      AnswersWith (exec (.sequencerWaitEnd cell errs) s) (fun t => OnlyCell s t cell ∧ (cellOf t cell).held = none
        ∧ semOf (cellOf t cell) j = (if peek then semOf c j else { semOf c j with value := (semOf c j).value - n })
        ∧ mget [] (cellOf t cell).semQ j = (mget [] c.semQ j).drop 1 ∧ (cellOf t cell).pc = (closeLoops c.loops c.k c.pc).1))
      ∧ (∀ op, c.held = some op → queueOf op = some q → queueFull c q = false → exec (.sequencerWaitEnd cell errs) s = .next (performQueued s cell op q errs))
      ∧ (∀ op, c.held = none ∨ (c.held = some op ∧ ((∃ p, queueOf op = some p ∧ queueFull c p = true) ∨ queueOf op = none ∧ seqReady c op = false)) →
        exec (.sequencerWaitEnd cell errs) s = .next s)
      ∧ (∀ (e : Engine) (eq : EngQueue) (task : Nat) (rest : List Waiter), j < 64 → mget [] c.semQ j = .engine e eq task n :: rest → n ≤ (semOf c j).value →
        s.obs.traceOn = false → AnswersWith (exec (.semWaitGrant cell j) s) (fun t =>
          semOf (cellOf t cell) j = { semOf c j with value := (semOf c j).value - n } ∧ mget [] (cellOf t cell).semQ j = rest
            ∧ (∀ i, i ≠ j → semOf (cellOf t cell) i = semOf c i)
            ∧ (engOf t e).tasks = (engOf s e).tasks.map (fun x => if x.id = task then { x with granted := true } else x)))
      ∧ (∀ (e op : Nat) (rest : List Waiter), j < 64 → mget [] c.semQ j = .collective e op n :: rest → n ≤ (semOf c j).value →
        s.obs.traceOn = false → AnswersWith (exec (.semWaitGrant cell j) s) (fun t => OnlyCell { s with colls := t.colls } t cell
          ∧ semOf (cellOf t cell) j = { semOf c j with value := (semOf c j).value - n } ∧ mget [] (cellOf t cell).semQ j = rest
            ∧ (collOf t e).ops = (collOf s e).ops.map (fun o => if o.opId = op then { o with granted := true } else o)))
      ∧ (∀ (before : List Issued) (i : Issued), oldestOf q [] c.issued = some (before, i) →
        let rest := c.issued.eraseP (fun x => x.q == q)
        let c1 := setFlags (i.feeds.foldl feedSlot (performWrites { c with issued := rest } i.writes)) i.raised
        (mayRetire c before i = false → AnswersWith (exec (.operationRetire cell q) s) (fun t => { t with cells := s.cells } = s ∧ ∀ m, cellOf t m = cellOf s m))
          ∧ (mayRetire c before i = true → (∀ x ∈ rest, x.flagsAt = none) → (rest ≠ [] ∨ c.pc < c.tile.length) → AnswersWith (exec (.operationRetire cell q) s) (fun t =>
            OnlyCell s t cell
              ∧ cellOf t cell = { c1 with mover := (match i.desc with | some d => acceptDesc c.mover .tile d | none => c.mover), progress := c.progress + 1 }
              ∧ (∀ p, (∀ e ∈ i.writes, ¬ (e.1 ≤ p ∧ p < e.1 + e.2.length)) → spByte t cell p = spByte s cell p)
              ∧ (∀ o bs, i.writes = [(o, bs)] → ∀ p, o ≤ p → p < o + bs.length → spByte t cell p = bs.getD (p - o) 0)
              ∧ (i.feeds = [] → (cellOf t cell).nv = (c.nv || i.raised.nv) ∧ (cellOf t cell).ofl = (c.ofl || i.raised.ofl) ∧ (cellOf t cell).slots = c.slots)))
          ∧ (mayRetire c before i = true → rest = [] → c.active = true → c.held = none → c.tile.length ≤ c.pc → c.later = [] →
            AnswersWith (exec (.operationRetire cell q) s) (fun t => OnlyCell s t cell ∧ (cellOf t cell).active = false ∧ (cellOf t cell).issued = [])))

/-! ### Windows, semaphores, credits and mailboxes -/

/-- R163, R155, R156, R162: a window write of the partition whose context the cell runs, inside one region that lets others write, stores
its bytes and no other, in the row as it finds it (R147); a post adds to one semaphore and an add to one credit counter, while they fit. Each
answers with status 0, and is counted where it crosses the viaduct.
R27, R155, R163: what the guard or the regions of the layout refuse has no effect on the cell: a guard refusal is counted for its
owner, a region refusal in the cell's window fault counter, and the requester is answered NOT_PERMITTED.
R163: a post whose sum is above 65,535 leaves 65,535 with ovf and is counted; the step in flight is marked, and the tick that aborts
it ends it with STEP_ABORTED and leaves its context's state. -/
def Obligations.WindowWrites : Prop :=
  (∀ (s : State) (x : Source) (addr cell o j n : Nat) (data : List Byte), x.ok = true → cellGuard s x.owner = true → cellOk cell = true →
      let c := cellOf s cell
      let b := (settleRow none (o / rowBytes) s.freeCount c).1
      let toCell (t : State) : Prop := { t with cells := s.cells, resp := s.resp, mem := s.mem } = s ∧ t.mem = (crossing s 0 (x.cluster / 128) (cell / 2048) 8).mem
        ∧ t.resp.status = 0 ∧ ∀ m, m ≠ cell → cellOf t m = cellOf s m
      (placeOf addr = .window cell o → 0 < data.length → addr % rowBytes + data.length ≤ rowBytes → regionAllows (layoutOf s) o data.length true = true →
        s.obs.sameRowOn = false → AnswersWith (exec (.windowWrite x addr data false .clean) s) (fun t =>
          (∀ p, spByte t cell p = if o ≤ p ∧ p < o + data.length then data.getD (p - o) 0 else readByte b.sp p)
            ∧ (∀ m, m ≠ cell → cellOf t m = cellOf s m) ∧ (cellOf t cell).v = c.v ∧ (cellOf t cell).sem = c.sem ∧ t.resp.status = 0))
        ∧ ((∀ i ∈ c.issued, i.writes = []) → b = c)
        ∧ (j < 64 → (semOf c j).value + n ≤ 65535 → AnswersWith (exec (.semAdd x cell j n) s) (fun t => toCell t
          ∧ (∀ i, semOf (cellOf t cell) i = if i = j then { semOf c j with value := (semOf c j).value + n } else semOf c i)
          ∧ cellOf t cell = { c with sem := (cellOf t cell).sem }))
        ∧ (j < 32 → (creditOf c j).value + n ≤ 2047 → AnswersWith (exec (.creditAdd x cell j n) s) (fun t => toCell t
          ∧ (∀ i, creditOf (cellOf t cell) i = if i = j then { creditOf c j with value := (creditOf c j).value + n } else creditOf c i)
          ∧ cellOf t cell = { c with credit := (cellOf t cell).credit })))
    ∧ (∀ (s : State) (x : Source) (addr cell o j n : Nat) (data : List Byte), x.ok = true → cellOk cell = true → 0 < data.length → addr % rowBytes + data.length ≤ rowBytes →
      (placeOf addr = .window cell o → cellGuard s x.owner = true → regionAllows (layoutOf s) o data.length true = false →
        AnswersWith (exec (.windowWrite x addr data false .clean) s) (fun t =>
          cellOf t cell = { cellOf s cell with windowFault := (cellOf s cell).windowFault + 1 } ∧ t.resp.status = stNotPermitted ∧ { t with cells := s.cells, resp := s.resp } = s))
        ∧ (cellGuard s x.owner = false → (placeOf addr = .window cell o →
            exec (.windowWrite x addr data false .clean) s = .next (answerStatus (guardFault s x.owner) stNotPermitted))
          ∧ (j < 64 → n < 65536 → exec (.semAdd x cell j n) s = .next (answerStatus (guardFault s x.owner) stNotPermitted))
          ∧ (j < 32 → n < 2048 → exec (.creditAdd x cell j n) s = .next (answerStatus (guardFault s x.owner) stNotPermitted))))
    ∧ (∀ (s : State) (x : Source) (cell j n : Nat), x.ok = true → cellOk cell = true → cellGuard s x.owner = true → j < 64 → n < 65536 → 65535 < (semOf (cellOf s cell) j).value + n →
      0 < n → AnswersWith (exec (.semAdd x cell j n) s) (fun t =>
        (∀ i, semOf (cellOf t cell) i = if i = j then { value := 65535, ovf := true } else semOf (cellOf s cell) i) ∧ (cellOf t cell).semOvf = (cellOf s cell).semOvf + 1
          ∧ (∀ m, m ≠ cell → cellOf t m = cellOf s m) ∧ ∀ c y, s.residency.current = some c → ctxOf s c = some y → y.inFlight ≠ none →
            ∃ z, ctxOf t c = some z ∧ .overflow ∈ z.abortNext ∧ z.state = y.state))
    ∧ (∀ (s : State) (c : Nat) (y : Ctx) (k : Step) (causes : List AbortCause), ctxOf s c = some y → y.inFlight = some k → .overflow ∈ causes →
      let t := abortStep s c causes
      (∃ z, ctxOf t c = some z ∧ z.state = y.state) ∧ ∀ l ∈ s.host.long, l.hdr = k.hdr → l.reply = none → ∃ r, { l with reply := some (stAborted, stepResult k false, r) } ∈ t.host.long)

/-- R146, R155, R185: a window read answers the row's bytes as it finds them, or poisoned zeros for a poisoned row; an uncorrectable error
that strikes the row poisons it. PUT writes a message slot of a mailbox, GET reads one.
R157: an acknowledgement of a window write is the awaiting transfer's own; more of that transfer's accesses may then be performed. -/
def Obligations.WindowReadsAndMailboxes : Prop :=
  ∀ (s : State) (x : Source) (addr cell o len : Nat) (data : List Byte) (e : Engine) (i : Nat) (y : Xfer) (errs : RowErrs), x.ok = true → cellGuard s x.owner = true →
    let row := o / rowBytes
    let c := cellOf s cell
    let b := (settleRow none row s.freeCount c).1
    let dead : Resp := { data := List.replicate rowBytes 0, poison := true, status := 0 }
    (placeOf addr = .window cell o → regionAllows (layoutOf s) (row * rowBytes) rowBytes false = true →
      AnswersWith (exec (.windowRead x addr .clean .clean) s) (fun t =>
        t.resp = (if spPoisoned b (row * rowBytes) rowBytes then dead else { data := readBytes b.sp (row * rowBytes) rowBytes, poison := false, status := 0 })
          ∧ cellOf t cell = { b with bytes := (cellOf t cell).bytes } ∧ ∀ m, m ≠ cell → cellOf t m = cellOf s m)
        ∧ ((∀ k ∈ c.issued, k.writes = []) → b = c ∧ AnswersWith (exec (.windowRead x addr .uncorrectable .clean) s) (fun t =>
          t.resp = dead ∧ mget false (cellOf t cell).spPoison row = true ∧ (cellOf t cell).sp = c.sp)))
      ∧ (placeOf addr = .mailbox cell o → spanOk addr data.length = true → o + data.length ≤ 0x800 → AnswersWith (exec (.put x addr data false) s) (fun t =>
        (∀ p, readByte (cellOf t cell).mailbox p = if o ≤ p ∧ p < o + data.length then data.getD (p - o) 0 else readByte c.mailbox p)
          ∧ cellOf t cell = { c with mailbox := (cellOf t cell).mailbox } ∧ (∀ m, m ≠ cell → cellOf t m = cellOf s m)
          ∧ { t with cells := s.cells, resp := s.resp, mem := s.mem } = s ∧ t.resp.status = 0))
      ∧ (placeOf addr = .mailbox cell o → spanOk addr len = true → o + len ≤ 0x800 → AnswersWith (exec (.get x addr len errs) s) (fun t =>
        t.resp = { data := readBytes c.mailbox o len, poison := false, status := 0 } ∧ { t with resp := s.resp, mem := s.mem } = s))
      ∧ (e.ok = true → (engOf s e).xfers[i]? = some y → 0 < y.acks →
        let u := setEng s e { engOf s e with xfers := (engOf s e).xfers.set i { y with acks := y.acks - 1 }, progress := (engOf s e).progress + 1 }
        exec (.windowWriteAck e i errs) s = .next (charge s (sweepXfer u e i false errs) y.desc.context) ∧ (y.work = [] → charge s (sweepXfer u e i false errs) y.desc.context = u))
      ∧ (e.ok = true → (engOf s e).xfers[i]? = none ∨ ((engOf s e).xfers[i]? = some y ∧ y.acks = 0) → exec (.windowWriteAck e i errs) s = .next s)

/-! ### Streaming engines and the codec -/

/-- R172, R188, R190: an engine that can take the head of a queue takes it as its newest task; a head that fails its checks is
counted as failed, leaves an error record with its status, marks the step in flight for abort, and is no longer in its queue.
R170, R172, R179, R181: a codec transfer (operation 1) of the oldest unissued task of a queue, with no wait and no credit, is issued
while fewer than 8 transfers are outstanding; it then awaits its blocks, and nothing but its engine changes.
R171: of two queues of a mover that can both issue, the one whose turn it is issues, and the turn is then the other's. -/
def Obligations.DescriptorsAndTransfers : Prop :=
  (∀ (s : State) (e : Engine) (q : EngQueue) (x : QDesc) (rest : List QDesc) (st : Nat), engineFor e q = true → (∀ n, e ≠ .packer n) →
      queueGet (engOf s e) q = x :: rest → canAdmit e (engOf s e) q (descOf e x.raw) = true →
      (descDefect e q x = none → AnswersWith (exec (.descriptorAdmit e q) s) (fun t => ∃ k, k.desc = x ∧ k.q = q ∧ k.id = (engOf s e).nextTask ∧ k.issued = 0 ∧ k.ended = 0
          ∧ t = setEng s e { queueDrop (engOf s e) q with tasks := (engOf s e).tasks ++ [k], nextTask := (engOf s e).nextTask + 1, progress := (engOf s e).progress + 1 }))
        ∧ (descDefect e q x = some st → AnswersWith (exec (.descriptorAdmit e q) s) (fun t =>
          queueGet (engOf t e) q = rest ∧ (engOf t e).tasks = (engOf s e).tasks ∧ (engOf t e).ledger = { (engOf s e).ledger with failed := (engOf s e).ledger.failed + 1 }
            ∧ (engOf t e).errTotal = (engOf s e).errTotal + 1 ∧ (∃ r, (engOf t e).errs.find? (fun p => p.1 == (engOf s e).errTotal % 16) = some ((engOf s e).errTotal % 16, r) ∧ r.status = st ∧ r.read = false)
            ∧ ∀ z, ctxOf s x.context = some z → z.inFlight ≠ none → ∃ w, ctxOf t x.context = some w ∧ .engine ∈ w.abortNext)))
    ∧ (∀ (s : State) (e : Engine) (q : EngQueue) (t : Task) (errs : RowErrs), engineFor e q = true → (∀ n, e = .gather n → q ≠ .list) →
      (∀ k, e = .mover k → unissued e (engOf s e) (otherQueue q) = []) → (unissued e (engOf s e) q).head? = some t →
      let d := descOf e t.desc.raw
      d.op = 1 → d.waitN = 0 → d.useCredit = false → (engOf s e).xfers.length < 8 → placeOf d.src ≠ .host →
      AnswersWith (exec (.transferIssue e q errs) s) (fun s' => s' = setEng s e (engOf s' e)
          ∧ (∃ x, (engOf s' e).xfers = (engOf s e).xfers ++ [x] ∧ x.task = t.id ∧ x.desc = t.desc ∧ x.entry = t.issued ∧ x.codec = true ∧ x.moved = false ∧ x.work = [] ∧ x.acks = 0
            ∧ x.src = d.src ∧ x.dst = d.dst)
          ∧ (engOf s' e).tasks = (engOf s e).tasks.filter (fun k => k.id != t.id) ++ ((engOf s e).tasks.filter (fun k => k.id == t.id)).map (fun k =>
              { k with issued := k.issued + 1, queuedWait := false, granted := false, creditWait := false })
          ∧ (engOf s' e).ledger = (engOf s e).ledger))
    ∧ (∀ (s : State) (c : Nat) (q : EngQueue) (t u : Task) (errs : RowErrs), cellOk c = true → q ≠ .prefetch →
      let e : Engine := .mover c
      let y := engOf s e
      let plain (k : Task) : Prop := (descOf e k.desc.raw).op = 1 ∧ (descOf e k.desc.raw).waitN = 0 ∧ (descOf e k.desc.raw).useCredit = false ∧ placeOf (descOf e k.desc.raw).src ≠ .host
      (unissued e y q).head? = some t → (unissued e y (otherQueue q)).head? = some u → plain t → plain u → y.xfers.length < 8 →
      (y.turn = q → AnswersWith (exec (.transferIssue e q errs) s) (fun s' => (engOf s' e).turn = otherQueue q ∧ ∃ x, (engOf s' e).xfers = y.xfers ++ [x] ∧ x.task = t.id))
        ∧ (y.turn = otherQueue q → exec (.transferIssue e q errs) s = .next s))

/-- R157, R170, R182, R190: a transfer whose accesses are performed and whose window writes are acknowledged ends. Its task counts it, and at
its last transfer leaves and is counted as completed; without a post, nothing but its engine changes. One that awaits the codec stays.
R183, R184, R188, R324: a far-tier read that stays unanswered leaves an error record of status INTERNAL_TIMEOUT at its source. -/
def Obligations.TransferCompletion : Prop :=
  (∀ (s : State) (e : Engine) (i : Nat) (x : Xfer) (t : Task) (errs : RowErrs), e.ok = true → (engOf s e).xfers[i]? = some x →
      (engOf s e).tasks.find? (fun k => k.id == x.task) = some t →
      (x.moved = true → x.work = [] → x.acks = 0 → t.counted = false → (x.cancelled = true ∨ (descOf e x.desc.raw).postInc = 0) →
        AnswersWith (exec (.transferComplete e i errs) s) (fun s' =>
          let y := engOf s e
          s' = setEng s e (engOf s' e) ∧ (engOf s' e).xfers = y.xfers.eraseIdx i ∧ (engOf s' e).errs = y.errs
            ∧ (if t.ended + 1 < transfersOf (descOf e t.desc.raw) then (engOf s' e).ledger = y.ledger ∧ (engOf s' e).tasks = y.tasks.map (fun k => if k.id = x.task then { k with ended := k.ended + 1 } else k)
              else (engOf s' e).ledger = { y.ledger with completed := y.ledger.completed + 1 } ∧ (engOf s' e).tasks = y.tasks.filter (fun k => k.id != x.task))))
        ∧ (x.moved = false → x.farTier = false → exec (.transferComplete e i errs) s = .next s)
        ∧ (x.moved = true → x.work = [] → 0 < x.acks → AnswersWith (exec (.transferComplete e i errs) s) (fun s' => s' = s)))
    ∧ (∀ (s : State) (n i : Nat) (x : Xfer), clusterOk n = true → (clusterOf s n).gather.xfers[i]? = some x → x.farTier = true → x.moved = false → x.cancelled = false →
      (descOf (.gather n) x.desc.raw).postInc = 0 →
      AnswersWith (exec (.farTierTimeout n i) s) (fun t =>
        let y := (clusterOf s n).gather
        let z := (clusterOf t n).gather
        y.errTotal < z.errTotal ∧ ∃ r, z.errs.find? (fun p => p.1 == y.errTotal % 16) = some (y.errTotal % 16, r) ∧ r.status = stTimeout ∧ r.address = (descOf (.gather n) x.desc.raw).src))

/-- R179, R224, R234 to R236: an expander decodes the next block of a codec transfer of a mover or a gather engine, of every operation, where
neither an earlier access of the transfer's stream nor the host keeps its reads waiting: the transfer has then moved, or has come to its
next block. The block is counted as decoded where it passes the checks; one that fails leaves an error record.
R237 to R240: the packer packs the block of a transfer, of every form, where nothing keeps its read waiting: the transfer has then moved. A
block that fits its frame, whose frame and result record pass the guard, is counted as packed. -/
def Obligations.CodecBlocks : Prop :=
  ∀ (s : State) (e : Engine) (n i c o : Nat) (x : Xfer) (t : Task) (errs : RowErrs),
    let d := descOf e x.desc.raw
    let src := if d.op = 2 then x.src else t.cursor
    let b := (readBlock s (actorOf s e x.desc) src).2
    let out := judgeBlock (tablesOf s x.desc.context) b (decide (d.op = 2)) (if d.op = 2 then d.length else d.length - t.written) (if d.op = 2 then none else t.lastSeq)
    let p := packOf x.desc.raw
    let len := 128 * p.decUnits
    let act := actorOf s (.packer n) x.desc
    let sc := cellOf (settleSpan (strikeRows s c (rowSpan o len) errs) c o len) c
    let req : PackReq := { modeReq := p.modeReq, format := p.format, slot := p.slot, padOk := p.padOk, decUnits := p.decUnits, seq := (p.seqBase + x.entry) % 65536 }
    let lines := candLines req (bestCand req (activeTable (mget TableSlot.reset (tablesOf s x.desc.context) p.slot)) (readBytes sc.sp o len))
    (e.ok = true → (∀ k, e ≠ .packer k) → (engOf s e).xfers[i]? = some x → (engOf s e).tasks.find? (fun k => k.id == x.task) = some t → x.codec = true → x.moved = false →
      blockHeld s e i x src (128 * blockLines s src) = false → AnswersWith (exec (.blockDecode e i) s) (fun s' =>
        (clusterOf s' (engCluster e)).expProgress = (clusterOf s (engCluster e)).expProgress + 1
          ∧ (∃ y, (engOf s' e).xfers[i]? = some y ∧ y.task = x.task ∧ (y.moved = true ∨ y.entry = x.entry + 1) ∧ (d.op = 2 → y.moved = true))
          ∧ (b.denied = none → out.status = 0 → s'.codec.decoded = s.codec.decoded + 1)
          ∧ (b.denied = none → out.status ≠ 0 → s'.codec.decoded = s.codec.decoded ∧ (x.cancelled = false → (engOf s e).errTotal < (engOf s' e).errTotal))))
      ∧ (clusterOk n = true → (clusterOf s n).packer.xfers[i]? = some x → (clusterOf s n).packer.tasks.find? (fun k => k.id == x.task) = some t → x.moved = false →
        blockHeld s (.packer n) i x (p.src + len * x.entry) len = false →
        AnswersWith (exec (.blockPack n i errs) s) (fun s' => (∃ y, (clusterOf s' n).packer.xfers[i]? = some y ∧ y.moved = true ∧ y.task = x.task)
          ∧ (p.dstList = 0 → placeOf (p.src + x.entry * len) = .window c o → windowRefused s act c o len false = none → spPoisoned sc o len = false → lines ≤ p.frameLines →
            linesPermitted s act (p.dst + x.entry * p.frameLines * 128) lines = true → resultRefused s act p x.entry = none → s'.codec.packed = s.codec.packed + 1)))

/-- R239, R273: Umango notes the stored lines of a TENTATIVE page; for a spilled page, the normal frame becomes FREE and its spill frame
takes over the page. A quarantined page whose lines are all in place, in no caldera and not the host's, becomes FREE, its lines written as
zeros. -/
def Obligations.PageResults : Prop :=
  ∀ (s : State) (c p q n : Nat) (x : Ctx) (g f : Page), ctxOf s c = some x → x.pages[p]? = some g →
    (n ≤ 65 → g.state = .tentative → AnswersWith (exec (.packerResultRead c p n false q) s) (fun t =>
        t = setCtx s c { x with pages := x.pages.set p { g with storedLines := n } }))
      ∧ (n ≤ 65 → g.state = .tentative → p ≠ q → x.pages[q]? = some f → f.spill = true → f.mapped = true → f.state = .free → AnswersWith (exec (.packerResultRead c p n true q) s) (fun t =>
        ∃ y, ctxOf t c = some y ∧ (∃ a, y.pages[p]? = some a ∧ a.state = .free ∧ a.slot = 0xFFFF)
          ∧ (∃ b, y.pages[q]? = some b ∧ b.state = .tentative ∧ b.storedLines = n ∧ b.slot = g.slot ∧ b.row = g.row ∧ b.place = g.place ∧ b.frame = f.frame)
          ∧ (∀ k, k ≠ p → k ≠ q → y.pages[k]? = x.pages[k]?)))
      ∧ (g.state = .quarantined → g.frame % 128 = 0 →
        (∀ k, k < pageLines x g → lineGone s (g.frame / 128 + k) = false ∧ stackGuard s { owner := x.partition, cluster := 0 } (g.frame + 128 * k) 128 true = true
          ∧ (g.frame / 128 + k) ∉ s.host.snoop ∧ ∀ w ∈ s.host.heldWrites, w.addr / 128 ≠ g.frame / 128 + k) →
        calLines s (lineIn g.frame (128 * pageLines x g)) = [] → AnswersWith (exec (.quarantineRelease c p) s) (fun t =>
          ctxOf t c = some { x with pages := x.pages.set p { g with state := .free, slot := 0xFFFF, phaseSet := 0, supersedes := none, storedLines := 0, kindV := false, row := 0, place := 0 } }
            ∧ ∀ a, g.frame ≤ a → a < g.frame + 128 * pageLines x g → readByte t.mem.bytes a = 0))

/-! ### Caldera, stacks and the CXL.mem port -/

/-- R209, R210, R323: a class A access to a line that its caldera holds. A read answers the held line, dirty or not, and takes it out
under hint 3 only; a write changes the held line alone and leaves it dirty, with the KEEP bit under hint 2 where its owner may keep one more; a
write to a line in the host's snoop filter is held and changes nothing else. DRAM stays, but for the write-back of hint 3.
R22: a read that reaches the slice behind a held write of the line is served after it.
R195, R204: a line whose place is gone is read as poison and not held; a write to it is discarded and counted. -/
def Obligations.CalderaHits : Prop :=
  ∀ (s : State) (src : Source) (addr : Nat) (l : CalLine) (data : List Byte) (poison : Bool) (err : BitErr) (mesh : MeshErr), src.ok = true → calFind s (addr / 128) = some l →
    let line := addr / 128
    let k := stackNo (128 * line)
    let free := ∀ w ∈ s.host.heldWrites, w.addr / 128 ≠ line
    let dead : Resp := { data := zeroLine, poison := true, status := stUncorrectable }
    let d := mergeLine { data := l.data, poison := l.poison } (addr % 128) data poison
    (stackGuard s src addr 1 false = true → free → lineGone s line = false → AnswersWith (exec (.calderaRead src addr .clean .clean) s) (fun t =>
        t.resp = { data := l.data, poison := l.poison, status := if l.poison then stUncorrectable else 0 }
          ∧ calFind t line = (if hintAt s addr = 3 then none else some l) ∧ (∀ n, n ≠ line → calFind t n = calFind s n)
          ∧ (¬ (hintAt s addr = 3 ∧ l.dirty = true) → t.mem.bytes = s.mem.bytes ∧ t.mem.lines = s.mem.lines) ∧ { t with mem := s.mem, resp := s.resp } = s)
        ∧ AnswersWith (exec (.calderaRead src addr .clean .uncorrectable) s) (fun t => t.resp = dead))
      ∧ (stackGuard s src addr 1 false = true → ¬ free → mesh.ok = true → exec (.calderaRead src addr err mesh) s = exec (.calderaRead src addr err mesh) (snoopLeave s line))
      ∧ (stackGuard s src addr 1 false = true → free → lineGone s line = true → AnswersWith (exec (.calderaRead src addr err .clean) s) (fun t => t.resp = dead ∧ calFind t line = none))
      ∧ (stackGuard s src addr data.length true = true → 0 < data.length → addr % 128 + data.length ≤ 128 →
        (line ∉ s.host.snoop → lineGone s line = false → AnswersWith (exec (.calderaWrite src addr data poison .clean) s) (fun t =>
          t.resp.status = 0 ∧ calFind t line = some { l with data := d.data, poison := d.poison, dirty := true, keep := if hintAt s addr = 2 then mayKeep s l else l.keep }
            ∧ (∀ n, n ≠ line → calFind t n = calFind s n) ∧ t.mem.bytes = s.mem.bytes ∧ t.mem.lines = s.mem.lines ∧ { t with mem := s.mem, resp := s.resp } = s))
          ∧ (line ∉ s.host.snoop → lineGone s line = true → AnswersWith (exec (.calderaWrite src addr data poison .clean) s) (fun t =>
            calFind t line = none ∧ t.mem.bytes = s.mem.bytes ∧ (stackOf t k).discards = (stackOf s k).discards + (if l.dirty then 2 else 1)))
          ∧ (line ∈ s.host.snoop → exec (.calderaWrite src addr data poison .clean) s = .next { s with
            resp := {}, host := { s.host with heldWrites := s.host.heldWrites ++ [{ addr := addr, owner := src.owner, cluster := src.cluster, data := data, poison := poison }] } }))

/-- R209, R211: a line that no caldera holds and that stands without error in its stack is read from DRAM; under hints 0 and 2, and
by LINE_FILL, it is then held, clean, for its owner, with KEEP under hint 2 where the owner may keep ways. -/
def Obligations.CalderaFills : Prop :=
  ∀ (s : State) (src : Source) (addr owner : Nat), src.ok = true → owner ≤ 8 → calFind s (addr / 128) = none → lineGone s (addr / 128) = false →
    (∀ w ∈ s.host.heldWrites, w.addr / 128 ≠ addr / 128) →
    let line := addr / 128
    let own := ownerAt s (128 * line)
    let mine := usableWays (calSetOf s (setKey (128 * line))) (maskOf s own (dieOf (128 * line)))
    let bytes := readBytes s.mem.bytes (128 * line) 128
    let held (t : State) : Prop := ∃ y, calFind t line = some y ∧ y.data = bytes ∧ y.dirty = false ∧ y.poison = false ∧ y.owner = own
      ∧ y.keep = (decide (hintAt s addr = 2) && decide (0 < keepWaysOf s own))
    metaOf s line = { key := ownerKey s own, poison := false, errs := [] } →
    (stackGuard s src addr 1 false = true → AnswersWith (exec (.calderaRead src addr .clean .clean) s) (fun t =>
        t.resp = { data := bytes, poison := false, status := 0 } ∧ { t with mem := s.mem, resp := s.resp } = s
          ∧ (mine ≠ [] → hintAt s addr = 0 ∨ hintAt s addr = 2 → held t) ∧ (hintAt s addr = 1 ∨ hintAt s addr = 3 → calFind t line = none ∧ t.mem.bytes = s.mem.bytes)))
      ∧ (inStacks addr 1 = true → ownerAt s addr = owner → own = owner → mine ≠ [] → AnswersWith (exec (.lineFill addr owner) s) (fun t => held t ∧ { t with mem := s.mem } = s))

/-- R195, R198, R201, R204: a line write at a stack foot stores its bytes, or poison, under its owner's key, and no other byte; where the
stack is out of service or the block is retired it is discarded and counted. -/
def Obligations.StackWrites : Prop :=
  ∀ (s : State) (addr owner : Nat) (data : List Byte) (poison : Bool), owner ≤ 8 → data.length = 128 → addr % 128 = 0 → inStacks addr 1 = true → ownerAt s addr = owner →
    let line := addr / 128
    let k := stackNo addr
    (lineGone s line = false → AnswersWith (exec (.stackWrite addr owner data poison) s) (fun t =>
        (∀ p, readByte t.mem.bytes p = if addr ≤ p ∧ p < addr + 128 then (if poison then 0 else data.getD (p - addr) 0) else readByte s.mem.bytes p)
          ∧ (∀ n, metaOf t n = if n = line then { key := ownerKey s owner, poison := poison, errs := [] } else metaOf s n)
          ∧ (stackOf t k).discards = (stackOf s k).discards ∧ t.resp.status = 0 ∧ { t with mem := s.mem, resp := s.resp } = s))
      ∧ (lineGone s line = true → AnswersWith (exec (.stackWrite addr owner data poison) s) (fun t =>
        t.mem.bytes = s.mem.bytes ∧ t.mem.lines = s.mem.lines ∧ (stackOf t k).discards = (stackOf s k).discards + 1 ∧ { t with mem := s.mem, resp := s.resp } = s))

/-- R195, R198, R200 to R202, Table 9-4: a line read at a stack foot by its owner. Up to 4 wrong symbols are corrected, and counted where there
is one; 3 or 4 also mark the row for repair. A line of which nothing wrong is left answers the stored bytes under the key that wrote them; an
uncorrectable or poisoned one and one that is gone answer poison. DRAM stays. -/
def Obligations.StackReads : Prop :=
  (∀ (s : State) (addr owner n : Nat) (errs left : List (Nat × Byte)), owner ≤ 8 → errsOk errs = true → inStacks addr 1 = true → ownerAt s addr = owner →
    let line := addr / 128
    let k := stackNo (128 * line)
    let m := metaOf s line
    let found := eccDecode (if m.poison then xorPattern poisonPattern (xorPattern m.errs errs) else xorPattern m.errs errs)
    let bad : Resp := { data := zeroLine, poison := true, status := stUncorrectable }
    ownerAt s (128 * line) = owner →
    AnswersWith (exec (.stackRead addr owner errs) s) (fun t => t.mem.bytes = s.mem.bytes ∧ t.mem.sets = s.mem.sets
      ∧ (lineGone s line = true → t.resp = bad)
      ∧ (lineGone s line = false → found = .decoded n left → t.resp.poison = false ∧ t.resp.status = 0
        ∧ (left = [] → m.key = ownerKey s owner → m.poison = false → t.resp.data = readBytes s.mem.bytes (128 * line) 128)
        ∧ (stackOf t k).ce = (stackOf s k).ce + (if n = 0 then 0 else 1) ∧ (stackOf t k).ue = (stackOf s k).ue ∧ (2 < n → rowKey (128 * line) ∈ (stackOf t k).marked))
      ∧ (lineGone s line = false → found = .poison → t.resp = bad ∧ (stackOf t k).poisonReads = (stackOf s k).poisonReads + 1)
      ∧ (lineGone s line = false → found = .uncorrectable → t.resp = bad ∧ (stackOf t k).ue = (stackOf s k).ue + 1 ∧ rowKey (128 * line) ∈ (stackOf t k).marked)))
    ∧ (∀ d : List (Nat × Byte), syndromes d ≠ syndromes poisonPattern →
      (d.length ≤ 4 → eccDecode d = .decoded d.length []) ∧ (4 < d.length → d.length ≤ 8 → eccDecode d = .uncorrectable))

/-- R193, R194, R19, R203, R204, R205: repair and retraining. A marked row moves to a spare row of its bank, or with none left its block
is retired; the journal holds either. The patrol reads a line that is in place, and the bytes stay. A flit error of a stack link is a replay
of its lane group, and more than 1,000 of them within one second make a retrain due; one of a viaduct quarter is counted as replayed. A
retrain adds the lanes it finds failed, and two of one group take the stack out of service.
R31, R32: a way that is retired joins its set's retired ways, its line leaves the caldera, and the journal holds the retirement
before it is reported; a way that was retired before stays as it is. -/
def Obligations.StackUpkeep : Prop :=
  (∀ (s : State) (stack row addr group at_ quarter : Nat) (errs : List (Nat × Byte)) (tx rx : List Nat), stack < 24 → row < 2 ^ 26 → group < 64 → quarter < 4 →
      let k := stackOf s stack
      let used := mget 0 k.spareRows (row / 16384)
      let m1 := k.marked.filter (fun r => r != row)
      let now := max s.now at_
      (row ∈ k.marked → used < 16 → AnswersWith (exec (.rowRepair stack row) s) (fun t =>
          stackOf t stack = { k with marked := m1, spareRows := mset 0 k.spareRows (row / 16384) (used + 1), repaired := k.repaired ++ [row] }
            ∧ (∀ n, n ≠ stack → stackOf t n = stackOf s n) ∧ ∃ r, t.flash.copyA = s.flash.copyA ++ [r] ∧ t.flash.copyB = s.flash.copyB ++ [r] ∧ r.key = 0x8002))
        ∧ (row ∈ k.marked → 16 ≤ used → AnswersWith (exec (.rowRepair stack row) s) (fun t =>
          (stackOf t stack).marked = m1 ∧ blockOfRow stack row ∈ (stackOf t stack).retired ∧ t.mem.bytes = s.mem.bytes
            ∧ ∃ r, t.flash.copyA = s.flash.copyA ++ [r] ∧ t.flash.copyB = s.flash.copyB ++ [r] ∧ r.key = 0x8003))
        ∧ (inStacks addr 1 = true → errsOk errs = true → AnswersWith (exec (.patrolScrub addr errs) s) (fun t =>
          t.mem.bytes = s.mem.bytes ∧ t.resp = s.resp ∧ (lineGone s (addr / 128) = true → t = s) ∧ (lineGone s (addr / 128) = false → (stackOf t (stackNo (128 * (addr / 128)))).scrubAt = addr / 128)))
        ∧ AnswersWith (exec (.stackLinkFlitError stack group at_) s) (fun t => (∀ n, n ≠ stack → stackOf t n = stackOf s n) ∧ t.now = now
          ∧ (stackOf t stack).replays = k.replays + 1 ∧ stackOf t stack = { k with replays := k.replays + 1, groupReplays := (stackOf t stack).groupReplays, retrainDue := (stackOf t stack).retrainDue }
          ∧ (1000 ≤ (mget (0, 0) k.groupReplays group).2 → now < (mget (0, 0) k.groupReplays group).1 + 1000000000 → (stackOf t stack).retrainDue = true)
          ∧ { t with now := s.now, mem := { t.mem with stackUnits := s.mem.stackUnits } } = s)
        ∧ AnswersWith (exec (.viaductFlitError quarter) s) (fun t => { t with mem := { t.mem with linkCounts := s.mem.linkCounts } } = s
          ∧ ∀ f, mget 0 t.mem.linkCounts f = mget 0 s.mem.linkCounts f + (if f = 8 * (14 + quarter) + 4 then 1 else 0))
        ∧ ((∀ l ∈ tx, l < 544) → (∀ l ∈ rx, l < 544) → AnswersWith (exec (.stackLinkRetrain stack tx rx) s) (fun t =>
          (stackOf t stack).txFailed = addLanes k.txFailed tx ∧ (stackOf t stack).rxFailed = addLanes k.rxFailed rx
            ∧ ((groupLost (addLanes k.txFailed tx) || groupLost (addLanes k.rxFailed rx)) = true → (stackOf t stack).state = .outOfService)
            ∧ ((groupLost (addLanes k.txFailed tx) || groupLost (addLanes k.rxFailed rx)) = false → (stackOf t stack).state = if k.state = .retraining then .inService else k.state))))
    ∧ (∀ (s : State) (die slice set way : Nat), die < 2 → slice < 16 → set < 6144 → way < 16 →
      let k := (16 * die + slice) * 6144 + set
      (way ∉ (calSetOf s k).retired → AnswersWith (exec (.calderaWayRetire die slice set way) s) (fun t =>
          (calSetOf t k).retired = (calSetOf s k).retired ++ [way] ∧ (∀ l ∈ (calSetOf s k).lines, l.way = way → setKey (128 * l.line) = k → calFind t l.line = none)
            ∧ ∃ r, t.flash.copyA = s.flash.copyA ++ [r] ∧ t.flash.copyB = s.flash.copyB ++ [r] ∧ r.key = 0x8000))
        ∧ (way ∈ (calSetOf s k).retired → exec (.calderaWayRetire die slice set way) s = .next s))

/-- R217, R218, Tables 9-7 and 9-8: an atomic and a line reduction on a line that its caldera holds, in a plain range of the issuer:
the line takes the new value and stays dirty, every other line stays, an atomic answers the old value. A poisoned line is
refused and stays. -/
def Obligations.AtomicsAndReductions : Prop :=
  ∀ (s : State) (src : Source) (op : AtomicOp) (red : LineRed) (size addr operand compare : Nat) (l : CalLine) (data : List Byte), src.ok = true →
    plainFor s src.owner addr = true → calFind s (addr / 128) = some l → addr / 128 ∉ s.host.snoop → lineGone s (addr / 128) = false →
    let line := addr / 128
    let o := addr % 128
    let put (t : State) (bs : List Byte) : Prop := calFind t line = some { l with data := bs, dirty := true, keep := if hintAt s addr = 2 then mayKeep s l else l.keep }
      ∧ (∀ n, n ≠ line → calFind t n = calFind s n) ∧ t.mem.bytes = s.mem.bytes ∧ t.mem.lines = s.mem.lines ∧ { t with mem := s.mem, resp := s.resp } = s
    (atomicOk op size addr = true → inStacks addr size = true → l.poison = false → AnswersWith (exec (.atomic src op size addr operand compare) s) (fun t =>
        t.resp = { data := bytesAt l.data o size, poison := false, status := 0 }
          ∧ put t (l.data.take o ++ leBytes (atomicValue op size (fieldAt l.data o size) operand compare) size ++ l.data.drop (o + size))))
      ∧ (atomicOk op size addr = true → inStacks addr size = true → l.poison = true → AnswersWith (exec (.atomic src op size addr operand compare) s) (fun t =>
        t.resp.status = stPoison ∧ t.mem.sets = s.mem.sets ∧ t.mem.bytes = s.mem.bytes ∧ { t with mem := s.mem, resp := s.resp } = s))
      ∧ (addr % 128 = 0 → data.length = 128 → inStacks addr 128 = true → l.poison = false → AnswersWith (exec (.lineReduction src red addr data) s) (fun t =>
        t.resp.status = 0 ∧ put t (reduceLine red l.data data)))

/-- R322, R323: a host access over CXL.mem that an exposure admits. A write stores its bytes in DRAM and no other; a read answers DRAM
contents and records the line in the snoop filter; BIRSP takes a line out of the filter and lets the writes held for it go on, and then the
messages that waited for them (R253). What no exposure admits is counted and changes nothing else. -/
def Obligations.CxlMem : Prop :=
  ∀ (s : State) (addr : Nat) (data : List Byte) (e : Exposure),
    let line := addr / 128
    let own := ownerAt s (128 * line)
    inStacks addr 1 = true →
    (cachememOn s = true → exposedAt s addr = some e → lineGone s line = false → metaOf s line = { key := ownerKey s own, poison := false, errs := [] } →
      (expWrite e = true → 0 < data.length → addr % 128 + data.length ≤ 128 → calFind s line = none → ownerAt s addr = own → AnswersWith (exec (.cxlMemWrite addr data) s) (fun t =>
        (∀ p, readByte t.mem.bytes p = if addr ≤ p ∧ p < addr + data.length then data.getD (p - addr) 0 else readByte s.mem.bytes p)
          ∧ t.mem.sets = s.mem.sets ∧ { t with mem := s.mem, obs := s.obs } = s))
        ∧ (s.host.snoop.length < 65536 → AnswersWith (exec (.cxlMemRead addr) s) (fun t =>
          t.resp = { data := readBytes s.mem.bytes (128 * line) 128, poison := false, status := 0 } ∧ line ∈ t.host.snoop ∧ t.mem.bytes = s.mem.bytes
            ∧ t.mem.sets = s.mem.sets ∧ { t with mem := s.mem, resp := s.resp, obs := s.obs, host := { t.host with snoop := s.host.snoop } } = s)))
      ∧ (cachememOn s = true → exposedAt s addr = none → 0 < data.length → addr % 128 + data.length ≤ 128 →
        exec (.cxlMemWrite addr data) s = .next (setFn s 0 { fnOf s 0 with memFault := (fnOf s 0).memFault + 1 }))
      ∧ (line ∈ s.host.snoop → exec (.birsp addr) s = .next (resumeColls (snoopLeave s line)))
      ∧ (line ∈ s.host.snoop → (∀ k, (collOf s k).held = []) → AnswersWith (exec (.birsp addr) s) (fun t => t.host.snoop = s.host.snoop.filter (fun n => n != line)
        ∧ t.host.heldWrites = s.host.heldWrites.filter (fun w => w.addr / 128 != line) ∧ ((∀ w ∈ s.host.heldWrites, w.addr / 128 ≠ line) → t.mem = s.mem)
        ∧ (∀ k, collOf t k = collOf s k) ∧ { t with mem := s.mem, host := s.host, freeCount := s.freeCount, colls := s.colls } = s))

/-! ### Commands of the host -/

/-- R335, R336, R340, R349: a status reply goes to the completion ring of the command's queue at its tail, with the queue's phase bit; the
tail moves on, the phase turns at the ring's end, the command is in flight no more, and the interrupt that it asked for is sent.
The reply to a command whose ring is gone is discarded.
R338, R341, R347: a PF command that a virtual function sends is answered NOT_PERMITTED, counted for its queue, and changes nothing
else; so is a command of the other scopes for a partition that is not the sender's. -/
def Obligations.StatusReplies : Prop :=
  (∀ (s : State) (h : CmdHdr) (op status result result2 detail : Nat) (x : Queue),
      (queueOf? s h.queue = some x → x.ring = h.ring → s.host.ideIoFailed = false →
        let t := writeReply s h op status result result2 detail
        (∀ k, k < 32 → readByte t.host.mem (x.cqBase + 32 * x.cqTail + k) = (replyBytes h op status result result2 detail x.phase).getD k 0)
          ∧ (∀ a, (a < x.cqBase + 32 * x.cqTail ∨ x.cqBase + 32 * x.cqTail + 32 ≤ a) → readByte t.host.mem a = readByte s.host.mem a)
          ∧ (∃ y, queueOf? t h.queue = some y ∧ y.cqTail = (x.cqTail + 1) % 2 ^ x.cqLog2 ∧ y.phase = (if (x.cqTail + 1) % 2 ^ x.cqLog2 = 0 then !x.phase else x.phase)
            ∧ y.inFlight = x.inFlight.erase (h.sqPos, h.alive) ∧ y.sqHead = x.sqHead ∧ y.alive = x.alive)
          ∧ (∀ q, q ≠ h.queue → queueOf? t q = queueOf? s q) ∧ t.host.msix = s.host.msix ++ (if h.irq then [(x.owner, x.vector)] else [])
          ∧ { t with host := s.host, obs := s.obs } = s)
        ∧ ((∀ y, queueOf? s h.queue = some y → y.ring ≠ h.ring) → writeReply s h op status result result2 detail = s))
    ∧ (∀ (s : State) (i : Instr) (op : Nat) (h : CmdHdr), commandOf i = some (op, h) → i.ok = true → gateHolds s i h = false → h.fn ≠ 0 →
      (scopeOf op = some .pf ∨ h.partition + 1 ≠ h.fn) →
      exec i s = .next (writeReply { begin s i with host := { (begin s i).host with qrejRejected := madd s.host.qrejRejected h.queue 1 } } h op stNotPermitted 0 0 0xFFFF))


/-- R352: the admin commands. NOP replies; IDENTIFY and CAP_READ write their records; QUEUE_CREATE opens the lowest free queue of 9 to
255, empty, with alive value 0; QUEUE_DELETE stops the fetching of the sender's own queue and works on. -/
def Obligations.AdminCommands : Prop :=
  ∀ (s : State) (h : CmdHdr) (id dst sqBase cqBase sqLog2 cqLog2 vector q queue : Nat) (x : Queue),
    (CmdReady s (.nop h) h → Replies (exec (.nop h) s) s (.nop h) h 0 0 (begin s (.nop h)))
      ∧ (CmdReady s (.identify h dst) h → DstReady s h dst 128 →
        Replies (exec (.identify h dst) s) s (.identify h dst) h 128 0 (writeDst (begin s (.identify h dst)) h dst (identityRecord s)))
      ∧ (CmdReady s (.capRead h id dst) h → (capBody id).isSome = true → DstReady s h dst (capHeaderBody id).length →
        Replies (exec (.capRead h id dst) s) s (.capRead h id dst) h ((capHeaderBody id).length - 8) 1 (writeDst (begin s (.capRead h id dst)) h dst (capHeaderBody id)))
      ∧ (let i : Instr := .queueCreate h sqBase cqBase sqLog2 cqLog2 vector
        CmdReady s i h → sqBase ≠ 0 → sqBase % 64 = 0 → cqBase ≠ 0 → cqBase % 32 = 0 → 4 ≤ sqLog2 → sqLog2 ≤ 12 → 4 ≤ cqLog2 → cqLog2 ≤ 12 → vector < vectors h.fn →
        freeQueue s = some q → (h.fn = 0 ∨ createdQueues s h.fn < (partOf s (h.fn - 1)).maxQueues) →
        ∃ u, Replies (exec i s) s i h q 0 u ∧ queueOf? u q = some (newQueue s.host.nextRing h.fn sqBase cqBase sqLog2 cqLog2 vector) ∧ (∀ k, k ≠ q → queueOf? u k = queueOf? s k)
          ∧ mget 0 u.host.qrejAlive q = 0 ∧ mget 0 u.host.qrejRejected q = 0 ∧ { u with host := s.host } = s)
      ∧ (let i : Instr := .queueDelete h queue
        CmdReady s i h → queueOf? s queue = some x → x.owner = h.fn → 9 ≤ queue → queue ≠ h.queue → longPending s (deletes queue) = false →
        WorksOn (exec i s) s i h [] (setQueue (begin s i) queue (some { x with fetching := false })))

/-- R353, R364, R368, R379: the partition commands. PART_CREATE waits for a tick, PART_DESTROY and ATTEST_QUOTE work on; KEY_INSTALL and
DUMP_KEY_SET take the key of a blob that passes Table 16-5 and note its sequence value; an empty blob removes the dump key. -/
def Obligations.PartitionCommands : Prop :=
  ∀ (s : State) (h : CmdHdr) (p keep m0 m1 mc mq selection dst dstBytes : Nat) (zero : Bool) (blob nonce : List Byte),
    (let i : Instr := .partCreate h p keep m0 m1 mc mq
    CmdReady s i h → p < 8 → keep < 16 → 0 < m0 → m0 < 65536 → 0 < m1 → m1 < 65536 → 1 ≤ mc → mc ≤ 32 → 1 ≤ mq → mq ≤ 32 → (partOf s p).present = false → tickPending s (createsPart p) = false →
    WaitsForTick (exec i s) s i h 1 [] (begin s i))
      ∧ (let i : Instr := .partDestroy h p zero
        CmdReady s i h → p < 8 → (partOf s p).present = true → holdsCtx s p = false → longPending s (destroysPart p) = false → WorksOn (exec i s) s i h [] (begin s i))
      ∧ (let i : Instr := .keyInstall h blob
        let k := blobHalves blob
        let part := partOf s h.partition
        CmdReady s i h → 64 ≤ blob.length → blob.length ≤ 512 → blob.length % 8 = 0 → rangesOf s h.partition = [] → (∀ c ∈ blobChecks h blob 0 part.seqMem, c = none) →
        Replies (exec i s) s i h 0 0 (extendReg (setPart (begin s i) h.partition { part with memKey := 2 * (k.1 + 2 ^ 256 * k.2) + 1, seqMem := fieldAt blob 4 4 }) (8 + 3 * h.partition) (bytesAt blob 0 32)))
      ∧ (let i : Instr := .dumpKeySet h blob
        let part := partOf s h.partition
        CmdReady s i h →
        (blob = [] → Replies (exec i s) s i h 0 0 (setPart (begin s i) h.partition { part with dumpKey := none }))
          ∧ (64 ≤ blob.length → blob.length ≤ 512 → blob.length % 8 = 0 → (∀ c ∈ blobChecks h blob 1 part.seqDump, c = none) →
            Replies (exec i s) s i h 0 0 (extendReg (setPart (begin s i) h.partition { part with dumpKey := some (blobHalves blob).1, seqDump := fieldAt blob 4 4 }) (8 + 3 * h.partition) (bytesAt blob 0 32))))
      ∧ (let i : Instr := .attestQuote h nonce selection dst dstBytes
        let n := 96 + 48 * (selected selection).length + 8240
        CmdReady s i h → selection < 2 ^ 32 → n ≤ dstBytes → (∀ r ∈ selected selection, mayQuote h r = true) → DstReady s h dst n → WorksOn (exec i s) s i h [] (begin s i))

/-- R353, R361, R376, R385: firmware and configuration. FW_STAGE holds the image that it has read; FW_ACTIVATE journals the inactive
slot; CFG_READ answers the journal's value; CFG_WRITE journals a value within the key's range; CFG_COMPACT works on. -/
def Obligations.FirmwareAndConfiguration : Prop :=
  ∀ (s : State) (h : CmdHdr) (src n key value select lo hi d : Nat),
    (let i : Instr := .fwStage h src n
    CmdReady s i h → src < 2 ^ 48 → 0 < n → n ≤ 64 * 2 ^ 20 → n % 4096 = 0 → SrcReady s h src n → longPending s stages = false → s.rot.activationPending = false →
    peekPoison s h.partition src n = false → ∃ u, WorksOn (exec i s) s i h (peekObj (begin s i) h.partition src n) u ∧ u.rot = { s.rot with staged := false } ∧ u.flash = s.flash)
      ∧ (let i : Instr := .fwActivate h false
        CmdReady s i h → s.rot.staged = true → (fwSlot s (inactiveSlot s)).valid = true → s.rot.activationPending = false → longPending s stages = false →
        Replies (exec i s) s i h 0 0 (journalWrite { begin s i with rot := { s.rot with activationPending := true } } 0x8004 (leBytes (inactiveSlot s) 1)))
      ∧ (let i : Instr := .cfgRead h key
        CmdReady s i h → (cfgKey key).isSome = true → Replies (exec i s) s i h (cfgStored s key).1 (cfgStored s key).2 (begin s i))
      ∧ (let i : Instr := .cfgWrite h key value
        CmdReady s i h → cfgKey key = some (lo, hi, d) → lo ≤ value → value ≤ hi → journalRoom s = true →
        ∃ u r, Replies (exec i s) s i h value r.seq u ∧ u.flash.copyA = s.flash.copyA ++ [r] ∧ u.flash.copyB = s.flash.copyB ++ [r] ∧ r.key = key ∧ r.value = leBytes value 8 ∧ r.seq = nextSeq s
          ∧ (key < 0x10 → mget 0 u.rot.cfgNext key = value) ∧ u.rot.cfg = s.rot.cfg)
      ∧ (let i : Instr := .cfgCompact h select
        CmdReady s i h → select < 3 → longPending s isCompact = false → WorksOn (exec i s) s i h [] (begin s i))

/-- R206, R216, R272, R354: the memory commands on aligned spans that the header's partition owns. BULK_LOAD, BULK_STORE, CALDERA_INVAL
and SCRUB_RANGE work on; RANGE_ATTR and KV_PAGES_MAP wait for the next tick, the latter with the frames of its list. -/
def Obligations.MemoryCommands : Prop :=
  ∀ (s : State) (h : CmdHdr) (src dst n base size mode index c op spill count list : Nat) (r : RangeEntry) (x : Ctx),
    let span := inStacks base 1 = true ∧ base % granule = 0 ∧ 0 < size ∧ inStacks base size = true ∧ size % granule = 0 ∧ ownsSpan s h.partition base size = true
    let fs := kvFrames (peekObj s h.partition list (8 * count)) count
    (let i : Instr := .bulkLoad h src dst n
    CmdReady s i h → src % 128 = 0 → dst % 128 = 0 → inStacks dst 1 = true → 128 ≤ n → n ≤ 64 * 2 ^ 30 → n % 128 = 0 → hostCheck s h src n false = none → ownsSpan s h.partition dst n = true →
    longPending s (worksOver dst n) = false → WorksOn (exec i s) s i h [] (begin s i))
      ∧ (let i : Instr := .bulkStore h src dst n
        CmdReady s i h → src % 128 = 0 → dst % 128 = 0 → inStacks src 1 = true → 128 ≤ n → n ≤ 64 * 2 ^ 30 → n % 128 = 0 → hostCheck s h dst n true = none → ownsSpan s h.partition src n = true →
        longPending s (worksOver src n) = false → WorksOn (exec i s) s i h [] (begin s i))
      ∧ (CmdReady s (.calderaInval h base size) h → span → WorksOn (exec (.calderaInval h base size) s) s (.calderaInval h base size) h [] (begin s (.calderaInval h base size)))
      ∧ (let i : Instr := .scrubRange h base size mode
        CmdReady s i h → span → mode < 2 → (mode = 0 ∨ busyFootprint s base size = false) → longPending s (worksOver base size) = false → WorksOn (exec i s) s i h [] (begin s i))
      ∧ (let i : Instr := .rangeAttr h index r
        CmdReady s i h → index < 256 → r.reserved = none →
        (r.owner = 0xFF ∨ r.base % granule = 0 ∧ r.size % granule = 0 ∧ inOneStack r.base r.size = true ∧ r.owner ≤ 8 ∧ (r.landing && r.plain) = false ∧ rangeOverlap s index r = false) →
        mayChangeRange s h index r = true → boundEntry s (rangeOf s index) = false → tickPending s (changesRange index) = false →
        WaitsForTick (exec i s) s i h 1 [] (begin s i))
      ∧ (let i : Instr := .kvPagesMap h c op spill count list
        let sp := decide (spill = 1)
        CmdReady s i h → c < 32 → spill < 2 → 0 < count → ctxOf s c = some x → x.partition = h.partition → (x.state = .loading ∨ x.state = .resident) → SrcReady s h list (8 * count) →
        peekPoison s h.partition list (8 * count) = false → (∀ a ∈ fs, a < 2 ^ 48 ∧ a % 128 = 0 ∧ ownsSpan s h.partition a 1 = true) → tickPending s (mapsPages c) = false →
        (op = 0 ∧ (∀ a ∈ fs, inStateEntry x a (frameBytes x sp) = true) ∧ framesMeet x fs (frameBytes x sp) = false ∧ (x.pages.filter (·.mapped)).length + count ≤ x.params.pageEntries
          ∨ op = 1 ∧ (∀ a ∈ fs, ∃ g, pageAt x a sp = some g ∧ g.state = .free) ∧ (∀ e ∈ fs.zipIdx, e.1 ∉ fs.drop (e.2 + 1)) ∧ (sp = true ∨ claims x + count ≤ freeFrames x)) →
        ∃ u, WaitsForTick (exec i s) s i h 1 fs u ∧ u.ctxs = s.ctxs)

/-- R231, R355: the codec commands. TABLE_LOAD of a sound record and TABLE_ACTIVATE of the next generation wait for their tick in the
slot; ENCODE_RANGE and DECODE_CHECK work on. -/
def Obligations.CodecCommands : Prop :=
  ∀ (s : State) (h : CmdHdr) (c slot frame walk expect count src : Nat) (rec_ : List Byte) (p : EncodeParams) (x : Ctx) (a b : CodeTable),
    ctxOf s c = some x → x.partition = h.partition → c < 32 → x.state ≠ .destroying →
    (let i : Instr := .tableLoad h c rec_
    let t := tableSlot x (recordSlot rec_)
    CmdReady s i h → recordDefect rec_ = none → slotBusy t = false → awaitedSlot s c x (recordSlot rec_) = false →
    (∀ k, activeTable t = some k → (recordTable rec_).generation = (k.generation + 1) % 65536) →
    ∃ u y, WaitsForTick (exec i s) s i h 1 [loadBank t] u ∧ ctxOf u c = some y ∧ tableSlot y (recordSlot rec_) = { t with pendingLoad := some (recordTable rec_) }
      ∧ (∀ k, k ≠ recordSlot rec_ → tableSlot y k = tableSlot x k) ∧ { y with tables := x.tables } = x)
      ∧ (let i : Instr := .tableActivate h c slot frame
        let t := tableSlot x slot
        CmdReady s i h → slot < 16 → frame < 2 ^ 48 → 2 ≤ framesAhead s frame → framesAhead s frame ≤ 65536 → activeTable t = some a → (if t.active then t.bank0 else t.bank1) = some b →
        b.generation = (a.generation + 1) % 65536 → t.pendingSwitch = none → awaitedSlot s c x slot = false →
        ∃ u y, WaitsForTick (exec i s) s i h (framesAhead s frame) [] u ∧ ctxOf u c = some y ∧ tableSlot y slot = { t with pendingSwitch := some frame }
          ∧ (∀ k, k ≠ slot → tableSlot y k = tableSlot x k) ∧ { y with tables := x.tables } = x)
      ∧ (let i : Instr := .encodeRange h p
        CmdReady s i h → p.context = c → p.format < 16 → p.format ≠ 14 → p.modeReq < 4 → (p.modeReq = 2 → (planeParams p.format).isSome = true) → p.slot < 16 → 1 ≤ p.decUnits → p.decUnits ≤ 64 → p.dst % 128 = 0 →
        p.count * (p.decUnits + 1) * 128 ≤ p.dstBytes → p.index % 8 = 0 → ownsSpan s h.partition p.src (p.count * (128 * p.decUnits)) = true → plainSpan s p.src (p.count * (128 * p.decUnits)) = true →
        ownsSpan s h.partition p.dst p.dstBytes = true → ownsSpan s h.partition p.index (8 * p.count) = true → x.state = .resident → WorksOn (exec i s) s i h [] (begin s i))
      ∧ (let i : Instr := .decodeCheck h c walk expect count src
        CmdReady s i h → walk < 2 → expect ≤ 64 → src % (if walk = 0 then 128 else 8) = 0 → SrcReady s h src (if walk = 0 then 128 else 8 * count) → WorksOn (exec i s) s i h [] (begin s i))

/-- R256, R259, R265, R283, R356: the context commands. CTX_CREATE with entries that its partition owns and a free identifier waits for
its tick; CTX_DESTROY works on; CTX_PIN waits for its tick; CTX_EVICT notes the change and works on; CTX_QUERY and ACCT_READ
write their records. -/
def Obligations.ContextCommands : Prop :=
  ∀ (s : State) (h : CmdHdr) (c pin scope id dst k : Nat) (scrub : Bool) (p : CtxCreateParams) (x : Ctx),
    let mine := ctxOf s c = some x ∧ x.partition = h.partition ∧ c < 32
    (let i : Instr := .ctxCreate h p
    let given := if p.requestedId = 0xFF then freeCtx s else some p.requestedId
    CmdReady s i h → given = some k → k < 32 → (p.requestedId = k ∨ p.requestedId = 0xFF) → p.priority < 4 → 1 ≤ p.sources.length → p.sources.length ≤ 24 → 1 ≤ p.frameLines → p.frameLines ≤ 65 →
    1 ≤ p.sessionSlots → p.sessionSlots ≤ 4096 → (∀ e ∈ p.sources, ∀ o, ∀ f ∈ sourceFields e o, f = none) → (p.group = true → s.grp.state ≠ .standalone ∧ p.requestedId ≠ 0xFF) →
    (p.requestedId = k → ctxOf s k = none ∧ k ∉ pendingIds s) → (∃ e, p.sources.filter (fun e => e.kind == 3) = [e] ∧ controlNeed p ≤ e.size) →
    (∀ e ∈ p.sources, ∃ n, coinciding s e = some n ∧ (rangeOf s n).owner = h.partition ∧ (rangeOf s n).context = 0xFFFF) → (∀ e ∈ p.sources.zipIdx, entryMeets s p.sources e = false) →
    (allCtxs s).length + (pendingIds s).length < 32 →
    ((allCtxs s).filter (fun e => e.2.partition == h.partition)).length + pendingOf s h.partition < (partOf s h.partition).maxContexts → (residents s).length + (pendingIds s).length < 8 →
    WaitsForTick (exec i s) s i h 1 [k] (begin s i))
      ∧ (let i : Instr := .ctxDestroy h c scrub
        CmdReady s i h → mine → x.state ≠ .destroying → longPending s (destroysCtx c) = false → WorksOn (exec i s) s i h [] (begin s i))
      ∧ (let i : Instr := .ctxPin h c pin
        CmdReady s i h → mine → pin < 2 → x.state ≠ .destroying → tickPending s (pinsCtx c) = false →
        (pin = 0 ∨ x.pinned = true ∨ pinnedCount s + s.host.ticking.countP (fun p => pins p.op) < 7) → WaitsForTick (exec i s) s i h 1 [] (begin s i))
      ∧ (let i : Instr := .ctxEvict h c
        CmdReady s i h → mine → x.state = .resident → x.pinned = false → x.unevictable = false → x.change = none → longPending s (evictsCtx c) = false → longPending s (destroysCtx c) = false →
        WorksOn (exec i s) s i h [] (setCtx (begin s i) c { x with change := some .evict }))
      ∧ (let i : Instr := .ctxQuery h c dst
        CmdReady s i h → mine → DstReady s h dst 576 → Replies (exec i s) s i h (stateCode x.state) 0 (writeDst (begin s i) h dst (ctxRecord x)))
      ∧ (let i : Instr := .acctRead h scope id dst
        CmdReady s i h → DstReady s h dst 768 →
        (scope = 0 → id = c → mine → Replies (exec i s) s i h (frameNow s) 0 (writeDst (begin s i) h dst (acctRecord s x.acctTick)))
          ∧ (scope = 1 → id < 8 → id = h.partition → Replies (exec i s) s i h (frameNow s) 0 (writeDst (begin s i) h dst (acctRecord s (partOf s id).acctTick))))

/-- R33, R50, R56, R58, R268 to R271, R357: the schedule commands. SCHED_LOAD holds the image that it has read and checked; SCHED_UNLOAD
and STEP_ABORT wait for their tick; STEP_SUBMIT and KERNEL_LAUNCH put a step into their context's queue and work on until it has
ended; FRAME_CONFIG announces the settings for the second tick ahead, the keystone of a group for the third. -/
def Obligations.ScheduleCommands : Prop :=
  ∀ (s : State) (h : CmdHdr) (c src n bank manifest m seq bucket inp out : Nat) (f : FrameParams) (x : Ctx),
    ctxOf s c = some x → x.partition = h.partition → c < 32 →
    let img := peekObj s h.partition src n
    let man := peekObj s h.partition manifest m
    let b := (findBucket (activeImage x) bucket).getD []
    (let i : Instr := .schedLoad h c src n
    CmdReady s i h → src < 2 ^ 48 → 0 < n → SrcReady s h src n → (x.state = .loading ∨ x.state = .resident) → unitsWhole s = true → x.switchPending = false → longPending s (loads c) = false →
    tickPending s (unloads c) = false → n ≤ x.params.imageUnits * granule → peekPoison s h.partition src n = false → imageDefect s x img n = none →
    (∀ k, activeBank x = some k → imgGeneration img = (k.generation + 1) % 65536) → ∃ u, WorksOn (exec i s) s i h img u ∧ u.ctxs = s.ctxs)
      ∧ (let i : Instr := .schedUnload h c bank
        CmdReady s i h → bank < 2 → (x.state = .loading ∨ x.state = .resident) → (bank = 1 → x.imageActive = true ∧ x.queue = [] ∧ x.inFlight = none) →
        (bank = 0 → (inactiveBank x).isSome = true) → tickPending s (unloads c) = false → longPending s (loads c) = false → WaitsForTick (exec i s) s i h 1 [] (begin s i))
      ∧ (let i : Instr := .stepSubmit h c m manifest
        CmdReady s i h → 96 ≤ m → m ≤ 131104 → m % 32 = 0 → SrcReady s h manifest m → unitsWhole s = true → peekPoison s h.partition manifest m = false → (∀ k ∈ manifestChecks s h c x man, k = none) →
        AnswersWith (exec i s) (fun t => (∃ y k, ctxOf t c = some y ∧ y.queue = x.queue ++ [k] ∧ k.hdr = h ∧ k.seq = some (fieldAt man 8 4) ∧ k.sessions = sessRecs man ∧ k.row = 0 ∧ k.started = false
            ∧ y.lastSeq = k.seq ∧ y.inFlight = x.inFlight ∧ y.pages = x.pages) ∧ (∀ k, k ≠ c → ctxOf t k = ctxOf s k)
          ∧ t.host.long = s.host.long ++ [{ op := i, image := [], hdr := h, accepted := s.frames.ticks, reply := none }]))
      ∧ (let i : Instr := .kernelLaunch h c bucket inp out
        CmdReady s i h → bucket < 64 → inp < 2 ^ 48 → out < 2 ^ 48 → x.state ≠ .degraded → x.state ≠ .loading → x.state ≠ .destroying → b ≠ [] → bucketPhase b < 2 → x.queue.length < 16 →
        AnswersWith (exec i s) (fun t => (∃ y k, ctxOf t c = some y ∧ y.queue = x.queue ++ [k] ∧ k.hdr = h ∧ k.seq = none ∧ k.bucket = bucket ∧ k.sessions = [] ∧ k.row = 0 ∧ k.started = false ∧ k.outputAddr = out
            ∧ y.lastSeq = x.lastSeq ∧ y.inFlight = x.inFlight ∧ y.pages = x.pages) ∧ (∀ k, k ≠ c → ctxOf t k = ctxOf s k)
          ∧ t.host.long = s.host.long ++ [{ op := i, image := [], hdr := h, accepted := s.frames.ticks, reply := none }]))
      ∧ (let i : Instr := .stepAbort h c seq
        CmdReady s i h → hasStep x seq = true → WaitsForTick (exec i s) s i h 1 [] (begin s i))
      ∧ (let i : Instr := .frameConfig h f
        CmdReady s i h → 8 ≤ f.periodUs → f.periodUs ≤ 80 → 1 ≤ f.quantumUs → f.quantumUs ≤ 8 → f.maxQuanta ≤ 4 → 5 ≤ f.lateLead → f.lateLead ≤ 40 → f.source ≤ 2 →
        (isKeystone s = true ∨ timingChanged s.frames.cfg f = false) → s.frames.announced = none → 2 * f.maxQuanta * f.quantumUs + 3 < f.periodUs →
        (s.frames.cfg.periodUs ≤ f.periodUs ∨ longestPeriod s ≤ f.periodUs) →
        let ahead := if s.grp.state = .keystone ∧ 1 < s.grp.size then 3 else 2
        WaitsForTick (exec i s) s i h ahead [] { begin s i with frames := { s.frames with announced := some (cfgOf f, s.frames.ticks + ahead) } })

/-- R287, R296, R300, R303, R358: the group and link commands. GROUP_FORM takes its descriptor and joins; GROUP_LEAVE of a member waits for
the next tick, the keystone's, like MEMBER_EXCLUDE, for the third, announced; LINK_TRAIN trains or disables its ports; LINK_KEY_ROTATE
asks both directions of its ports for their next key. -/
def Obligations.GroupCommands : Prop :=
  ∀ (s : State) (h : CmdHdr) (mask op rank : Nat) (fresh : Bool) (p : GroupFormParams),
    (let i : Instr := .groupForm h p
    CmdReady s i h → p.ok = true → (∀ c ∈ formFields p, c = none) → s.grp.state = .standalone → p.identities.getD p.rank [] = moduleIdentity →
    AnswersWith (exec i s) (fun t => t.grp.state = .joining ∧ t.grp.rank = p.rank ∧ t.grp.form = some p ∧ t.grp.formHdr = some h ∧ t.grp.startFrame = none
      ∧ (∃ l, t.host.long = s.host.long ++ [l] ∧ l.op = i ∧ l.hdr = h ∧ l.reply = none)
      ∧ ∀ k, k < 14 → (p.portMap.getD k 0xFF = 0xFF → portOf t k = portOf s k) ∧ (p.portMap.getD k 0xFF ≠ 0xFF → portUp (portOf s k) = false → portOf t k = retrainPort (portOf s k))
        ∧ (portUp (portOf s k) = true → (portOf t k).state = (portOf s k).state ∧ (portOf t k).lanes = (portOf s k).lanes ∧ (portOf t k).rxKey = (portOf s k).rxKey)))
      ∧ (let i : Instr := .groupLeave h
        CmdReady s i h → (s.grp.state = .member ∨ s.grp.state = .lost) → groupWork s = false → tickPending s leaves = false → WaitsForTick (exec i s) s i h 1 [] (begin s i))
      ∧ (let i : Instr := .groupLeave h
        CmdReady s i h → s.grp.state = .keystone → groupWork s = false → tickPending s leaves = false →
        ∃ u, WaitsForTick (exec i s) s i h 3 [] u ∧ (∃ a ∈ u.grp.announced, a.entry = memberEntry 3 0xFF (frameIn s 3) s.grp.epoch) ∧ u.grp.members = s.grp.members)
      ∧ (let i : Instr := .memberExclude h rank
        CmdReady s i h → s.grp.state = .keystone → rank ∈ s.grp.members → rank ≠ s.grp.rank → rank < 64 → tickPending s (excludes rank) = false →
        ∃ u, WaitsForTick (exec i s) s i h 3 [] u ∧ rank ∈ u.grp.lost ∧ ∃ a ∈ u.grp.announced, a.entry = memberEntry 2 rank (frameIn s 3) s.grp.epoch)
      ∧ (let i : Instr := .linkTrain h mask op
        CmdReady s i h → mask < 2 ^ 14 → op < 2 → longPending s (trainsPorts mask) = false → (op = 1 ∨ braked s.power = false ∧ (groupStepRuns s = false ∨ ∀ k ∈ maskPorts mask, portUp (portOf s k) = false)) →
        ∃ u, WorksOn (exec i s) s i h [] u ∧ (∀ k, k ∈ maskPorts mask → portOf u k =
            if op = 1 then { portDown (restartLink (portOf s k)) with state := .disabled, trainFail := none }
              else if trainable (portOf s k) then { portTrain (portOf s k) with trainCmd := true } else { portDown (portOf s k) with trainFail := some (stTimeout, 0) })
          ∧ ∀ k, k ∉ maskPorts mask → (portOf u k).state = (portOf s k).state ∧ (s.grp.state = .standalone → portOf u k = portOf s k))
      ∧ (let i : Instr := .linkKeyRotate h mask fresh
        CmdReady s i h → mask < 2 ^ 14 → (∀ k ∈ maskPorts mask, portUp (portOf s k) = true ∧ (portOf s k).rotateTx = false ∧ (portOf s k).rotateRx = false) →
        ∃ u, WorksOn (exec i s) s i h [] u ∧ (fresh = false → ∀ k, (portOf u k).newPrk = (portOf s k).newPrk) ∧ (fresh = true → ∀ k ∈ maskPorts mask, (portOf u k).newPrk.isSome = true)
          ∧ ∀ k, portOf u k = if k ∈ maskPorts mask then { portOf s k with rotateTx := true, rotateRx := true, newPrk := (portOf u k).newPrk } else portOf s k)

/-- R359, R399 to R401, R410, R413 to R415: the commands of power and of check values. Settings within their range wait for the next tick;
the records are written; CALIBRATE, while neither brake nor thermal limit stands, and CV_RUN work on; CV_SAVE frees its stream,
CV_RESTORE fills a free one from a sound record. -/
def Obligations.PowerAndCheckCommands : Prop :=
  ∀ (s : State) (h : CmdHdr) (cap b0 b1 b2 dst src k : Nat) (p : CvRunParams),
    let x := streamOf s h.partition k
    let r := peekObj s h.partition src 32
    (let i : Instr := .powerCapSet h cap
    CmdReady s i h → 1200 ≤ cap → cap ≤ 3600 → WaitsForTick (exec i s) s i h 1 [] (begin s i))
      ∧ (let i : Instr := .powerPrioritySet h b0 b1 b2
        CmdReady s i h → b0 < 3 → b1 < 3 → b2 < 3 → b0 ≠ b1 → b0 ≠ b2 → b1 ≠ b2 → WaitsForTick (exec i s) s i h 1 [] (begin s i))
      ∧ (let i : Instr := .powerRead h dst
        CmdReady s i h → DstReady s h dst 64 → Replies (exec i s) s i h s.power.inputW 0 (writeDst (begin s i) h dst (powerRecord s)))
      ∧ (let i : Instr := .vfTableRead h dst
        CmdReady s i h → DstReady s h dst 64 → Replies (exec i s) s i h s.frames.applied 0 (writeDst (begin s i) h dst (vfTable s)))
      ∧ (let i : Instr := .calibrate h
        CmdReady s i h → braked s.power = false → thermalLimited s = false → WorksOn (exec i s) s i h [] (begin s i))
      ∧ (let i : Instr := .cvRun h p
        CmdReady s i h → p.stream = k → k < 16 → p.poly < 4 → ((if p.start then p.alive16 else x.alive16) = true ∨ p.alive < 256) → (p.bytes ≠ 0 ∧ SrcReady s h p.src p.bytes ∨ p.bytes = 0 ∧ p.final = true) →
        (p.start = true ∨ x.inUse = true) → longPending s (runsStream h.partition k) = false → (p.checkAlive = true → p.start = false → p.alive % aliveSpan x.alive16 = x.expected) →
        WorksOn (exec i s) s i h [] (begin s i))
      ∧ (let i : Instr := .cvSave h k dst
        CmdReady s i h → k < 16 → DstReady s h dst 32 → x.inUse = true → longPending s (runsStream h.partition k) = false →
        Replies (exec i s) s i h 0 0 (setStream (writeDst (begin s i) h dst (streamRecord x h.partition k)) h.partition k Stream.reset))
      ∧ (let i : Instr := .cvRestore h k src
        CmdReady s i h → k < 16 → SrcReady s h src 32 → x.inUse = false → longPending s (runsStream h.partition k) = false → peekPoison s h.partition src 32 = false →
        fieldAt r 0x1C 4 = crc32c (r.take 0x1C) → fieldAt r 0 2 = 0x5643 → fieldAt r 2 1 < 4 → fieldAt r 4 1 = h.partition →
        ∃ u, Replies (exec i s) s i h (fieldAt r 8 8) 0 u ∧ streamOf u h.partition k = recordStream r ∧ ∀ q j, (q ≠ h.partition ∨ j ≠ k) → streamOf u q j = streamOf s q j)

/-- R219, R359, R371, R429, R431, R432, R438, R441, R444, R446: the commands of health and of observation. Records are written; the hang
policy and the trace wait for the next tick; a reset of a domain that is not being reset begins, and works on unless the reset
takes the module or die 0; MARGIN_RUN closes its stack; STEP_GATE acts on the group's gate. -/
def Obligations.HealthAndDebugCommands : Prop :=
  ∀ (s : State) (h : CmdHdr) (cls number dst n action stack kind enable ring size first count id op grants : Nat) (d : Dump),
    (let i : Instr := .resetDomain h cls number
    CmdReady s i h → cls < 5 → number < domainCount cls → ¬ (cls = 4 ∧ number = 0) → ⟨cls, number⟩ ∉ s.health.resetting →
    AnswersWith (exec i s) (fun t => ⟨cls, number⟩ ∈ t.health.resetting ∧ t.health.lastCause = 1 ∧ (∃ l, t.host.long = s.host.long ++ [l] ∧ l.op = i ∧ l.hdr = h ∧ l.reply = none)
      ∧ (cls = 4 → mget 0 t.health.dieState number = 1)))
      ∧ (let i : Instr := .resetDomain h 5 0
        CmdReady s i h → ⟨5, 0⟩ ∉ s.health.resetting → exec i s = .next (resetModule (writeReply (begin s i) h 0x0901 (doneStatus s s.frames.ticks) 5 0 0xFFFF) 1))
      ∧ (let i : Instr := .healthRead h dst n
        CmdReady s i h → (healthRecord s).length ≤ n → DstReady s h dst (healthRecord s).length → Replies (exec i s) s i h (healthRecord s).length 0 (writeDst (begin s i) h dst (healthRecord s)))
      ∧ (let i : Instr := .hangPolicySet h action
        CmdReady s i h → action < 3 → WaitsForTick (exec i s) s i h 1 [] (begin s i))
      ∧ (let i : Instr := .spareMapRead h dst
        CmdReady s i h → DstReady s h dst 736 → Replies (exec i s) s i h 736 0 (writeDst (begin s i) h dst (spareMap s)))
      ∧ (let i : Instr := .marginRun h stack kind dst
        CmdReady s i h → stack < 24 → kind < 3 → DstReady s h dst 64 → (∀ e ∈ s.mem.ranges, e.2.size = 0 ∨ stackNo e.2.base ≠ stack) → longPending s (marginsStack stack) = false →
        braked s.power = false → thermalLimited s = false → ∃ u, WorksOn (exec i s) s i h [] u ∧ u.mem.bytes = s.mem.bytes
          ∧ (∀ k, stackOf u k = if k = stack then { stackOf s k with state := if (stackOf s k).state = .outOfService then .outOfService else .margining } else stackOf s k)
          ∧ ∀ l, stackNo (128 * l) = stack → calFind u l = none)
      ∧ (let i : Instr := .traceConfig h enable ring size
        CmdReady s i h → enable < 4 → isHostAddr ring = true → (windowFor s 8 ring size true).isSome = true → traceRingSize size = true → tickPending s isTraceConfig = false →
        WaitsForTick (exec i s) s i h 1 [] (begin s i))
      ∧ (let i : Instr := .counterRead h cls first count dst
        CmdReady s i h → cls < 8 → 1 ≤ count → first + count ≤ classInstances cls → DstReady s h dst (count * classRecord cls) → (h.fn ≠ 0 → ¬ (3 ≤ cls ∧ cls ≤ 5) ∧ runningPart s = some h.partition) →
        ∃ u, Replies (exec i s) s i h (frameNow s) (count * classRecord cls) u
          ∧ (cls ≠ 7 → u = writeDst { begin s i with freeCount := s.freeCount + 1 } h dst ((upto first count).flatMap (countRecord (begin s i) (decide (h.fn ≠ 0)) cls))))
      ∧ (let i : Instr := .waitgraphRead h dst n
        CmdReady s i h → (graphRecord s.health.graph).length ≤ n → DstReady s h dst (graphRecord s.health.graph).length →
        Replies (exec i s) s i h 0 0 (writeDst (begin s i) h dst (graphRecord s.health.graph)))
      ∧ (let i : Instr := .dumpRead h id dst n
        CmdReady s i h → dumpOf s id = some d → (dumpReply h d).length ≤ n → DstReady s h dst (dumpReply h d).length → WorksOn (exec i s) s i h [] (begin s i))
      ∧ (let i : Instr := .stepGate h op grants
        CmdReady s i h → op < 3 → (op = 1 → 1 ≤ grants ∧ grants < 65536) → s.grp.state = .keystone → 16 ≤ s.grp.members.length →
        Replies (exec i s) s i h 0 0 { begin s i with grp := { s.grp with
          gateNext := if op = 0 then some true else if op = 2 then some false else s.grp.gateNext
          grantsLeft := if op = 1 then s.grp.grantsLeft + grants else if op = 2 then 0 else s.grp.grantsLeft } })

/-- R206, R231, R280, R325, R349, R388: LONG_COMMAND_END of a command whose work can end: it leaves the long commands and its reply is
written. A load brings the host's bytes, a range that is zeroed reads zero, an invalidation leaves no line of its range in the
calderas, a deleted queue is gone, and what a command's own rules have set as its outcome is what it replies. HOST_READ_UNANSWERED
ends a load with INTERNAL_TIMEOUT. -/
def Obligations.LongCommandEnds : Prop :=
  ∀ (s : State) (l : LongCmd) (h : CmdHdr) (base size st r r2 q k : Nat) (x : Queue), l ∈ s.host.long → l.hdr = h →
    s.host.long.find? (fun m => m.hdr.queue == h.queue && m.hdr.sqPos == h.sqPos) = some l →
    let e := exec (.longCommandEnd h.queue h.sqPos) s
    let s0 := { s with host := { s.host with long := s.host.long.erase l } }
    let done := doneStatus s l.accepted
    (l.reply = some (st, r, r2) → (∀ a b c d, l.op ≠ .marginRun a b c d) → e = .next (writeReply s0 h (opcodeOf l.op) (if st = stDone then done else st) r r2 0xFFFF))
      ∧ (l.reply = none → l.op = .queueDelete h q → queueOf? s q = some x → x.inFlight = [] → q ≠ h.queue → AnswersWith e (fun t => queueOf? t q = none ∧ t.host.long = s.host.long.erase l
        ∧ (∀ j, j ≠ q → j ≠ h.queue → queueOf? t j = queueOf? s j)))
      ∧ (l.reply = none → l.op = .scrubRange h base size 1 → base % 128 = 0 → size % 128 = 0 → (∀ j, base / 128 ≤ j → j < (base + size) / 128 → lineGone s j = false) →
        AnswersWith e (fun t => t.host.long = s.host.long.erase l ∧ (∀ a, base ≤ a → a < base + size → readByte t.mem.bytes a = 0)
          ∧ (∀ a, (a < base ∨ base + size ≤ a) → readByte t.mem.bytes a = readByte s.mem.bytes a) ∧ ∀ j, 128 * j < base + size → base ≤ 128 * j → calFind t j = none))
      ∧ (l.reply = none → l.op = .calderaInval h base size → AnswersWith e (fun t => t.host.long = s.host.long.erase l ∧ ∀ j, 128 * j < base + size → base ≤ 128 * j → calFind t j = none))
      ∧ (∀ src dst n, l.reply = none → l.op = .bulkLoad h src dst n → AnswersWith e (fun t => t.host.long = s.host.long.erase l
          ∧ ∀ a, dst % 128 = 0 → n % 128 = 0 → hostTarget s h.partition src n false = some a → (∀ j, dst / 128 ≤ j → j < (dst + n) / 128 → lineGone s j = false ∧ calFind s j = none) →
            ∀ d, d < n → readByte t.mem.bytes (dst + d) = readByte s.host.mem (a + d))
        ∧ AnswersWith (exec (.hostReadUnanswered h.queue h.sqPos k) { s with host := { s.host with long := [l] } }) (fun t => t.host.long = []
          ∧ ∃ u lost, t = writeReply u h 0x0202 stTimeout (min k n / 128 * 128 - 128 * lost) lost 0xFFFF))

/-- R5, R319, R334, R342, R405: doorbells, RC reads and alarms. A doorbell sets the tail, the head or the event head of an own ring in use
to a value of that ring, after what the host had made visible; another write of it is counted. A read of an RC counter answers it and
clears it. HX_PWR_ALARM clears the alarms in which a 1 is written, but for a line that is still low. -/
def Obligations.DoorbellsAndReads : Prop :=
  ∀ (s : State) (fn q v : Nat) (posted : List (Nat × Byte)) (value : BitVec 64) (x : Queue), fn < 9 → q < 256 →
    let mine := queueOf? s q = some x ∧ x.owner = fn ∧ x.enabled = true
    let n := 2 ^ x.cqLog2
    (mine → v < 2 ^ x.sqLog2 → v < 4096 → AnswersWith (exec (.hxDbell fn q v posted) s) (fun t => queueOf? t q = some { x with sqTail := v } ∧ (∀ j, j ≠ q → queueOf? t j = queueOf? s j)
        ∧ t.host.mem = posted.foldl (fun m e => writeBytes m e.1 [e.2]) s.host.mem ∧ { t with host := s.host } = s))
      ∧ (mine → 2 ^ x.sqLog2 ≤ v → v < 4096 → AnswersWith (exec (.hxDbell fn q v []) s) (fun t => t = setFn s fn { fnOf s fn with dbFault := (fnOf s fn).dbFault + 1 }))
      ∧ (mine → v < n → v < 4096 → (v + n - x.cqHead) % n ≤ (x.cqTail + n - x.cqHead) % n → AnswersWith (exec (.hxCqdb fn q v) s) (fun t => t = setQueue s q (some { x with cqHead := v })))
      ∧ (v < 4096 → AnswersWith (exec (.hxEvqHead fn v) s) (fun t => t = setFn s fn { fnOf s fn with evqHead := v }))
      ∧ ((fnOf s fn).dbFault < 2 ^ 32 → AnswersWith (exec (.rcRegisterRead fn 0x200) s) (fun t => t.resp.data = leBytes (fnOf s fn).dbFault 8 ∧ (fnOf t fn) = { fnOf s fn with dbFault := 0 }
        ∧ { t with host := s.host, resp := s.resp, freeCount := s.freeCount } = s))
      ∧ exec (.hxPwrAlarm 0 value) s = .next { s with power := { s.power with
          alarmStuck := s.power.alarmStuck && (s.power.lineLow || !value[3]), alarmDisagree := s.power.alarmDisagree && !value[2]
          alarmThermal := s.power.alarmThermal && !value[1], alarmBrake := s.power.alarmBrake && !value[0] } }
      ∧ (fn ≠ 0 → exec (.hxPwrAlarm fn value) s = .next s)

/-- R327, R329: rings from registers. A base is written while its ring is not in use; enable starts a ring whose registers are good,
empty, on its first pass, with a new incarnation; clearing it stops the fetching, and the ring leaves use with its last reply. -/
def Obligations.RingRegisters : Prop :=
  ∀ (s : State) (fn vector cq sq : Nat) (value : BitVec 64) (x : Queue), fn < 9 → vector < 256 → cq < 16 → sq < 16 →
    let f := fnOf s fn
    let others (t : State) : Prop := ∀ q, q ≠ fn → queueOf? t q = queueOf? s q
    (aqEnabled s fn = false → 4 ≤ cq → cq ≤ 12 → 4 ≤ sq → sq ≤ 12 → f.aqSqBase ≠ 0 → f.aqCqBase ≠ 0 → AnswersWith (exec (.ringEnable fn false vector cq sq) s) (fun t =>
        queueOf? t fn = some (newQueue s.host.nextRing fn f.aqSqBase.toNat f.aqCqBase.toNat sq cq vector) ∧ others t ∧ t.host.nextRing = s.host.nextRing + 1
          ∧ fnOf t fn = { f with aqVector := vector, aqCqLog2 := cq, aqSqLog2 := sq, aqEnable := true } ∧ { t with host := s.host } = s))
      ∧ (f.evqEnabled = false → 4 ≤ cq → cq ≤ 12 → f.evqBase ≠ 0 → AnswersWith (exec (.ringEnable fn true vector cq sq) s) (fun t =>
        t = setFn s fn { f with evqVector := vector, evqLog2 := cq, evqEnable := true, evqEnabled := true, evqHead := 0, evqTail := 0, evqPhase := true }))
      ∧ (queueOf? s fn = some x → x.owner = fn → x.enabled = true → AnswersWith (exec (.ringDisable fn false) s) (fun t =>
        queueOf? t fn = some { x with fetching := false, enabled := !x.inFlight.isEmpty } ∧ others t ∧ fnOf t fn = { f with aqEnable := false } ∧ { t with host := s.host } = s))
      ∧ (f.evqEnabled = true → exec (.ringDisable fn true) s = .next (setFn s fn { f with evqEnable := false, evqEnabled := false }))
      ∧ (aqEnabled s fn = false → exec (.registerWrite fn 0x100 value) s = .next (setFn s fn { f with aqSqBase := value &&& 0xFFFFFFFFFFFFFFC0 }))
      ∧ (aqEnabled s fn = true → exec (.registerWrite fn 0x100 value) s = .next (setFn s fn { f with dbFault := f.dbFault + 1 }))
      ∧ (∀ o, 0x1000 ≤ o → o < 0x2000 → exec (.registerWrite fn o value) s = .next s)

/-- R330, R331, R343: the tables of the physical function. An entry that is not valid takes a write that keeps it so; its flags make it
valid where the entry has no defect and overlaps no other; a valid exposure entry begins to close. Other functions' writes change
nothing. -/
def Obligations.HostTables : Prop :=
  ∀ (s : State) (fn index word o n v : Nat) (value : BitVec 64), fn < 9 → index < 128 → 0 < n → n ≤ 8 → o + n ≤ 32 → word < 2 →
    let w := windowAt s index
    let new := winOf (((winBytes w).take o ++ leBytes v n ++ (winBytes w).drop (o + n)).take 32)
    let e := exposureAt s index
    let m : Exposure := { e with word0 := value &&& 0x8000FFFFFFFFFFFF }
    (bit w.flags.toNat 0 = false → (bit new.flags.toNat 0 = false ∨ winDefect new = false ∧ winOverlap s index new = false) →
        AnswersWith (exec (.hostWindowEntryWrite 0 index o n v) s) (fun t => windowAt t index = new ∧ (∀ k, k ≠ index → windowAt t k = windowAt s k)
          ∧ { t with host := { t.host with windows := s.host.windows } } = s))
      ∧ (fn ≠ 0 → exec (.hostWindowEntryWrite fn index o n v) s = .next s)
      ∧ (index < 64 → expValid e = false → (word = 1 ∨ expValid m = false ∨ expDefect m = false ∧ expOverlap s index m = false) →
        AnswersWith (exec (.exposureEntryWrite 0 index word value) s) (fun t => exposureAt t index = (if word = 1 then { e with word1 := value &&& 0x1FFFFFFFFF } else m)
          ∧ (∀ k, k ≠ index → exposureAt t k = exposureAt s k) ∧ { t with host := { t.host with exposures := s.host.exposures } } = s))
      ∧ (index < 64 → expValid e = true → (word = 1 ∨ bit value.toNat 63 = true) → exec (.exposureEntryWrite 0 index word value) s = .next (setFn s 0 { fnOf s 0 with dbFault := (fnOf s 0).dbFault + 1 }))
      ∧ (index < 64 → fn ≠ 0 → exec (.exposureEntryWrite fn index word value) s = .next s)

/-- R316, R317, R321, R325, R326, Table 14-1: the CXL port. FLR takes a function's rings and registers, FLR of the physical function and a
hot reset everyone's with the tables; training sets width and rate; an invalidation drops translations; IDE fails or comes into force
on one protocol, the latter inside a secured session; discovery answers the protocol at an index. -/
def Obligations.CxlPort : Prop :=
  ∀ (s : State) (fn width rate base size index : Nat) (flit : Bool),
    (0 < fn → fn < 9 → AnswersWith (exec (.flr fn) s) (fun t => fnOf t fn = Fn.reset ∧ (∀ q x, queueOf? t q = some x → x.owner ≠ fn) ∧ (∀ g, g ≠ fn → fnOf t g = fnOf s g)
        ∧ { t with host := s.host } = s))
      ∧ AnswersWith (exec (.flr 0) s) (fun t => (∀ g, g < 9 → fnOf t g = Fn.reset) ∧ t.host.windows = [] ∧ t.host.winNow = [] ∧ t.host.exposures = [] ∧ t.flash = s.flash ∧ t.ctxs = s.ctxs)
      ∧ AnswersWith (exec .hotReset s) (fun t => (∀ g, g < 9 → fnOf t g = Fn.reset) ∧ t.host.windows = [] ∧ t.host.ats = [] ∧ t.host.linkUp = false ∧ t.flash = s.flash)
      ∧ (width ∈ [1, 2, 4, 8] → rate ∈ [16, 32, 64] → (rate = 64 → flit = true) → AnswersWith (exec (.cxlLinkTraining width rate flit) s) (fun t =>
        t.host.linkWidth = width ∧ t.host.linkRate = rate ∧ t.host.flit256 = flit ∧ t.host.linkUp = true ∧ (width = 8 → rate = 64 →
          t = { s with host := { s.host with linkWidth := width, linkRate := rate, flit256 := flit, linkUp := true } })))
      ∧ exec (.atsInvalidation base size) s = .next { s with host := { s.host with ats := s.host.ats.filter (fun e => !meets (4096 * e.1) 4096 base size) } }
      ∧ AnswersWith (exec (.ideFail .cxlIo) s) (fun t => t.host.ideIo = false ∧ t.host.ideIoFailed = true ∧ t.host.ideMem = s.host.ideMem ∧ t.host.ideMemFailed = s.host.ideMemFailed)
      ∧ AnswersWith (exec (.ideFail .cxlCachemem) s) (fun t => t.host.ideMem = false ∧ t.host.ideMemFailed = true ∧ t.host.ideIo = s.host.ideIo ∧ t.host.ideIoFailed = s.host.ideIoFailed)
      ∧ (s.rot.spdm.session = true → exec (.ideKm .cxlIo) s = .next { s with host := { s.host with ideIo := true, ideIoFailed := false } }
        ∧ exec (.ideKm .cxlCachemem) s = .next { s with host := { s.host with ideMem := true, ideMemFailed := false } })
      ∧ (s.rot.spdm.session = false → exec (.ideKm .cxlIo) s = .next s ∧ exec (.ideKm .cxlCachemem) s = .next s)
      ∧ exec (.doeDiscovery index) s = .next { s with resp := { data := if 3 ≤ index then leBytes 0xFFFF 2 ++ leBytes 0 2 else leBytes 1 2 ++ leBytes index 1 ++ leBytes ((index + 1) % 3) 1 } }

/-- R333, R335, R337 to R339: PACKET_FETCH of the queue whose turn it is. A packet that passes every check is consumed with its alive
value, is in flight, and its command stands among the started ones; an ordered one waits while earlier commands are in flight. A
packet whose crc fails is consumed without its alive value, and answered BAD_CRC. A queue whose turn it is not waits. -/
def Obligations.PacketFetch : Prop :=
  ∀ (s : State) (q : Nat) (x : Queue) (i : Instr), q < 256 → queueOf? s q = some x → fetches s = true →
    let hd := ringBytes s x x.sqHead 64
    let len := fieldAt hd 4 2
    let n := (len + 63) / 64
    let p := ringBytes s x x.sqHead len
    let h := headerOf x q p
    (turn s = some q → 32 ≤ len → len ≤ 4096 → len % 32 = 0 → n ≤ ringSpan x.sqLog2 x.sqHead x.sqTail →
        (packetCrcOk p = true → checkPacket x q h p = .command i → (h.ordered = false ∨ x.inFlight = []) → AnswersWith (exec (.packetFetch q) s) (fun t =>
            t.host.started = s.host.started ++ [i] ∧ queueOf? t q = some { x with sqHead := (x.sqHead + n) % 2 ^ x.sqLog2, alive := (x.alive + 1) % 65536, inFlight := x.inFlight ++ [(h.sqPos, h.alive)] }
              ∧ t.host.mem = s.host.mem ∧ (∀ k, k ≠ q → queueOf? t k = queueOf? s k) ∧ t.host.rrNext = (q + 1) % 256 ∧ { t with host := s.host, obs := s.obs } = s))
          ∧ (packetCrcOk p = true → checkPacket x q h p = .command i → h.ordered = true → x.inFlight ≠ [] →
            exec (.packetFetch q) s = .next { s with host := { s.host with rrNext := (q + 1) % 256 } })
          ∧ (packetCrcOk p = false → AnswersWith (exec (.packetFetch q) s) (fun t => t.host.started = s.host.started ∧ mget 0 t.host.qrejRejected q = mget 0 s.host.qrejRejected q + 1
            ∧ t.host.qrejAlive = s.host.qrejAlive ∧ ∃ y, queueOf? t q = some y ∧ y.sqHead = (x.sqHead + n) % 2 ^ x.sqLog2 ∧ y.alive = x.alive ∧ y.cqTail = (x.cqTail + 1) % 2 ^ x.cqLog2)))
      ∧ (turn s ≠ some q → exec (.packetFetch q) s = .next s)

/-! ### Frames and ticks -/

/-- R45 to R48, R52, R54, R55, Table 2-1: the frame timer of a module that is ready. A tick moves the frame counter by one, shows whether the
frame that ended was in overrun, and plans the next; a report or an overrun stretches the frame by one quantum while quanta are left. A
check point reports a frame that is not complete. An edge below 20 ns, or before the minimum frame, is no tick. One and a half periods
without a tick make an internal one. A tick at which a hang leaves its abort behind is not described here: it can reset the module. -/
def Obligations.FrameTimer : Prop :=
  ∀ (s : State) (at_ high : Nat), ticking s = true →
    let f := s.frames
    let later : State := { s with now := max s.now at_ }
    let ticked (o : Host.Outcome State Fault Refusal) : Prop := AnswersWith o (fun t =>
      t.now = max s.now at_ ∧ t.frames.counter = f.counter + 1 ∧ t.frames.ticks = f.ticks + 1 ∧ t.frames.lastTick = at_
        ∧ t.frames.overrun = !frameComplete s ∧ t.frames.overrunRun = (if frameComplete s then 0 else f.overrunRun + 1)
        ∧ t.frames.overrunCnt = f.overrunCnt + b2n (!frameComplete s) ∧ t.frames.planned = at_ + periodNs t.frames.cfg + quantaNs t.frames.cfg t.frames.stretch
        ∧ t.frames.late = false ∧ t.frames.checks = 0 ∧ t.frames.checked = false ∧ t.frames.fetched = none ∧ (t.residency.current = none → t.frames.running = none))
    (tickSource s = 0 → at_ < f.planned → exec (.tick at_) s = .next later)
      ∧ (tickSource s = 0 → f.planned ≤ at_ → (s.grp.lateRanks ≠ [] ∨ anyOverrun s = true) → f.stretch < f.cfg.maxQuanta → AnswersWith (exec (.tick at_) s) (fun t =>
        t.frames.planned = f.planned + quantaNs f.cfg 1 ∧ t.frames.stretch = f.stretch + 1 ∧ t.frames.stretchCnt = f.stretchCnt + 1
          ∧ t.frames.counter = f.counter ∧ t.frames.ticks = f.ticks ∧ t.frames.lastTick = f.lastTick))
      ∧ (tickSource s = 0 → f.planned ≤ at_ → (s.grp.lateRanks = [] ∧ anyOverrun s = false ∨ f.cfg.maxQuanta ≤ f.stretch) → s.health.hangAt = none → ticked (exec (.tick at_) s))
      ∧ (tickSource s ≠ 0 → f.freeRun = true → f.lastTick + periodNs f.cfg ≤ at_ → s.health.hangAt = none → ticked (exec (.tick at_) s))
      ∧ (tickSource s ≠ 0 → (f.freeRun = false ∨ at_ < f.lastTick + periodNs f.cfg) → exec (.tick at_) s = .next later)
      ∧ ((f.checked = true ∨ at_ < checkAt s) → exec (.checkPoint at_) s = .next later)
      ∧ (f.checked = false → checkAt s ≤ at_ → frameComplete s = true → deadlineMissed s = false → exec (.checkPoint at_) s = .next { later with frames := { f with
        checks := f.checks + 1, checked := true, catchUp := f.catchUp && !decide (f.checks = 0) } })
      ∧ (f.checked = false → checkAt s ≤ at_ → (frameComplete s = false ∨ deadlineMissed s = true) → AnswersWith (exec (.checkPoint at_) s) (fun t =>
        t.frames = { f with checks := f.checks + 1, checked := true, late := true, lateCnt := f.lateCnt + b2n (!f.late), catchUp := f.catchUp && !(frameComplete s && decide (f.checks = 0)) } ∧ (tickSource s = 0 → s.grp.rank ∈ t.grp.lateRanks) ∧ t.cells = s.cells))
      ∧ ((tickSource s ≠ 2 ∨ high < 20) → exec (.syncInEdge at_ high) s = .next later)
      ∧ (tickSource s = 2 → 20 ≤ high → f.lastTick + (periodNs f.cfg - 2000) ≤ at_ → s.health.hangAt = none → s.grp.tickInfo = none → ticked (exec (.syncInEdge at_ high) s))
      ∧ (tickSource s = 2 → 20 ≤ high → at_ < f.lastTick + (periodNs f.cfg - 2000) → exec (.syncInEdge at_ high) s = .next { later with frames := { f with syncOverrunCnt := f.syncOverrunCnt + 1 } })
      ∧ (tickSource s ≠ 0 → f.freeRun = false → 2 * f.lastTick + 3 * periodNs f.cfg ≤ 2 * at_ → s.health.hangAt = none → ticked (exec (.syncLost at_) s)
        ∧ AnswersWith (exec (.syncLost at_) s) (fun t => t.frames.syncLostCnt = f.syncLostCnt + b2n (!f.syncLost)
          ∧ (s.grp.announced = [] → f.announced = none → s.host.ticking = [] → t.frames.syncLost = true ∧ t.frames.freeRun = true ∧ t.grp.state = (if s.grp.state = .member then .lost else s.grp.state))))
      ∧ ((tickSource s = 0 ∨ f.freeRun = true ∨ 2 * at_ < 2 * f.lastTick + 3 * periodNs f.cfg) → exec (.syncLost at_) s = .next later)

/-- R44, R48, R90, R161, R189, R260, R279, R280, R404: rows and recovery. ROW_FETCH reads the coming row of the context that runs or is to run next
from its control range and gives each of its cells its tile; a row whose row_crc fails, or that returns poison, aborts the step in
flight. Sixteen ticks in overrun abort the step. A droop slows one die until the next tick. ABORT_RECONCILE gives semaphores and credits
their initial values and counts the units that were missing. A reload that succeeds lets the step run again, and one without a host
copy degrades the context. -/
def Obligations.RowsAndRecovery : Prop :=
  ∀ (s : State) (c die : Nat) (x : Ctx), ctxOf s c = some x →
    let f := s.frames
    let img := activeImage x
    let gap := ((List.range 4096).map (fun n => creditGap img (cellOf s n))).sum
    (ticking s = true → fetchCtx s = some c → ∀ (i : Nat) (begun : Bool), fetchTarget x = some (i, begun) →
        let at_ := secOff img 1 + ((section_ img 1).length - (rowsFrom (section_ img 1) i).length)
        let failed (o : Host.Outcome State Fault Refusal) : Prop := AnswersWith o (fun t =>
          t.frames = { f with rowFetchErrors := f.rowFetchErrors + 1, fetched := none, fetchBad := !begun } ∧ { t with frames := f, ctxs := s.ctxs } = s
            ∧ (begun = false → t.ctxs = s.ctxs) ∧ (begun = true → x.inFlight ≠ none → AbortCause.rowFetch ∉ x.abortNext → ctxOf t c = some { x with abortNext := x.abortNext ++ [.rowFetch] }))
        (∀ r ts k, fetchRow s c x (fetchStep x) i = some (r, ts) → activeBank x = some k → ts.Pairwise (fun a b => a.1 ≠ b.1) → AnswersWith (exec (.rowFetch []) s) (fun t =>
            t.frames = { f with fetched := some r, fetchBad := false }
              ∧ (∀ e ∈ ts, cellOf t e.1 = { cellOf s e.1 with nextTile := e.2.2, nextAt := some (c, k.generation, e.2.1) })
              ∧ (∀ n, (∀ e ∈ ts, e.1 ≠ n) → cellOf t n = cellOf s n) ∧ { t with frames := f, cells := s.cells } = s))
          ∧ (bankRead s x at_ 32 = none → failed (exec (.rowFetch []) s))
          ∧ (∀ h, bankRead s x at_ 32 = some h → (bankRead s x at_ (32 + 8 * fieldAt h 8 2) = none → failed (exec (.rowFetch []) s))
            ∧ ∀ row, bankRead s x at_ (32 + 8 * fieldAt h 8 2) = some row → crc32c (rowCrcBytes row) ≠ fieldAt row 0x1C 4 → failed (exec (.rowFetch []) s)))
      ∧ ((ticking s = false ∨ fetchCtx s = none) → ∀ w, exec (.rowFetch w) s = .next s)
      ∧ (isKeystone s = true → 16 ≤ f.overrunRun → s.residency.current = some c → x.inFlight ≠ none → AbortCause.overrun ∉ x.abortNext →
        exec .overrunAbort s = .next (setCtx s c { x with abortNext := x.abortNext ++ [.overrun] }))
      ∧ (f.overrunRun < 16 → (∀ e ∈ s.grp.overrunRanks, e.2 < 16) → exec .overrunAbort s = .next s)
      ∧ (alive s = true → die < 2 → exec (.droop die) s = .next { s with
        frames := { f with droopStep := true, droopCnt := f.droopCnt + 1 }
        power := if die = 0 then (if s.power.diePoint0 < 7 then { s.power with diePoint0 := s.power.diePoint0 + 1 } else { s.power with droopHalf0 := true })
          else if s.power.diePoint1 < 7 then { s.power with diePoint1 := s.power.diePoint1 + 1 } else { s.power with droopHalf1 := true } })
      ∧ (x.reconcile = true → workIdle s c = true → s.residency.current = some c → mapWf Cell.reset s.cells = true → AnswersWith (exec (.abortReconcile c) s) (fun t =>
        ctxOf t c = some { x with reconcile := false, acct := madd x.acct acReconciled gap } ∧ (∀ n, n < 4096 → cellOf t n = resetSync (activeImage x) (cellOf s n))))
      ∧ ((x.reconcile = false ∨ workIdle s c = false) → exec (.abortReconcile c) s = .next s)
      ∧ (∀ a, x.reload = [a] → (∀ s1, reloadBlock s c a = some s1 → exec (.weightReloadComplete c) s = .next (modCtx s1 c (fun y => { y with reload := [] })))
        ∧ ((∀ e, entryOf x a = some e → e.host = 0 ∨ lineGone s (a / 128) = true) →
          exec (.weightReloadComplete c) s = .next (setCtx s c (degradeCtx { x with reload := [] } [granuleOf a]))))

/-! ### Links -/

/-- R286 to R288, R290 to R296, R466, Table 13-2: a Glony port. Training passes its five phases in order or takes the port down, and a peer
that is not the one described is not let in; a lane that fails is held in the journal and the port trains at once, or at a tick that
schedules it; a data flit in order is taken, a gap or a flit that is not sound asks for a replay, and a flit replayed 64 times retrains
the port; a record is decrypted under the key that its tag fits, and one that fails authentication twice stops the port; a direction
moves to its next key where it has been asked to or has used its key up, and never otherwise; losing a reference clock takes its seven
ports down. -/
def Obligations.LinkEvents : Prop :=
  ∀ (s : State) (port lane vc epoch peer : Nat) (bad : List Nat) (id prk raw : List Byte) (fec : BitErr), port < 14 → lane < 9 → vc < 4 →
    let x := portOf s port
    let trains (k : Nat) (e : PhaseEnd) : Host.Outcome State Fault Refusal := exec (.trainingPhase port k e) s
    let passed : PhaseEnd := .passed bad epoch id peer prk
    let others (t : State) : Prop := ∀ p, p ≠ port → (portOf t p).state = (portOf s p).state ∧ (s.grp.state = .standalone → portOf t p = portOf s p)
    let becomes (o : Host.Outcome State Fault Refusal) (P : Port → Prop) : Prop := AnswersWith o (fun t => P (portOf t port) ∧ others t)
    let fresh := ((bad.filter (fun l => decide (l < 9))).filter (fun l => !x.failedLanes.contains l)).eraseDups
    let good := 9 - (x.failedLanes ++ fresh).length
    let journalled (t : State) (n : Nat) : Prop := ∃ l, l.length = n ∧ t.flash.copyA = s.flash.copyA ++ l ∧ t.flash.copyB = s.flash.copyB ++ l ∧ ∀ r ∈ l, r.key = 0x8001
    let h := headOf raw
    let flit (P : Port → Prop) : Prop := becomes (exec (.flitReceive port raw fec) s) P
    (x.state = .training →
        (x.phase = 1 → trains 1 passed = .next (setPort s port { x with phase := 2, toModule := decide ((cfgStored s (0x10 + port)).1 = 1) }))
          ∧ (x.phase = 2 → AnswersWith (trains 2 passed) (fun t => journalled t fresh.length ∧ others t ∧ (portOf t port).failedLanes = x.failedLanes ++ fresh
            ∧ (4 ≤ good → (portOf t port).state = .training ∧ (portOf t port).phase = 3 ∧ (portOf t port).lanes = (if 8 ≤ good then 8 else 4))
            ∧ (good < 4 → (portOf t port).state = .down ∧ (portOf t port).lanes = 0)))
          ∧ (x.phase = 3 → trains 3 passed = .next (setPort s port { x with phase := 4 }))
          ∧ (x.phase = 4 → trains 4 passed = .next (setPort s port { (if x.restart = true ∨ x.peerEpoch ≠ some (epoch % 2 ^ 32) then restartLink x else x) with
            phase := 5, peerEpoch := some (epoch % 2 ^ 32), peerId := bytesAt id 0 16, peerRank := mappedRank s port, peerPort := peer % 256 }))
          ∧ (x.phase = 5 → (peerAsDescribed s port = true → becomes (trains 5 passed) (fun y => y.state = (if x.lanes = 4 then .upNarrow else .up)
                ∧ y.tx.prk = bytesAt prk 0 48 ∧ y.tx.index = 0 ∧ y.rxKey = { prk := bytesAt prk 0 48 } ∧ y.newPrk = none ∧ y.trainFail = none))
            ∧ (peerAsDescribed s port = false → becomes (trains 5 passed) (fun y => y.state = .down ∧ y.auth = x.auth + 1)))
          ∧ becomes (trains x.phase .timedOut) (fun y => y.state = .down ∧ y.lanes = 0 ∧ y.auth = x.auth + (if x.phase = 5 then 1 else 0))
          ∧ becomes (trains x.phase .failed) (fun y => y.state = .down ∧ y.lanes = 0 ∧ y.auth = x.auth + (if x.phase = 5 then 1 else 0)))
      ∧ (x.state ≠ .training → ∀ k e, exec (.trainingPhase port k e) s = .next s)
      ∧ (portUp x = true → lane ∉ x.failedLanes →
        AnswersWith (exec (.fecLockLoss port lane) s) (fun t => portOf t port = retrainPort { x with failedLanes := x.failedLanes ++ [lane] } ∧ others t ∧ journalled t 1)
          ∧ AnswersWith (exec (.laneErrorRate port lane) s) (fun t => portOf t port = { x with failedLanes := x.failedLanes ++ [lane], retrainDue := true } ∧ others t ∧ journalled t 1))
      ∧ (portUp x = false → exec (.fecLockLoss port lane) s = .next s ∧ exec (.laneErrorRate port lane) s = .next s ∧ exec (.keyRotation port true) s = .next s
        ∧ exec (.keyRotation port false) s = .next s ∧ exec (.recordReceive port vc) s = .next s ∧ (raw.length = 256 → exec (.flitReceive port raw fec) s = .next s))
      ∧ (portUp x = true → raw.length = 256 →
        (fec = .uncorrectable → flit (fun y => y.fecUe = x.fecUe + 1 ∧ y.nakPending = true ∧ y.recvSeq = x.recvSeq ∧ y.rx = x.rx ∧ y.state = x.state))
          ∧ (fec ≠ .uncorrectable → flitGood raw = false → flit (fun y => y.fec = x.fec + b2n (fec == .corrected) ∧ y.nakPending = true ∧ y.recvSeq = x.recvSeq ∧ y.rx = x.rx ∧ y.state = x.state))
          ∧ (fec ≠ .uncorrectable → flitGood raw = true → h.nak = false →
            (h.ltype = 0 → h.seq = x.recvSeq → flit (fun y => y.recvSeq = (x.recvSeq + 1) % 4096 ∧ y.nakPending = false ∧ y.state = x.state ∧ y.fec = x.fec + b2n (fec == .corrected)
                ∧ y.rx = x.rx ++ [{ seq := h.seq, vc := h.vc, recPos := h.recPos, phase := h.phase, payload := bytesAt raw 8 240 }]
                ∧ (waitingRecs x = 0 → y.unacked = (if x.unacked.any (fun f => f.seq == h.ack) then (x.unacked.dropWhile (fun f => f.seq != h.ack)).drop 1 else x.unacked)
                  ∧ y.credits = madd x.credits h.crVc ((h.crTotal + 2048 - mget 0 x.seenTotals h.crVc % 2048) % 2048))))
              ∧ (h.ltype = 0 → h.seq ≠ x.recvSeq → flit (fun y => y.recvSeq = x.recvSeq ∧ y.rx = x.rx ∧ y.state = x.state
                ∧ y.nakPending = (if (x.recvSeq + 4096 - h.seq) % 4096 ≤ 512 then x.nakPending else true)))
              ∧ (h.ltype = 2 → flit (fun y => y.narrowPeer = Config.narrowWish (bytesAt raw 8 240) ∧ y.rx = x.rx ∧ y.state = x.state)))
          ∧ (fec ≠ .uncorrectable → flitGood raw = true → h.ltype = 1 → h.nak = true → x.unacked ≠ [] → (∀ f ∈ x.unacked, f.seq ≠ h.ack) → flit (fun y => y.flitReplays = x.flitReplays + 1
            ∧ y.state = (if ∀ f ∈ x.unacked, f.replays + 1 < 64 then x.state else if trainable x then .training else .down))))
      ∧ (portUp x = true → (firstRecord 4 x.rx = none → exec (.recordReceive port vc) s = .next s) ∧ ∀ f fs, firstRecord 4 x.rx = some (f :: fs) →
        (f.vc ≠ vc → exec (.recordReceive port vc) s = .next s)
          ∧ (f.vc = vc → (∀ which plain, recordPlain x (f :: fs) = some (which, plain) → AnswersWith (exec (.recordReceive port vc) s) (fun t =>
                let y := portOf t port
                t.resp.data = plain ∧ y.rx = x.rx.drop (fs.length + 1) ∧ y.freed = madd x.freed vc (fs.length + 1) ∧ y.tagFailedOnce = false ∧ y.state = x.state
                  ∧ y.msgErrors = x.msgErrors + (if 13 ≤ fieldAt plain 0 1 then 1 else 0) ∧ (which = 0 → y.rxKey = { x.rxKey with counter := x.rxKey.counter + 1 } ∧ y.rxOld = none)))
            ∧ (recordPlain x (f :: fs) = none →
              (x.tagFailedOnce = false → becomes (exec (.recordReceive port vc) s) (fun y => y.nakPending = true ∧ y.tagFailedOnce = true ∧ y.rx = [] ∧ y.recvSeq = f.seq ∧ y.state = x.state))
                ∧ (x.tagFailedOnce = true → becomes (exec (.recordReceive port vc) s) (fun y => y.state = .authFailed ∧ y.auth = x.auth + 1)))))
      ∧ (portUp x = true →
        (x.rotateTx = false → x.tx.counter < keyLimit → exec (.keyRotation port true) s = .next s)
          ∧ ((x.rotateTx = true ∨ keyLimit ≤ x.tx.counter) → becomes (exec (.keyRotation port true) s) (fun y => y.tx.index = x.tx.index + 1 ∧ y.tx.prk = x.newPrk.getD x.tx.prk ∧ y.rotateTx = false ∧ y.rxKey = x.rxKey))
          ∧ (x.rotateRx = false → x.rxKey.counter < keyLimit → exec (.keyRotation port false) s = .next s)
          ∧ ((x.rotateRx = true ∨ keyLimit ≤ x.rxKey.counter) → becomes (exec (.keyRotation port false) s) (fun y =>
            y.rxKey = { prk := x.newPrk.getD x.rxKey.prk, index := x.rxKey.index + 1, counter := 0 } ∧ y.rxOld = some x.rxKey ∧ y.rotateRx = false ∧ y.tx = x.tx)))
      ∧ AnswersWith (exec (.referenceClockLoss (1 + port / 7)) s) (fun t => t.mem.bytes = s.mem.bytes ∧ t.cells = s.cells ∧
        ∀ p, p < 14 → (portOf t p).state = if p / 7 = port / 7 ∧ (portUp (portOf s p) = true ∨ (portOf s p).state = .training) then .down else (portOf s p).state)
      ∧ exec (.referenceClockLoss 0) s = exec .hotReset s

/-! ### Groups and collectives -/

/-- R253, R254, R297, R299, R309, R311: the messages of collectives. A WRITE or READ_RESP puts its lines at their address, all or none of them, and a
REDUCE is performed at the home slices; each counts for its sender's part of its operation. A READ_REQ is answered with the data it
names, a POST without an operation here posts its semaphore and any other is awaited by its operation, a FENCE_REQ is acknowledged over
the port on which it came, a FENCE_ACK takes its request from its fence. What has to wait for earlier messages, or for its operation's
start, is held. A message that its header keeps out is discarded with an error. -/
def Obligations.DataMessages : Prop :=
  ∀ (s s1 : State) (m : Msg), MsgArrives s m →
    let e := portEngine m.port
    let u := resumeColl (account (received s m) m.context (acGlonyRx + m.port) (48 + m.data.length)) e
    let body (o n : Nat) : Nat := fieldAt m.body o n
    let got (t : State) (kind : Nat) : Nat := mget 0 (collOf t e).got (gotKey m.opId m.srcRank kind)
    let counted (o : Host.Outcome State Fault Refusal) (kind : Nat) : Prop := AnswersWith o (fun t =>
      got t kind = got u kind + 1 ∧ (findOp u e m.opId = none → t.mem = s1.mem ∧ t.cells = s1.cells))
    let refused (o : Host.Outcome State Fault Refusal) : Prop := AnswersWith o (fun t => t.mem = u.mem ∧ t.cells = u.cells ∧ (collOf t e).errTotal = (collOf u e).errTotal + 1)
    let kind := match findOp u e m.opId with | some o => b2n (opCode o == 2) | none => 0
    let lines := msgLines m
    let answer (t : State) (type : Nat) (P : Msg → Prop) : Prop := ∃ r, (type, r) ∈ (collOf t e).sent ∧ r.dstRank = m.srcRank ∧ r.srcRank = s.grp.rank ∧ r.port = m.port ∧ r.opId = m.opId ∧ P r
    let bare := m.length = 0 ∧ m.data = [] ∧ m.addr = 0
    (msgKnown s m = true → dataOk m = true →
        (∀ i, i ∈ [Instr.readResp m] ++ (if mustWait u 0 m then [] else [Instr.write m]) →
            ((∀ o, findOp u e m.opId = some o → opReduces o = false) → (writeLines u (msgActor m) m.addr lines = (s1, none) → counted (exec i s) kind)
              ∧ ∀ a, writeLines u (msgActor m) m.addr lines = (s1, some a) → refused (exec i s)))
          ∧ (∀ r, redOf m.elem m.redop = some r → mustWait u 1 m = false →
            (notPlain u m.partition m.addr m.data.length = none → s1 = lines.zipIdx.foldl (reduceMsgLine m r) u → counted (exec (.reduce m) s) 0)
              ∧ (notPlain u m.partition m.addr m.data.length ≠ none → refused (exec (.reduce m) s))))
      ∧ (msgKnown s m = true →
        (dataOk m = true → mustWait u 0 m = true → exec (.write m) s = .next (setColl u e { collOf u e with held := (collOf u e).held ++ [(0, m)] }))
          ∧ (dataOk m = true → (redOf m.elem m.redop).isSome = true → tooEarly u m = true → exec (.reduce m) s = .next (setColl u e { collOf u e with held := (collOf u e).held ++ [(1, m)] }))
          ∧ (∀ ls, m.length = 0 → m.data = [] → 128 ≤ body 8 2 → body 8 2 ≤ 896 → body 8 2 % 128 = 0 → body 6 2 = 0 → body 10 6 = 0 →
            collRead u (msgActor m) m.addr (body 8 2) = (s1, ls, none) → AnswersWith (exec (.readReq m) s) (fun t =>
              answer t 3 (fun r => r.addr = body 0 6 ∧ r.length = body 8 2 ∧ r.data = ls.flatMap (·.1) ∧ r.poison = poisonBits ls) ∧ t.mem.bytes = s1.mem.bytes ∧ t.cells = s1.cells))
          ∧ (bare → body 0 2 < 4096 → body 2 1 < 64 → body 3 1 = 0 → body 6 10 = 0 → mustWait u 4 m = false →
            ((findOp u e m.opId).isSome = false → m.opId < (collOf u e).nextId → cellGuard u m.partition = true →
                AnswersWith (exec (.post m) s) (fun t => t.cells = (applyPost u (body 0 2) (body 2 1) (body 4 2)).cells ∧ t.mem.bytes = u.mem.bytes))
              ∧ ((collOf u e).nextId ≤ m.opId → AnswersWith (exec (.post m) s) (fun t => got t 2 = got u 2 + 1)))
          ∧ (bare → body 4 12 = 0 → (mustWait u 11 m = false → AnswersWith (exec (.fenceReq m) s) (fun t =>
                answer t 12 (fun r => r.body = m.body.take 4 ++ leBytes 0 12 ∧ r.data = []) ∧ t.cells = u.cells ∧ t.mem.bytes = u.mem.bytes))
              ∧ (mustWait u 11 m = true → exec (.fenceReq m) s = .next (setColl u e { collOf u e with held := (collOf u e).held ++ [(11, m)] })))
          ∧ (bare → body 4 12 = 0 → AnswersWith (exec (.fenceAck m) s) (fun t => ∀ k, k < 2 → (collOf t k).ops = (collOf s k).ops.map (fun o =>
            if k = body 0 4 % 2 ∧ o.opId = m.opId then { o with fence := o.fence.filter (fun f => f != (m.srcRank, m.port, body 0 4)) } else o))))
      ∧ (msgKnown s m = false → ∀ i, i ∈ [Instr.write m, .reduce m, .readReq m, .readResp m, .post m, .fenceReq m, .fenceAck m] → AnswersWith (exec i s) (fun t =>
        (portOf t m.port).msgErrors = (portOf s m.port).msgErrors + 1 ∧ (collOf t e).errTotal = (collOf s e).errTotal + 1 ∧ (collOf t e).ops = (collOf s e).ops
          ∧ t.mem = s.mem ∧ t.cells = s.cells ∧ t.ctxs = s.ctxs))

/-- R164, R307, R308, R310, R311, R312: the operations of a collective engine. A started SEND takes part on its receiver by waiting for its
messages; a started FENCE sends FENCE_REQ to every other rank over every port that leads there; one whose wait stands at the head of
its semaphore's queue takes its count and starts; one that is not ready, has failed, or would be the seventeenth in progress, waits. An
operation that is done leaves the engine and is counted; one that waits three frames beyond its deadline is reported once, with an
error record, and stays. -/
def Obligations.CollectiveOperations : Prop :=
  ∀ (s : State) (engine index : Nat) (o : CollOp), engine < 2 → (collOf s engine).ops[index]? = some o → findOp s engine o.opId = some o →
    let x := collOf s engine
    let wait := opWord o 0x28
    let post := opWord o 0x30
    let busy := 16 ≤ inProgress x
    let begins := AnswersWith (exec (.collectiveOpStart engine index) s) (fun t => ∃ p ∈ (collOf t engine).ops, p.opId = o.opId ∧ p.raw = o.raw ∧ p.started = true)
    (o.started = false → o.failedOnce = false → ¬busy →
        ((o.joined = false ∨ o.granted = true) → opReady s o = true → begins
          ∧ (opCode o = 0 → opPeer o = s.grp.rank → x.held = [] → missingRanks s x o ≠ [] → AnswersWith (exec (.collectiveOpStart engine index) s) (fun t =>
            (collOf t engine).ops = x.ops.map (fun p => if p.opId = o.opId then { p with started := true } else p) ∧ t.mem = s.mem ∧ t.cells = s.cells ∧ t.ports = s.ports))
          ∧ (opCode o = 7 → AnswersWith (exec (.collectiveOpStart engine index) s) (fun t => (collOf t engine).fenceSeq = (x.fenceSeq + 1) % 2 ^ 31
            ∧ ∀ r ∈ othersOf s o, ∀ p ∈ fencePorts s r, ∃ m, (11, m) ∈ (collOf t engine).sent ∧ m.dstRank = r ∧ m.port = p ∧ m.opId = o.opId
              ∧ m.body = leBytes ((2 * x.fenceSeq + engine) % 2 ^ 32) 4 ++ leBytes 0 12)))
          ∧ (o.joined = true → o.granted = false → opCode o ≠ 7 → (mget [] (cellOf s wait.1).semQ wait.2.1).head? = some (.collective engine o.opId wait.2.2) →
            (wait.2.2 ≤ (semOf (cellOf s wait.1) wait.2.1).value → begins)
              ∧ ((semOf (cellOf s wait.1) wait.2.1).value < wait.2.2 → exec (.collectiveOpStart engine index) s = .next s))
          ∧ (o.joined = false → opReady s o = false → exec (.collectiveOpStart engine index) s = .next s))
      ∧ ((o.started = true ∨ o.failedOnce = true ∨ busy) → exec (.collectiveOpStart engine index) s = .next s)
      ∧ (opDone s engine o = true → post.2.2 = 0 → exec (.collectiveOpComplete engine index) s = .next (setColl s engine { x with
        ops := x.ops.filter (fun p => p.opId != o.opId), got := x.got.filter (fun g => g.1 / 256 != o.opId), progress := x.progress + 1
        ledger := if o.failedOnce then x.ledger else { x.ledger with completed := x.ledger.completed + 1 } }))
      ∧ (opDone s engine o = true → o.failedOnce = false → opLocal o = true → receives s o = false → opCode o ≠ 7 → cellGuard s (collActor s engine o.context).owner = true →
        AnswersWith (exec (.collectiveOpComplete engine index) s) (fun t => (post.2.2 ≠ 0 → t.cells = (applyPost s post.1 post.2.1 (post.2.2 % 65536)).cells)
          ∧ (collOf t engine).ops = x.ops.filter (fun p => p.opId != o.opId)))
      ∧ (opDone s engine o = false → exec (.collectiveOpComplete engine index) s = .next s)
      ∧ (o.timedOut = false → opDone s engine o = false → opDeadline o + 3 ≤ opAge s o → AnswersWith (exec (.collectiveTimeout engine index) s) (fun t =>
        (collOf t engine).ops = x.ops.map (fun p => if p.opId = o.opId then { p with timedOut := true } else p) ∧ (collOf t engine).errTotal = x.errTotal + 1 ∧ (collOf t engine).ledger = x.ledger
          ∧ t.mem = s.mem ∧ t.cells = s.cells ∧ t.grp = s.grp))
      ∧ ((o.timedOut = true ∨ opDone s engine o = true ∨ opAge s o < opDeadline o + 3) → exec (.collectiveTimeout engine index) s = .next s)

/-- R46, R47, R54, R57, R298, R300 to R303, Tables 13-14 and 13-15: the control messages. A TICK that a member may apply is its tick, and one
for a frame that it has applied is counted and ignored; a PLAN moves the current frame's tick; LATE, HEARTBEAT and ABORT of a live member
are kept by the keystone; GROUP tells what a rank reaches; what is for another rank is relayed. The join window ends with a keystone or
with MEMBER_LOST; the eighth missing heartbeat loses a rank. A message that its header keeps out is discarded with an error. -/
def Obligations.ControlMessages : Prop :=
  ∀ (s : State) (m : Msg) (at_ rank : Nat),
    let got := received s m
    let g := s.grp
    let f := s.frames
    let body (o n : Nat) : Nat := fieldAt m.body o n
    let keep (o : Host.Outcome State Fault Refusal) (x : Group) : Prop := o = .next { got with grp := x }
    (MsgArrives s m → ctlOk m = true → m.dstRank = g.rank →
        (m.length = 0 → m.data = [] → body 1 1 = 0 → body 6 10 = 0 → g.announced = [] → g.state = .member → ticking s = true →
          (tickSource s = 1 → 2 ^ 47 ≤ (frameNow s + 2 ^ 48 - m.frame) % 2 ^ 48 → f.lastTick + (periodNs f.cfg - 2000) ≤ at_ → s.health.hangAt = none → AnswersWith (exec (.tickMessage at_ m) s) (fun t =>
              t.frames.counter = f.counter + 1 ∧ t.frames.ticks = f.ticks + 1 ∧ t.frames.lastTick = at_ ∧ t.frames.freeRun = false ∧ t.frames.overrun = !frameComplete s
                ∧ (s.host.ticking = [] → m.frame ≠ (frameNow s + 1) % 2 ^ 48 → t.grp.state = .lost)))
            ∧ (tickSource s = 1 → g.tickMore = false → (frameNow s + 2 ^ 48 - m.frame) % 2 ^ 48 < 2 ^ 47 → AnswersWith (exec (.tickMessage at_ m) s) (fun t =>
              t.frames = { f with syncOverrunCnt := f.syncOverrunCnt + 1 } ∧ t.cells = s.cells ∧ ∀ c, (ctxOf t c).map (·.inFlight) = (ctxOf s c).map (·.inFlight))))
          ∧ (m.length = 0 → body 1 3 = 0 → body 8 8 = 0 → (g.state = .member → m.frame = frameNow s → AnswersWith (exec (.plan at_ m) s) (fun t =>
              t.frames.planned = f.lastTick + body 4 4 ∧ t.frames.stretch = body 0 1 ∧ t.frames.stretchCnt = f.stretchCnt + (body 0 1 - f.stretch) ∧ t.frames.counter = f.counter))
            ∧ ((g.state ≠ .member ∨ m.frame ≠ frameNow s) → exec (.plan at_ m) s = .next { got with now := max s.now at_ }))
          ∧ (m.length = 0 → body 0 1 < 4 → body 2 14 = 0 → (fromMember s m = true → m.frame = frameNow s → bit (body 0 1) 0 = true → m.srcRank ∉ g.lateRanks →
              keep (exec (.late m) s) { g with lateRanks := g.lateRanks ++ [m.srcRank] })
            ∧ ((fromMember s m = false ∨ m.frame ≠ frameNow s ∨ bit (body 0 1) 0 = false) → keep (exec (.late m) s) g))
          ∧ (m.length = 0 → m.data = [] → body 1 1 = 0 → body 8 8 = 0 → body 0 1 < 32 → (fromMember s m = true → m.frame = frameNow s → bit (body 0 1) 3 = false →
              keep (exec (.heartbeat m) s) { g with
                beat := mset false g.beat m.srcRank true, runnable := mset 0 g.runnable m.srcRank (body 4 4), overflow := mset 0 g.overflow m.srcRank (body 2 2)
                overrunRanks := mset 0 g.overrunRanks m.srcRank (if bit (body 0 1) 1 then mget 0 g.overrunRanks m.srcRank + 1 else 0)
                waiting := if bit (body 0 1) 4 then g.waiting.filter (· != m.srcRank) else g.waiting })
            ∧ (g.state ≠ .keystone → keep (exec (.heartbeat m) s) g))
          ∧ (m.length = 0 → body 8 8 = 0 → (fromMember s m = true → (∀ a ∈ g.abortAsk, a.1 ≠ body 0 2 ∨ a.2.1 ≠ body 4 4) →
              keep (exec (.abort m) s) { g with abortAsk := g.abortAsk ++ [(body 0 2, body 4 4, body 2 2)] }) ∧ (fromMember s m = false → keep (exec (.abort m) s) g))
          ∧ (m.length = 0 → body 4 1 = 0 → body 5 1 = m.srcRank → body 6 2 = 0 → ∀ p, g.form = some p → (body 0 4 = p.groupId → m.srcRank ≠ g.rank → AnswersWith (exec (.group m) s) (fun t =>
              mget 0 t.grp.reach m.srcRank = body 8 8 ∧ t.grp.state = g.state ∧ t.grp.members = g.members)) ∧ (body 0 4 ≠ p.groupId → keep (exec (.group m) s) g)))
      ∧ (MsgArrives s m → ctlOk m = true → m.dstRank ≠ g.rank → g.state ≠ .standalone → m.length = 0 → leNat m.body = 0 →
        ∀ e ∈ [(5, Instr.tickMessage at_ m), (6, .plan at_ m), (7, .late m), (8, .heartbeat m), (9, .abort m)],
          (portTo got m.dstRank (some m.port) = none → exec e.2 s = .next got)
            ∧ ∀ p, portTo got m.dstRank (some m.port) = some p → AnswersWith (exec e.2 s) (fun t => (e.1, { m with port := p }) ∈ t.grp.sent ∧ t.frames = f ∧ t.grp.state = g.state))
      ∧ (MsgArrives s m → ctlOk m = false → ∀ i, i ∈ [Instr.tickMessage at_ m, .plan at_ m, .late m, .heartbeat m, .abort m, .group m] → AnswersWith (exec i s) (fun t =>
        (portOf t m.port).msgErrors = (portOf s m.port).msgErrors + 1 ∧ t.grp = g ∧ t.frames = f))
      ∧ (g.state = .joining → g.startFrame = none → g.announced = [] → ∀ p, g.form = some p →
        ((p.rejoin = true ∨ chooseKeystone s p = none) → AnswersWith (exec .joinWindowClose s) (fun t => t.grp.state = .standalone ∧ t.frames = f ∧ t.ctxs = s.ctxs
            ∧ ∀ h l, g.formHdr = some h → l ∈ s.host.long → l.hdr = h → l.reply = none → { l with reply := some (stMemberLost, 0, 0) } ∈ t.host.long))
          ∧ (∀ k, p.rejoin = false → chooseKeystone s p = some k → AnswersWith (exec .joinWindowClose s) (fun t => t.grp.keystoneRank = k ∧ t.grp.members = List.range p.size ∧ t.grp.state = .joining ∧ t.frames = f)))
      ∧ (rank < 64 → (g.state = .keystone → 8 ≤ mget 0 g.missed rank → rank ∈ g.members → rank ≠ g.rank → rank ∉ g.lost → AnswersWith (exec (.heartbeatTimeout rank) s) (fun t =>
          t.grp.lost = g.lost ++ [rank] ∧ t.grp.members = g.members ∧ t.ctxs = s.ctxs)) ∧ ((g.state ≠ .keystone ∨ mget 0 g.missed rank < 8) → exec (.heartbeatTimeout rank) s = .next s))

/-! ### Residency -/

/-- R258, R264 to R266, R280, R282, Table 12-2: what ends or delays a move of a context. The grace period elapses while it runs; a context that
waits while every resident one is blocked and those in its way are pinned is reported, 100 ms each time; an eviction that the host takes
leaves the context EVICTED at the next tick, and one that it refuses brings it back; an admission whose entries are zeroed is RESIDENT
at the next tick, and one whose host source is not there, or whose stack is out of service, is EVICTED again. -/
def Obligations.ResidencyEvents : Prop :=
  ∀ (s : State) (c entry : Nat) (x : Ctx), ctxOf s c = some x →
    let r := s.residency
    let way := inTheWay s x
    let ms := mget 0 r.stallMs c + 100
    let becomes (o : Host.Outcome State Fault Refusal) (P : Ctx → Prop) : Prop := AnswersWith o (fun t => ∃ y, ctxOf t c = some y ∧ P y)
    let due (n : Nat) : Prop := n = 1 ∨ n = 3
    let gone (e : SourceEntry) : Prop := (stackOf s (stackNo e.base)).state = .outOfService
    (∀ e, r.graceRunning = true → graceCtx s = some e → exec .blockedGraceExpiry s = .next { s with residency := { r with graceFor := some e.1 } })
      ∧ ((r.graceRunning = false ∨ graceCtx s = none) → exec .blockedGraceExpiry s = .next s)
      ∧ (x.state = .evicted → wantsRun x = true → canAdmitCtx s x = false → (∀ e ∈ residents s, runnable s e.1 e.2 = false) → way ≠ [] → (∀ e ∈ way, runnable s e.1 e.2 = false ∧ pinnedCtx e.2 = true) →
        AnswersWith (exec (.residencyStall c) s) (fun t => t.residency = { r with stallMs := mset 0 r.stallMs c ms } ∧ t.ctxs = s.ctxs
          ∧ t = raiseEvent { s with residency := t.residency } (x.partition + 1) 0x8001 x.partition c (leBytes ms 4 ++ leBytes way.length 1)))
      ∧ ((x.state ≠ .evicted ∨ wantsRun x = false ∨ canAdmitCtx s x = true ∨ way = [] ∨ (∃ e ∈ way, runnable s e.1 e.2 = true ∨ pinnedCtx e.2 = false)
          ∨ r.graceFor ≠ some c ∧ ∃ e ∈ residents s, runnable s e.1 e.2 = true) →
        exec (.residencyStall c) s = .next { s with residency := { r with stallMs := mset 0 r.stallMs c 0 } })
      ∧ exec (.evictionHoldExpiry c) s = .next (setCtx s c { x with holdOff := false })
      ∧ (x.state = .evicting → x.change = none → r.current ≠ some c →
        ((∀ e ∈ x.sources, due e.kind → (hostTarget s x.partition e.host e.size true).isSome = true) → becomes (exec (.evictionComplete c) s) (fun y => y.change = some .evicted ∧ y.state = .evicting))
          ∧ ((∃ e ∈ x.sources, due e.kind ∧ hostTarget s x.partition e.host e.size true = none) →
            becomes (exec (.evictionComplete c) s) (fun y => y.change = some .returned ∧ y.state = .evicting ∧ (evictWaits s c = false → y.holdOff = true))))
      ∧ ((x.state ≠ .evicting ∨ x.change ≠ none ∨ r.current = some c) → exec (.evictionComplete c) s = .next s)
      ∧ (x.state = .admitting → x.change = none →
        ((∀ e ∈ x.sources, e.kind = 2 ∧ e.base % 128 = 0 ∧ e.size % 128 = 0 ∧ ¬gone e) → AnswersWith (exec (.admissionComplete c) s) (fun t =>
            (∃ y, ctxOf t c = some y ∧ y.change = some .admitted ∧ y.state = .admitting)
              ∧ ∀ e ∈ x.sources, ∀ a, e.base ≤ a → a < e.base + e.size → lineGone s (a / 128) = false → readByte t.mem.bytes a = 0))
          ∧ ((∃ e ∈ x.sources, e.kind ≠ 2 ∧ hostTarget s x.partition e.host e.size false = none ∨ gone e) → becomes (exec (.admissionComplete c) s) (fun y => y.change = some .refused)))
      ∧ ((x.state ≠ .admitting ∨ x.change ≠ none) → exec (.admissionComplete c) s = .next s)
      ∧ (x.state = .evicting → becomes (exec (.hostAccessTimeout .eviction c entry) s) (fun y => y.change = some .returned ∧ (evictWaits s c = false → y.holdOff = true)))
      ∧ exec (.hostAccessTimeout .admission c entry) s = .next (setCtx s c (if x.state = .admitting then { x with change := some .refused } else x))
      ∧ (x.reload ≠ [] → exec (.hostAccessTimeout .reload c entry) s = .next (setCtx s c (degradeCtx { x with reload := [] } (x.reload.map granuleOf).eraseDups)))

/-! ### Power, temperature, management -/

/-- R391 to R393, R405, R406, R453, R456, R458, R464, Tables 17-6 and 20-5: the brake and the supply. PWRBRK_N for 1 µs, or an input below 58 V
for 50 µs, brakes; the brake ends with its last cause. An input below 54 V or above 70 V, a failed rail, the loss of 12V_AUX and
power_off take the module down: its flash, with the spare map's journal, stays (but for what a compaction was at), no DRAM content does. More than 75 V is outside the ratings. -/
def Obligations.PowerSupply : Prop :=
  ∀ (s : State) (at_ ns cv us order : Nat),
    let p := s.power
    let m := s.mgmt
    let input : State := { s with power := { p with inputCentiV := cv }, mgmt := { m with mainInRange := decide (5800 ≤ cv) && decide (cv ≤ 6800) } }
    let down (t : State) (st : PowerState) : Prop := t.mgmt.powerState = st ∧ t.mgmt.railsUp ≤ 1 ∧ t.ready = false ∧ t.ctxs = [] ∧ t.parts = [] ∧ t.mem.bytes = [] ∧ t.mem.lines = []
      ∧ (longPending s isCompact = false → t.flash = s.flash) ∧ t.host.mem = s.host.mem ∧ t.pending = s.pending ∧ t.rot.keyGen = s.rot.keyGen
    let begins (t : State) : Prop := braked p = false → t.power.dutyEighths = 1 ∧ t.power.admissionPct = 25 ∧ t.mgmt.alert.getLsbD 3 = true ∧ mget 0 t.power.ceilings 0 + mget 0 t.power.ceilings 1 = 400
      ∧ mget 0 t.power.ceilings 2 = 470 ∧ mget 0 t.power.ceilings 3 = 280 ∧ mget 0 t.power.ceilings 4 = 250
    (ns < 1000 → exec (.pwrbrkAssert at_ ns) s = .next s)
      ∧ (1000 ≤ ns → alive s = false → exec (.pwrbrkAssert at_ ns) s = .next { s with now := max s.now at_, power := { p with lineLow := true } })
      ∧ (1000 ≤ ns → alive s = true → AnswersWith (exec (.pwrbrkAssert at_ ns) s) (fun t => t.power.brakePin = true ∧ t.power.brakeUv = p.brakeUv ∧ t.power.lineLow = true ∧ t.power.lastAssert = some at_
        ∧ t.power.brakeCnt = p.brakeCnt + b2n (!p.brakePin) ∧ t.power.cap = p.cap ∧ begins t))
      ∧ ((ns < 1000000 ∨ p.toggle = true ∧ ns < 5000000) → exec (.brakeRelease ns) s = .next s)
      ∧ ((5000000 ≤ ns ∨ p.toggle = false ∧ 1000000 ≤ ns) → AnswersWith (exec (.brakeRelease ns) s) (fun t => t.power = { p with lineLow := false, toggle := false, brakePin := false } ∧ t.mgmt.alert = m.alert ∧ t.frames = s.frames))
      ∧ (alive s = true → p.lineLow = true → AnswersWith (exec .stuckLineAlarm s) (fun t => t.power = { p with alarmStuck := true } ∧ t.mgmt.alert.getLsbD 4 = true ∧ { t with power := p, mgmt := m } = s))
      ∧ ((alive s = false ∨ p.lineLow = false) → exec .stuckLineAlarm s = .next s)
      ∧ (7500 < cv → exec (.inputUndervoltage cv us) s = .fault .outsideRatings ∧ exec (.undervoltageRelease cv us) s = .fault .outsideRatings ∧ exec (.inputPowerDown cv us) s = .fault .outsideRatings)
      ∧ (cv ≤ 7500 → (5800 ≤ cv ∨ us < 50 ∨ alive s = false) → exec (.inputUndervoltage cv us) s = .next input)
      ∧ (cv < 5800 → 50 ≤ us → alive s = true → AnswersWith (exec (.inputUndervoltage cv us) s) (fun t => t.power.brakeUv = true ∧ t.power.brakePin = p.brakePin ∧ t.power.inputCentiV = cv ∧ t.mgmt.alert.getLsbD 2 = true
        ∧ t.power.brakeCnt = p.brakeCnt + b2n (!p.brakeUv) ∧ begins t))
      ∧ (cv ≤ 7500 → (cv < 5800 ∨ us < 5000) → exec (.undervoltageRelease cv us) s = .next input)
      ∧ (5800 ≤ cv → cv ≤ 7500 → 5000 ≤ us → alive s = true → AnswersWith (exec (.undervoltageRelease cv us) s) (fun t => t.power = { p with inputCentiV := cv, brakeUv := false } ∧ t.mgmt.alertHold.getLsbD 2 = false))
      ∧ (cv ≤ 7500 → m.powerState = .on → (cv < 5400 ∧ 50 ≤ us ∨ 7000 < cv ∧ 10 ≤ us) → AnswersWith (exec (.inputPowerDown cv us) s) (fun t => down t .latched ∧ t.mgmt.alert.getLsbD 1 = true ∧ t.mgmt.alert.getLsbD 2 = true))
      ∧ (cv ≤ 7500 → (m.powerState ≠ .on ∨ 5400 ≤ cv ∧ cv ≤ 7000 ∨ us < 10) → exec (.inputPowerDown cv us) s = .next input)
      ∧ (1 ≤ order → order ≤ 10 → m.powerState ≠ .off → m.powerState ≠ .latched → AnswersWith (exec (.railFault order) s) (fun t => down t .latched ∧ t.mgmt.faultRail = order ∧ t.mgmt.alert.getLsbD 1 = true))
      ∧ (1 ≤ order → order ≤ 10 → (m.powerState = .off ∨ m.powerState = .latched) → exec (.railFault order) s = .next s)
      ∧ AnswersWith (exec .auxLoss s) (fun t => down t .off ∧ t.mgmt.auxOk = false ∧ t.mgmt.railsUp = 0 ∧ t.mgmt.dynAddr = none ∧ t.mgmt.alert.getLsbD 0 = true)
      ∧ exec .auxApplied s = .next (if m.auxOk then s else { s with mgmt := { m with auxOk := true, railsUp := max 1 m.railsUp } })
      ∧ exec .modulePowerUp s = .next (if m.auxOk ∧ m.mainInRange ∧ (m.powerState = .off ∨ m.powerState = .rising) then { s with mgmt := { m with powerState := .on, railsUp := 10, inReset := true } } else s)
      ∧ (m.powerState = .on ∨ m.powerState = .rising → AnswersWith (exec .powerOff s) (fun t => down t .off))
      ∧ (m.powerState ≠ .on → m.powerState ≠ .rising → exec .powerOff s = .next s)
      ∧ exec .powerOn s = .next (if m.powerState = .off ∧ m.auxOk then { s with mgmt := { m with powerState := .rising } } else s)

/-- R397, R399, R407, R408, Tables 17-7 and 17-8: sensors. CALIBRATION clamps the gain to 0.80 and 1.25 and ends the interval; a pair that disagrees
by more than 3% raises its flag, and the higher reading is used; die and stack temperatures set their limits with their hysteresis, and
115 °C on a die or 105 °C on a stack powers the module down; recovery takes one point back below 97 °C. -/
def Obligations.Sensors : Prop :=
  ∀ (s : State) (measured a b : Nat) (dieTemps stackTemps : List Int),
    let p := s.power
    let dies := (List.range 32).map (sensorOr dieTemps)
    let stackUnits := (List.range 24).map (sensorOr stackTemps)
    let hot := 1150 ≤ hottest dies ∨ 1050 ≤ hottest stackUnits
    (alive s = false → exec (.calibration measured) s = .next s ∧ exec (.thermalSample dieTemps stackTemps) s = .next s ∧ exec .thermalRecovery s = .next s
        ∧ exec (.sensorDisagree 0 a b) s = .next s ∧ exec (.sensorDisagree 1 a b) s = .next s)
      ∧ (alive s = true →
        AnswersWith (exec (.calibration measured) s) (fun t => t.power.energyMj = p.energyMj + measured ∧ t.power.calEst = 0 ∧ t.power.calShare = [] ∧ t.power.cap = p.cap
            ∧ -200000 ≤ t.power.gainPpm ∧ t.power.gainPpm ≤ 250000
            ∧ (p.calEst ≠ 0 → t.power.gainPpm = max 800000 (min 1250000 ((p.gainPpm + 1000000) * measured / p.calEst)) - 1000000)
            ∧ ∀ l ∈ s.host.long, isCalibrate l.op = true → l.reply = none → { l with reply := some (stDone, unsigned 64 t.power.gainPpm, 0) } ∈ t.host.long)
          ∧ (3 * min a b < 100 * (max a b - min a b) → AnswersWith (exec (.sensorDisagree 0 a b) s) (fun t =>
              t.power = { p with disagree0 := true, agree0 := 0, disagreeCnt := p.disagreeCnt + 1, alarmDisagree := true, inputW := max a b * p.inputCentiV / 10000 } ∧ { t with power := p, host := s.host, obs := s.obs } = s)
            ∧ AnswersWith (exec (.sensorDisagree 1 a b) s) (fun t =>
              t.power = { p with disagree1 := true, agree1 := 0, disagreeCnt := p.disagreeCnt + 1, alarmDisagree := true, inputCentiV := max a b } ∧ { t with power := p, host := s.host, obs := s.obs } = s))
          ∧ (100 * (max a b - min a b) ≤ 3 * min a b → p.disagree0 = false → exec (.sensorDisagree 0 a b) s = .next { s with power := { p with inputW := max a b * p.inputCentiV / 10000 } })
          ∧ (100 * (max a b - min a b) ≤ 3 * min a b → p.disagree1 = true → exec (.sensorDisagree 1 a b) s = .next { s with power := { p with inputCentiV := max a b, agree1 := p.agree1 + 1, disagree1 := decide (p.agree1 < 99) } })
          ∧ (hot → AnswersWith (exec (.thermalSample dieTemps stackTemps) s) (fun t => t.mgmt.powerState = .latched ∧ t.power.thrmLatched = true ∧ t.power.shutdown = true ∧ t.mgmt.alert.getLsbD 6 = true ∧ (longPending s isCompact = false → t.flash = s.flash) ∧ t.ctxs = []))
          ∧ (¬hot → AnswersWith (exec (.thermalSample dieTemps stackTemps) s) (fun t => t.power.dieTemps = dies ∧ t.power.stackTemps = stackUnits
            ∧ t.power.dieLimit0 = (if 1050 ≤ hottest (dies.take 16) then true else if hottest (dies.take 16) < 1030 then false else p.dieLimit0)
            ∧ t.power.dieLimit1 = (if 1050 ≤ hottest (dies.drop 16) then true else if hottest (dies.drop 16) < 1030 then false else p.dieLimit1)
            ∧ t.power.dieThrottle0 = (if 1000 ≤ hottest (dies.take 16) then true else if hottest (dies.take 16) < 970 then false else p.dieThrottle0)
            ∧ t.power.dieThrottle1 = (if 1000 ≤ hottest (dies.drop 16) then true else if hottest (dies.drop 16) < 970 then false else p.dieThrottle1)
            ∧ (∀ k, k < 24 → (stackOf t k).limited = (if 950 ≤ stackUnits.getD k 0 then true else if stackUnits.getD k 0 < 920 then false else (stackOf s k).limited)
              ∧ (stackOf t k).refreshDoubled = (if 850 ≤ stackUnits.getD k 0 then true else if stackUnits.getD k 0 < 820 then false else (stackOf s k).refreshDoubled))
            ∧ ((t.power.dieLimit0 = true ∧ p.dieLimit0 = false ∨ t.power.dieLimit1 = true ∧ p.dieLimit1 = false) → t.mgmt.alert.getLsbD 5 = true ∧ t.power.alarmThermal = true)))
          ∧ exec .thermalRecovery s = .next (if hottest p.dieTemps < 970 then { s with power := { p with thermalPoint := p.thermalPoint - 1 } } else s))

/-- R448, R462, R463, R464, Tables 19-14 and 20-8: the test port and the management microcontroller. BYPASS passes one bit, SAMPLE/PRELOAD takes the pins,
EXTEST drives them only while RST_IN_N is asserted, IDCODE reads the module's code; the alert register clears bits whose condition is
over; a read of the reset counter answers and clears it; a write of HX_MC_CTRL with both bits or neither is counted; SETDASA and ENTDAA give the I3C target its address, a stuck SCL takes it; the
mailbox is refreshed while the module works. -/
def Obligations.ManagementAndTestPort : Prop :=
  ∀ (s : State) (tdi : Bool) (pins : BitVec 16) (value : BitVec 32) (static dynamic ms : Nat), static < 128 → dynamic < 128 →
    let m := s.mgmt
    let through (b : Bool) : State := { s with mgmt := { m with jtagIr := 0, bypassBit := b, tdo := if m.bypassBit then 1 else 0, pinsDriven := false } }
    exec (.bypass tdi) s = .next (through tdi)
      ∧ exec (.samplePreload pins) s = .next { s with mgmt := { m with jtagIr := 1, boundary := pins, tdo := m.boundary.zeroExtend 32, pinsDriven := false } }
      ∧ exec (.extest pins) s = .next (if m.rstIn then { s with mgmt := { m with jtagIr := 2, boundary := pins, tdo := m.boundary.zeroExtend 32, pinsDriven := true } } else through false)
      ∧ exec .idcode s = .next { s with mgmt := { m with jtagIr := 3, tdo := 0x12416BC7, pinsDriven := false } }
      ∧ (m.auxOk = true → AnswersWith (exec (.hxMcAlert value) s) (fun t => { t with mgmt := m } = s ∧ t.mgmt = { m with alert := t.mgmt.alert }
          ∧ ∀ i, i < 32 → t.mgmt.alert.getLsbD i = (m.alert.getLsbD i && !(value.getLsbD i && !m.alertHold.getLsbD i)))
        ∧ (m.busErr < 2 ^ 32 → exec (.rcRegisterRead 9 0x30) s = .next { s with freeCount := s.freeCount + 1, mgmt := { m with busErr := 0 }, resp := { data := leBytes m.busErr 4 } })
        ∧ exec (.rcRegisterRead 9 0x10) s = .next { s with resp := { data := leBytes m.alert.toNat 4 } }
        ∧ (value.toNat % 4 = 0 ∨ value.toNat % 4 = 3 → exec (.registerWrite 9 0x28 (value.zeroExtend 64)) s = .next { s with mgmt := { m with busErr := m.busErr + 1 } })
        ∧ exec (.setdasa static dynamic) s = .next (if static = 0x52 then { s with mgmt := { m with dynAddr := some dynamic } } else s)
        ∧ (m.dynAddr = none → exec (.entdaa dynamic) s = .next { s with mgmt := { m with dynAddr := some dynamic }, resp := { data := leBytes Config.mipiManufacturer 2 ++ leBytes Config.serialNumber.toNat 4 } })
        ∧ (m.dynAddr ≠ none → exec (.entdaa dynamic) s = .next s)
        ∧ exec (.sclStuck ms) s = .next (if 100 < ms then { s with mgmt := { m with busErr := m.busErr + 1, dynAddr := none } } else s)
        ∧ exec .statusMailboxRefresh s = .next { s with mgmt := if alive s then { m with temp := some (hottest s.power.dieTemps, hottest s.power.stackTemps), mbox := modStatus s 0 % 256 } else { m with temp := none } })
      ∧ (m.auxOk = false → ∀ i, i ∈ [Instr.hxMcAlert value, .rcRegisterRead 9 0x30, .setdasa static dynamic, .entdaa dynamic, .sclStuck ms, .statusMailboxRefresh] → exec i s = .next s)

/-! ### Reset, boot, health -/

/-- R376, R377, R386, R417, R420, R421, R423, R424 to R426, R429, Tables 16-9, 18-6 and 18-10: reset, boot and hangs. A reset-length RST_IN_N
leaves the flash and the DRAM's lines and resets the rest; the boot starts the first image that verifies, over zeroed lines, or
halts; ready raises the anti-rollback counter. A hung unit aborts the step once; a sample leaves its dump; a reset that misses its
time goes on as the next domain's; a control core that misses twice is retired. -/
def Obligations.ResetBootAndHangs : Prop :=
  ∀ (s : State) (ns die core at_ n slot : Nat) (u : HangUnit) (d : Domain) (journal : List JRec) (b : Bool),
    let h := s.health
    let out : State := { s with mgmt := { s.mgmt with rstIn := false, inReset := false } }
    let read := readJournal out
    let img := (fwSlot s slot).image
    let k := 4 * die + core
    let cores := coresOf h die
    let missed := mget 0 h.coreMiss k
    let boots := s.mgmt.powerState = .on ∧ (s.mgmt.inReset = true ∨ s.rot.booted = false ∧ s.rot.halted = false)
    (ns < 2000 → exec (.rstInAssert ns) s = .next { s with health := { h with rstGlitch := h.rstGlitch + 1 } })
      ∧ (2000 ≤ ns → AnswersWith (exec (.rstInAssert ns) s) (fun t => t.mgmt.rstIn = true ∧ t.mgmt.inReset = true ∧ t.ready = false ∧ t.frames = State.reset.frames ∧ t.residency = State.reset.residency
        ∧ t.ctxs = [] ∧ t.cells = [] ∧ t.parts = [] ∧ t.grp = State.reset.grp ∧ (longPending s isCompact = false → t.flash = s.flash) ∧ t.mem.bytes = s.mem.bytes ∧ t.host.mem = s.host.mem ∧ t.pending = s.pending))
      ∧ (boots → (b = false → AnswersWith (exec (.moduleBoot true b) s) (fun t => t.rot.halted = true ∧ t.faultFlag = true ∧ t.ready = false) ∧ AnswersWith (exec (.moduleBoot b true) s) (fun t => t.rot.halted = true))
        ∧ (selectedJournal s.flash = some journal → (bootOrder read.rot).find? (bootable read) = some slot → AnswersWith (exec (.moduleBoot true true) s) (fun t =>
            t.rot.booted = true ∧ t.rot.halted = false ∧ t.rot.bootSlot = slot ∧ t.rot.recovery = decide (slot = 2) ∧ t.rot.fallback = decide (slot ≠ journalSlot journal) ∧ t.rot.activeSlot = slot
              ∧ t.rot.svn = fwSvn img ∧ t.rot.fwVersion = fieldAt img 0x10 4 ∧ t.mem.bytes = [] ∧ t.mem.lines = [] ∧ t.flash.rollback = s.flash.rollback
              ∧ measureOf t 1 = sha384 (measureOf s 1 ++ sha384 (bytesAt img 0 0x80)) ∧ (slot = journalSlot journal → t.flash.copyA = journal ∧ t.flash.copyB = journal)))
        ∧ (selectedJournal s.flash = some journal → (bootOrder read.rot).find? (bootable read) = none → AnswersWith (exec (.moduleBoot true true) s) (fun t => t.rot.halted = true ∧ t.rot.booted = false ∧ t.faultFlag = true ∧ t.ready = false)))
      ∧ (¬boots → exec (.moduleBoot true b) s = .next s)
      ∧ (s.mgmt.powerState = .on → s.mgmt.inReset = false → s.ready = false → s.rot.halted = false → s.rot.booted = true → AnswersWith (exec .moduleReady s) (fun t =>
        t.ready = true ∧ t.frames.counter = 0 ∧ t.frames.lastTick = s.now ∧ t.frames.planned = s.now + periodNs s.frames.cfg ∧ mget 0 t.health.resets 5 = mget 0 h.resets 5 + 1
          ∧ mget 0 t.flash.rollback (slotKind s.rot.bootSlot) = max (mget 0 s.flash.rollback (slotKind s.rot.bootSlot)) s.rot.svn
          ∧ (∀ j, j ≠ slotKind s.rot.bootSlot → mget 0 t.flash.rollback j = mget 0 s.flash.rollback j) ∧ { t with ready := s.ready, frames := s.frames, health := h, flash := s.flash, rot := s.rot } = s))
      ∧ ((s.ready = true ∨ s.rot.booted = false ∨ s.rot.halted = true ∨ s.mgmt.inReset = true) → exec .moduleReady s = .next s)
      ∧ (s.ready = false → h.moduleResetCause = 6 → s.mgmt.powerState = .on → AnswersWith (exec .powerCycleTimeout s) (fun t => t.mgmt.powerState = .latched ∧ t.mgmt.alert.getLsbD 7 = true ∧ (longPending s isCompact = false → t.flash = s.flash)))
      ∧ ((s.ready = true ∨ h.moduleResetCause ≠ 6) → exec .powerCycleTimeout s = .next s)
      ∧ (unitOk u = true → (windowMissed s u = false → exec (.hangDetect u) s = .next s)
        ∧ (windowMissed s u = true → (∀ p, u = .port p → AnswersWith (exec (.hangDetect u) s) (fun t => portOf t p = retrainPort (portOf s p) ∧ ∀ k, (portOf t k).state = if k = p then (retrainPort (portOf s p)).state else (portOf s k).state))
          ∧ ((∀ p, u ≠ .port p) → h.recovering = true → exec (.hangDetect u) s = .next s)
          ∧ ((∀ p, u ≠ .port p) → h.recovering = false → AnswersWith (exec (.hangDetect u) s) (fun t => t.health.hangs = h.hangs + 1 ∧ t.health.lastHang = unitDomain u ∧ t.health.recovering = true
            ∧ t.health.hangAt = some s.frames.ticks ∧ t.cells = s.cells ∧ ∀ c x, s.residency.current = some c → ctxOf s c = some x → x.inFlight ≠ none → ∃ y, ctxOf t c = some y ∧ .hang ∈ y.abortNext))))
      ∧ (h.sampling = false → exec .sampleComplete s = .next s)
      ∧ (h.sampling = true → (h.policy = 1 ∨ h.target = none ∨ ∃ t, h.target = some t ∧ t.cls < 5) → AnswersWith (exec .sampleComplete s) (fun t =>
        t.health.sampling = false ∧ t.health.target = none ∧ t.health.lastDump = (if h.lastDump = 65535 then 1 else h.lastDump + 1) ∧ (∃ x, t.health.dumps.getLast? = some x ∧ x.id = t.health.lastDump)
          ∧ (h.dumps.length ≤ 4 → t.health.dumps.length ≤ 4) ∧ (h.policy = 1 → t.health.hold = h.target ∧ t.health.resetting = h.resetting) ∧ (h.policy ≠ 1 → ∀ x, h.target = some x → x ∈ t.health.resetting)))
      ∧ (die < 2 → core < 4 → bit cores core = true → ((missed = 0 ∨ missed + 3600000000000 ≤ at_ + 1) → AnswersWith (exec (.coreHeartbeatMiss die core at_) s) (fun t =>
          t.health.coreRestarts = h.coreRestarts + 1 ∧ mget 0 t.health.coreMiss k = at_ + 1 ∧ coresOf t.health die = cores ∧ t.flash = s.flash))
        ∧ (missed ≠ 0 → at_ + 1 < missed + 3600000000000 → AnswersWith (exec (.coreHeartbeatMiss die core at_) s) (fun t => coresOf t.health die = cores - 2 ^ core
          ∧ (∃ r, t.flash.copyA = s.flash.copyA ++ [r] ∧ r.key = 0x8000) ∧ (((List.range 4).filter (bit (cores - 2 ^ core))).length < 3 → mget 0 t.health.dieState die = 2 ∧ t.faultFlag = true))))
      ∧ (die < 2 → core < 4 → bit cores core = false → exec (.coreHeartbeatMiss die core at_) s = .next s)
      ∧ (n < 4096 → d = ⟨0, n⟩ → d ∈ h.resetting → s.residency.current = none → AnswersWith (exec (.resetComplete d b) s) (fun t => d ∉ t.health.resetting ∧ mget 0 t.health.resets 0 = mget 0 h.resets 0 + 1
        ∧ (cellOf t n).sp = [] ∧ (cellOf t n).sem = [] ∧ (cellOf t n).credit = [] ∧ (cellOf t n).active = false ∧ (cellOf t n).mover.tasks = [] ∧ t.frames = s.frames ∧ t.mem.bytes = s.mem.bytes))
      ∧ (domainOk d = true → d.cls ≠ 5 → d ∉ h.resetting → exec (.resetComplete d b) s = .next s ∧ exec (.resetTimeout d) s = .next s)
      ∧ (n < 4096 → d = ⟨0, n⟩ → d ∈ h.resetting → AnswersWith (exec (.resetTimeout d) s) (fun t => ⟨1, n / 16⟩ ∈ t.health.resetting ∧ d ∉ t.health.resetting ∧ n ∈ t.health.retiring
        ∧ t.health.escalations = h.escalations + 1 ∧ t.health.lastCause = 4 ∧ t.cells = s.cells ∧ t.frames = s.frames))
      ∧ (s.ready = false → s.mgmt.powerState = .on → AnswersWith (exec (.resetTimeout ⟨5, 0⟩) s) (fun t => t.mgmt.powerState = .on ∧ t.mgmt.inReset = true ∧ t.mem.bytes = [] ∧ t.health.moduleResetCause = 6 ∧ (longPending s isCompact = false → t.flash = s.flash)))
      ∧ (die < 2 → (mget 0 h.dieState die = 0 → AnswersWith (exec (.dieError die) s) (fun t => ⟨4, die⟩ ∈ t.health.resetting ∧ mget 0 t.health.dieState die = 1 ∧ t.health.lastCause = 3 ∧ t.frames = s.frames
          ∧ ∀ c x, s.residency.current = some c → ctxOf s c = some x → x.inFlight ≠ none → ∃ y, ctxOf t c = some y ∧ .reset ∈ y.abortNext)) ∧ (mget 0 h.dieState die ≠ 0 → exec (.dieError die) s = .next s))

/-! ### SPDM -/

/-- R380, R381: the SPDM responder. A request that is in order is answered, and both join the transcript; one out of order is answered with an
error and changes nothing of the connection. Measurements and challenges are signed; FINISH opens the session and END_SESSION ends
it; GET_SLH_SIG signs what was signed last. The module answers nothing before it has booted. -/
def Obligations.SpdmResponder : Prop :=
  ∀ (s : State) (slot offset length index : Nat) (nonce exchange : List Byte) (sign ecc gcm : Bool),
    let x := s.rot.spdm
    let conn (o : Host.Outcome State Fault Refusal) (P : Spdm → Prop) : Prop := AnswersWith o (fun t =>
      P t.rot.spdm ∧ t.resp = { data := t.rot.spdm.response } ∧ { t with rot := { t.rot with spdm := x }, resp := s.resp, freeCount := s.freeCount } = s)
    let code (l : List Byte) (c : Nat) : Prop := fieldAt l 1 1 = c
    let later : List Instr := [.getDigests, .getCertificate slot offset length, .challenge slot nonce, .getMeasurements index sign nonce, .getSlhCert offset length]
    (answers s = false → ∀ i, i ∈ later ++ [Instr.getVersion, .getCapabilities, .negotiateAlgorithms true true ecc gcm, .keyExchange slot exchange, .finish true, .endSession, .getSlhSig] → exec i s = .next s)
      ∧ (answers s = true →
        conn (exec .getVersion s) (fun y => y.version = true ∧ y.caps = false ∧ y.algs = false ∧ y.session = false ∧ y.handshake = false ∧ y.signed = none ∧ code y.response 0x04)
          ∧ (x.version = true → conn (exec .getCapabilities s) (fun y => code y.response 0x61 ∧ y = { x with caps := true, response := y.response, transcript := y.transcript } ∧ ∃ q, y.transcript = x.transcript ++ q ++ y.response))
          ∧ (x.caps = true → conn (exec (.negotiateAlgorithms true true ecc gcm) s) (fun y => code y.response 0x63 ∧ y.algs = true ∧ y.exchange = (ecc && gcm))
            ∧ conn (exec (.negotiateAlgorithms false sign ecc gcm) s) (fun y => y = { x with response := y.response } ∧ code y.response 0x7F))
          ∧ (x.algs = true → conn (exec .getDigests s) (fun y => code y.response 0x01 ∧ y.response.drop 4 = sha384 (certChain 0))
            ∧ (offset < Config.certLength 0 → conn (exec (.getCertificate 0 offset length) s) (fun y => code y.response 0x02 ∧ y.response.drop 4 = certPiece 0 offset length))
            ∧ (offset < Config.certLength 1 → conn (exec (.getSlhCert offset length) s) (fun y => code y.response 0x7E ∧ y.response.drop 4 = certPiece 1 offset (min length 4096)))
            ∧ conn (exec (.challenge 0 nonce) s) (fun y => code y.response 0x03 ∧ (y.response.drop 4).take 48 = sha384 (certChain 0) ∧ y.response.length = 4 + 48 + 32 + 384
              ∧ ∃ m, y.signed = some m ∧ y.response.drop 84 = (List.range 384).map (Config.rsaSigByte m))
            ∧ (1 ≤ index → index ≤ 6 → conn (exec (.getMeasurements index false nonce) s) (fun y => code y.response 0x60 ∧ y.response.drop 4 = leBytes 1 1 ++ leBytes index 1 ++ leBytes 48 2 ++ measureOf s (index - 1) ∧ y.signed = x.signed)
              ∧ conn (exec (.getMeasurements index true nonce) s) (fun y => code y.response 0x60 ∧ ∃ m, y.signed = some m))
            ∧ (6 < index → index ≠ 0xFF → conn (exec (.getMeasurements index sign nonce) s) (fun y => y = { x with response := y.response } ∧ code y.response 0x7F))
            ∧ (slot ≠ 0 → conn (exec (.challenge slot nonce) s) (fun y => y = { x with response := y.response } ∧ code y.response 0x7F)))
          ∧ (x.algs = true → x.exchange = true → x.session = false → conn (exec (.keyExchange 0 exchange) s) (fun y => code y.response 0x64 ∧ y.handshake = true ∧ y.session = false ∧ y.signed = none))
          ∧ (x.handshake = true → conn (exec (.finish true) s) (fun y => code y.response 0x65 ∧ y.handshake = false ∧ y.session = true) ∧ conn (exec (.finish false) s) (fun y => code y.response 0x7F ∧ y = { x with handshake := false, response := y.response }))
          ∧ (x.session = true → conn (exec .endSession s) (fun y => code y.response 0x6C ∧ y.session = false ∧ y.signed = none))
          ∧ (∀ m, x.signed = some m → conn (exec .getSlhSig s) (fun y => code y.response 0x7E ∧ y.response.drop 4 = (List.range 7856).map (Config.slhSigByte m) ∧ y.signed = x.signed))
          ∧ (x.algs = false → ∀ i, i ∈ later → conn (exec i s) (fun y => y = { x with response := y.response } ∧ code y.response 0x7F))
          ∧ ((x.algs = false ∨ x.exchange = false ∨ x.session = true) → conn (exec (.keyExchange slot exchange) s) (fun y => y = { x with response := y.response } ∧ code y.response 0x7F)))

/-! ### What a tick does to commands and steps -/

/-- R349, R353 to R360, Table 15-5: the changes that commands of kind T wait for. At its tick a change leaves the state that `u` describes and its
reply is DONE or DONE_LATE; before its tick none acts. -/
def Obligations.TickChanges : Prop :=
  ∀ (s : State) (h : CmdHdr) (accepted at_ c n a b k e bank : Nat) (pin : Nat) (x : Ctx) (r : RangeEntry) (q : CtxCreateParams) (rec_ : List Byte),
    let ends (i : Instr) (data : List Nat) (res res2 : Nat) (P : State → Prop) : Prop :=
      ∃ u, applyChange s { op := i, data := data, hdr := h, accepted := accepted, atTick := at_ } = some (finishDone u h i accepted res res2) ∧ P u
    let ctxIs (u : State) (y : Ctx) : Prop := u = setCtx s c y
    let old := rangeOf s n
    let slot := mget TableSlot.reset x.tables (recordSlot rec_)
    ((∀ p ∈ s.host.ticking, s.frames.ticks < p.atTick) → ∀ f, applyDue s f = s)
      ∧ ends (.powerCapSet h n) [] n 0 (fun u => u = { s with power := { s.power with cap := n } })
      ∧ ends (.powerPrioritySet h a b k) [] 0 0 (fun u => u = { s with power := { s.power with order0 := a, order1 := b, order2 := k } })
      ∧ ends (.hangPolicySet h n) [] 0 0 (fun u => u = { s with health := { s.health with policy := n } })
      ∧ ends (.traceConfig h e a b) [] 0 0 (fun u => u.obs.traceOn = bit e 0 ∧ u.obs.sameRowOn = bit e 1 ∧ u.obs.traceRing = a ∧ u.obs.traceLog2 = Nat.log2 b
        ∧ (s.obs.traceRing ≠ a → u.obs.traceHead = 0 ∧ u.obs.traceTail = 0) ∧ { u with obs := s.obs } = s)
      ∧ ends (.rangeAttr h n r) [] 0 0 (fun u => rangeOf u n = (if r.owner = 0xFF then noRange else { r with reserved := none }) ∧ (∀ j, j ≠ n → rangeOf u j = rangeOf s j)
        ∧ (old.owner ≠ 0xFF → r.owner ≠ old.owner → ∀ l y, calFind s l = some y → lineIn old.base old.size y = true → calFind u l = none))
      ∧ ends (.partCreate h n k a b e bank) [] 0 0 (fun u => partOf u n = { present := true, keepWays := k, mask0 := a, mask1 := b, maxContexts := e, maxQueues := bank, memKey := 2 * s.rot.keyGen + 2 }
        ∧ u.rot.keyGen = s.rot.keyGen + 1 ∧ (∀ j, 8 + 3 * n ≤ j → j < 11 + 3 * n → measureOf u j = zeroMeasure) ∧ ∀ j, j ≠ n → partOf u j = partOf s j)
      ∧ ends (.ctxCreate h q) [c] c 0 (fun u => ctxOf u c = some (newCtx h.partition q) ∧ ∀ j, j ≠ c → ctxOf u j = ctxOf s j)
      ∧ (ctxOf s c = some x →
        (unloadable x 1 = true → ends (.schedUnload h c 1) [] 0 0 (fun u => ctxIs u { x with bankA := none, bankB := none, activeB := false, imageActive := false, switchPending := false, state := .loading }))
          ∧ (unloadable x 1 = false → applyChange s { op := .schedUnload h c 1, data := [], hdr := h, accepted := accepted, atTick := at_ } = some (finish s h (.schedUnload h c 1) stWrongState 0 0))
          ∧ (∃ u, applyChange s { op := .ctxPin h c pin, data := [], hdr := h, accepted := accepted, atTick := at_ } = some (finishDone u h (.ctxPin h c pin) accepted (pinnedCount u) 0)
            ∧ ctxIs u { x with pinned := decide (pin = 1) })
          ∧ ends (.tableActivate h c n k) [] k 0 (fun u => ctxIs u { x with tables := mset TableSlot.reset x.tables n (turnSlot (mget TableSlot.reset x.tables n)) })
          ∧ (slot.pendingLoad ≠ none → activeTable slot = none → ends (.tableLoad h c rec_) [bank] (recordTable rec_).generation bank (fun u => ctxIs u { x with
            tables := mset TableSlot.reset x.tables (recordSlot rec_) { slot with bank0 := slot.pendingLoad, active := false, pendingLoad := none } }))
          ∧ (x.group = false → x.inFlight = none → (∃ t ∈ x.queue, namesStep n t = true) → x.queue.Pairwise (fun t y => t.hdr ≠ y.hdr) → ends (.stepAbort h c n) [] 0 0 (fun u =>
            ∃ y, ctxOf u c = some y ∧ y.queue = x.queue.filter (fun t => !namesStep n t) ∧ ∀ t ∈ x.queue, namesStep n t = true → ∀ l ∈ s.host.long, l.hdr = t.hdr → l.reply = none →
              { l with reply := some (stAborted, stepResult t false, 0) } ∈ u.host.long))
          ∧ (x.group = false → hasStep x n = false → applyChange s { op := .stepAbort h c n, data := [], hdr := h, accepted := accepted, atTick := at_ } = some (finish s h (.stepAbort h c n) stWrongState 0 0)))

/-- R43, R139, R140, R189, R271, R273, R278 to R281, R471: the life of a step. Its first row, the active image's, takes its pages or ends it with NO_SPACE; its commit makes
its pages OWNED, ends its command, and turns the training half unless a latch was set; an abort frees its tentative pages, and ends
it, runs it again at most three times, or degrades the context. -/
def Obligations.StepLife : Prop :=
  ∀ (s : State) (c : Nat) (x : Ctx) (t : Step) (rest : List Step) (causes : List AbortCause), ctxOf s c = some x →
    let into (u : State) (P : Ctx → Prop) : Prop := ∃ y, ctxOf u c = some y ∧ P y
    let replied (u : State) (status result result2 : Nat) : Prop := ∀ l ∈ s.host.long, l.hdr = t.hdr → l.reply = none → { l with reply := some (status, result, result2) } ∈ u.host.long
    let count (y : Ctx) (i k : Nat) : Prop := mget 0 y.acct i = mget 0 x.acct i + k
    let skips := decide (t.phase = 3) && t.latch
    let issued := match findBucket (activeImage x) t.bucket with | some b => { t with firstRow := bucketFirstRow b, rowCount := bucketRowCount b } | none => t
    (x.queue = t :: rest →
        (freeFrames x < t.need → into (startStep s c) (fun y => y.queue = rest ∧ y.inFlight = x.inFlight ∧ y.pages = x.pages ∧ count y acAborted 1) ∧ replied (startStep s c) stNoSpace (stepResult t false) 0)
          ∧ (t.need ≤ freeFrames x → t.phase ≠ 3 → into (startStep s c) (fun y => y.queue = rest ∧ y.inFlight = some { issued with started := true, row := 0, latch := false, startFrame := frameNow s } ∧ y.pages.length = x.pages.length)))
      ∧ (x.inFlight = some t →
        into (commitStep s c) (fun y => y.inFlight = none ∧ y.queue = x.queue ∧ count y acDone 1 ∧ count y acSkipped (b2n skips) ∧ y.targetHalf = (if t.phase = 3 ∧ t.latch = false then !x.targetHalf else x.targetHalf)
            ∧ (t.sessions = [] → ∀ (i : Nat) g, x.pages[i]? = some g → g.state = .tentative → y.pages[i]? = some { g with state := .owned, supersedes := none }))
          ∧ replied (commitStep s c) (stepDone s t) (stepResult t skips) 0
          ∧ (causes.any hardCause = true → into (abortStep s c causes) (fun y => y.inFlight = none ∧ y.queue = x.queue ∧ y.reconcile = true ∧ y.abortNext = [] ∧ count y acAborted 1 ∧ ∀ g ∈ y.pages, g.state ≠ .tentative)
            ∧ ∃ k, replied (abortStep s c causes) stAborted (stepResult t false) k)
          ∧ (∀ a, causes = [.poisonWeight a] →
            (t.replays < 3 → into (abortStep s c causes) (fun y => y.inFlight = none ∧ y.reload = [a] ∧ y.reconcile = true ∧ count y acReplays 1 ∧ (∀ g ∈ y.pages, g.state ≠ .tentative)
                ∧ y.queue = { t with started := false, row := 0, latch := false, overflowLeft := 0, replays := t.replays + 1 } :: x.queue))
              ∧ (3 ≤ t.replays → into (abortStep s c causes) (fun y => y.inFlight = none ∧ y.queue = t :: x.queue ∧ granuleOf a ∈ y.degradedGranules ∧ y.degradeDue = true))))

/-! ### The machine as a whole -/

/-- R94, R95 to R107, Tables 4-4 to 4-12: every well-formed tile operation has a 64-bit word, and that word decodes to it, with every field at
every value that the encoding admits; a word that decodes is the word of its operation, so that no bit of it is dropped. -/
def Obligations.TileWordsRoundTrip : Prop :=
  (∀ op : TileOp, op.ok = true → encodeTile op < 2 ^ 64 ∧ decodeTile (encodeTile op) = some op) ∧ ∀ (w : Nat) (op : TileOp), decodeTile w = some op → encodeTile op = w

/-- What the spec gives of the machine after a reset (R30, R34, R47, R60, R88, R152, R160, R172, R190, R231, R300, R359, R400, Tables 2-10, 5-3, 13-11,
15-4 and 17-9): zeroed cells, empty queues and tables, no partition, no context, the default frame, cap, order and policy, ports down,
a module alone. The memories are in canonical form, and no command waits. Values that the model chose (log entries 1 and 2) are not
named here. -/
def Obligations.ResetState : Prop :=
  let s := State.reset
  s.pending = [] ∧ MemoriesCanonical s ∧ (∀ a, readByte s.mem.bytes a = 0)
    ∧ s.frames.counter = 0 ∧ s.frames.cfg = { lateLead := 10, periodUs := 20, quantumUs := 2, maxQuanta := 4, syncOutEn := false, source := 0 }
    ∧ s.frames.lateCnt = 0 ∧ s.frames.stretchCnt = 0 ∧ s.frames.overrunCnt = 0 ∧ s.frames.syncOverrunCnt = 0 ∧ s.frames.syncLostCnt = 0 ∧ s.frames.droopCnt = 0
    ∧ (∀ c i, aReg (cellOf s c) i = 0 ∧ mget 0 (cellOf s c).k i = 0 ∧ vReg (cellOf s c) i = zeroLanes ∧ spByte s c i = 0 ∧ (semOf (cellOf s c) i).value = 0
      ∧ (creditOf (cellOf s c) i).value = 0 ∧ slotOf (cellOf s c) i = StatSlot.reset ∧ (cellOf s c).mover.ledger = { accepted := 0, completed := 0, failed := 0, cancelled := 0 })
    ∧ (∀ c, ctxOf s c = none) ∧ (∀ p, (partOf s p).present = false) ∧ (∀ q, queueOf? s q = none) ∧ s.host.windows = [] ∧ s.host.exposures = []
    ∧ (∀ p, (portOf s p).state = .down ∧ (portOf s p).lanes = 0 ∧ (portOf s p).peerRank = 0xFF ∧ (portOf s p).peerPort = 0xFF)
    ∧ s.grp.state = .standalone ∧ s.grp.size = 1 ∧ s.power.cap = 3600 ∧ s.power.order0 = 2 ∧ s.power.order1 = 1 ∧ s.power.order2 = 0 ∧ s.power.gainPpm = 0 ∧ s.health.policy = 0

/-- From every state whose memories are in canonical form, not only from those that a run reaches, a step leaves them in canonical form;
it takes one command from the queue and puts none into it; and no anti-rollback counter falls (R377). -/
def Obligations.StepKeepsMemoriesQueueAndCounters : Prop :=
  ∀ (s t : State), MemoriesCanonical s → step s = .next t →
    MemoriesCanonical t ∧ t.pending = s.pending.tail ∧ ∀ k, mget 0 s.flash.rollback k ≤ mget 0 t.flash.rollback k
end

