-- ==== Sys2Proof/Laws/Bytes.lean ====
section
/-! SUPPORT. Laws/Bytes.lean: fields of byte strings, and the ranges of check values. -/

namespace Sys2Proof.Machine

open Sys2Proof

@[simp] theorem length_leBytes (x n : Nat) : (leBytes x n).length = n := by
  induction n generalizing x with
  | zero => rfl
  | succ n ih => simp [leBytes, ih]

theorem leNat_leBytes (x n : Nat) : leNat (leBytes x n) = x % 256 ^ n := by
  induction n generalizing x with
  | zero => simp [leBytes, leNat, Nat.mod_one]
  | succ n ih =>
    simp only [leBytes, leNat, ih, BitVec.toNat_ofNat]
    have h := Nat.mod_mul (x := x) (a := 256) (b := 256 ^ n)
    rw [← Nat.pow_succ'] at h
    exact h.symm

/-- A field that begins a byte string reads the number that it was written from. -/
theorem fieldAt_append (a b : List Byte) (x n : Nat) (h : x < 256 ^ n) : fieldAt (a ++ (leBytes x n ++ b)) a.length n = x := by
  simp [fieldAt, leNat_leBytes, Nat.mod_eq_of_lt h]

theorem leNat_zeros (n : Nat) : leNat (List.replicate n 0) = 0 := by
  induction n with
  | zero => rfl
  | succ n ih => rw [List.replicate_succ, leNat, ih]; rfl

theorem crcBit_lt (p r : Nat) (hp : p < 2 ^ 32) (hr : r < 2 ^ 32) : crcBit p r < 2 ^ 32 := by
  unfold crcBit
  split
  · exact Nat.xor_lt_two_pow (by omega) hp
  · omega

theorem crcByte_lt (p r : Nat) (b : Byte) (hp : p < 2 ^ 32) (hr : r < 2 ^ 32) : crcByte p r b < 2 ^ 32 := by
  have hb : b.toNat < 2 ^ 32 := by have := b.isLt; omega
  exact crcBit_lt p _ hp (crcBit_lt p _ hp (crcBit_lt p _ hp (crcBit_lt p _ hp (crcBit_lt p _ hp (crcBit_lt p _ hp (crcBit_lt p _ hp (crcBit_lt p _ hp
    (Nat.xor_lt_two_pow hr hb))))))))

theorem crcRun_append (p r : Nat) (a b : List Byte) : crcRun p r (a ++ b) = crcRun p (crcRun p r a) b := List.foldl_append

theorem crcRun_lt (p r : Nat) (bs : List Byte) (hp : p < 2 ^ 32) (hr : r < 2 ^ 32) : crcRun p r bs < 2 ^ 32 := by
  induction bs generalizing r with
  | nil => exact hr
  | cons b t ih => exact ih (crcByte p r b) (crcByte_lt p r b hp hr)

/-- A check value has 32 bits (R226). -/
theorem crc32c_lt (bs : List Byte) : crc32c bs < 2 ^ 32 :=
  Nat.xor_lt_two_pow (crcRun_lt _ _ _ (by decide) (by decide)) (by decide)

end Sys2Proof.Machine
end

