-- ==== Sys2Proof/Laws/Links.lean ====
section
/-! SUPPORT. Laws/Links.lean: flits as they are written and read, and what sending over a port leaves unchanged. -/

namespace Sys2Proof.Machine

open Sys2Proof

theorem cvBit_lt (p r : Nat) (b : Bool) (hp : polyTaps p < 2 ^ polyWidth p) : cvBit p r b < 2 ^ polyWidth p := by
  have h : r * 2 % 2 ^ polyWidth p < 2 ^ polyWidth p := Nat.mod_lt _ (Nat.two_pow_pos _)
  unfold cvBit
  simp only
  split
  · exact Nat.xor_lt_two_pow h hp
  · exact h

theorem cvByte_lt (p r : Nat) (x : Byte) (hp : polyTaps p < 2 ^ polyWidth p) : cvByte p r x < 2 ^ polyWidth p := by
  unfold cvByte
  simp only [List.foldl_cons, List.foldl_nil]
  exact cvBit_lt p _ _ hp

theorem cvRunBytes_lt (p r : Nat) (bs : List Byte) (hp : polyTaps p < 2 ^ polyWidth p) (hr : r < 2 ^ polyWidth p) : cvRunBytes p r bs < 2 ^ polyWidth p := by
  induction bs generalizing r with
  | nil => exact hr
  | cons b t ih => exact ih (cvByte p r b) (cvByte_lt p r b hp)

/-- The check value of a flit has 64 bits (Table 18-1). -/
theorem crc64_lt (bs : List Byte) : crc64 bs < 2 ^ 64 := by
  have h := cvRunBytes_lt 3 (polyInit 3) bs (by decide) (by decide)
  simpa [crc64, cvFinish, polyReflected, polyXor, polyWidth] using h

@[simp] theorem length_bytesAt (bs : List Byte) (o n : Nat) : (bytesAt bs o n).length = n := by
  show ((bs.drop o).take n ++ List.replicate (n - ((bs.drop o).take n).length) 0).length = n
  rw [List.length_append, List.length_replicate, List.length_take]
  omega

/-- The last eight bytes of 256 are the check value that the CRC over the others is held against (R288). -/
theorem flitGood_append (b : List Byte) (c : Nat) (hb : b.length = 248) (hc : c < 2 ^ 64) : flitGood (b ++ leBytes c 8) = decide (c = crc64 b) := by
  have f : fieldAt (b ++ leBytes c 8) 248 8 = c := by
    have := fieldAt_append b [] c 8 (by simpa using hc)
    rwa [List.append_nil, hb] at this
  have t : (b ++ leBytes c 8).take 248 = b := by rw [← hb]; exact List.take_left
  simp [flitGood, f, t, hb]

/-- A flit is 256 bytes and passes its CRC (R288). -/
theorem flitGood_flitBytes (h : FlitHead) (payload : List Byte) : (flitBytes h payload).length = 256 ∧ flitGood (flitBytes h payload) = true := by
  constructor
  · simp [flitBytes]
  · unfold flitBytes
    rw [flitGood_append _ _ (by simp) (crc64_lt _), decide_eq_true rfl]

/-- A flit's payload stands behind its header (R288). -/
theorem payload_flitBytes (h : FlitHead) (payload : List Byte) (n : payload.length = 240) : bytesAt (flitBytes h payload) 8 240 = payload := by
  have t : bytesAt payload 0 240 = payload := by simp [bytesAt, ← n]
  unfold flitBytes
  simp only [t, List.append_assoc]
  rw [bytesAt, List.drop_left' (length_leBytes _ 8), List.take_left' n, n]
  simp

/-! ### Sending -/

/-- Sending a flit changes what a port has sent and the turn of the totals alone. -/
theorem emit_frame (x : Port) (seq vc recPos : Nat) (phase : Bool) (ltype : Nat) (payload : List Byte) :
    ∃ raw, flitGood raw = true ∧ emit x seq vc recPos phase ltype payload = { x with sent := x.sent ++ [raw], crTurn := (x.crTurn + 1) % 4 } :=
  ⟨_, (flitGood_flitBytes _ payload).2, rfl⟩

/-- Sending data flits changes what a port has sent and the turn of the totals alone. -/
theorem emitData_foldl_frame (fs : List TxFlit) (x : Port) :
    ∃ raws n, raws.length = fs.length ∧ (∀ r ∈ raws, flitGood r = true) ∧ fs.foldl emitData x = { x with sent := x.sent ++ raws, crTurn := n } := by
  induction fs generalizing x with
  | nil => exact ⟨[], x.crTurn, rfl, by simp, by simp⟩
  | cons f t ih =>
    obtain ⟨raw, hg, he⟩ := emit_frame x f.seq f.vc f.recPos f.phase 0 f.payload
    obtain ⟨raws, n, hl, hr, h⟩ := ih (emitData x f)
    refine ⟨raw :: raws, n, by simp [hl], by simpa [hg] using hr, ?_⟩
    rw [List.foldl_cons, h, emitData, he]
    simp

/-- The record at the head of a channel that can leave has its credits, room in the replay buffer, and a key that is not used up
(R289, R291, R295). -/
theorem recordReady_some (x : Port) (vc : Nat) (r : TxRec) (h : recordReady x vc = some r) :
    (queueAt x vc).head? = some r ∧ recordFlits r ≤ mget 0 x.credits vc ∧ x.unacked.length + recordFlits r ≤ 512 ∧ x.tx.counter < keyLimit := by
  unfold recordReady at h
  split at h
  · cases h
  · rename_i q t hq
    simp only at h
    split at h
    · rename_i hc
      cases h
      exact ⟨by rw [hq]; rfl, hc.1, hc.2.1, hc.2.2.1⟩
    · cases h

end Sys2Proof.Machine
end

