-- ==== Sys2Proof/Laws/Maps.lean ====
section
/-! SUPPORT. Laws/Maps.lean: what reading a sparse array gives after a change of it, and that changes keep its canonical
form. -/

namespace Sys2Proof.Machine

open Sys2Proof

variable {α : Type}

theorem mget_append (d : α) (m n : SMap α) (i : Nat) : mget d (m ++ n) i = if m.any (fun e => e.1 == i) then mget d m i else mget d n i := by
  induction m with
  | nil => simp
  | cons e t ih =>
    obtain ⟨k, v⟩ := e
    by_cases h : k = i
    · simp [mget, h]
    · have hb : (k == i) = false := by simpa using h
      simp only [List.cons_append, mget, h, if_false, ih, List.any_cons, hb, Bool.false_or]

theorem mget_filter (d : α) (m : SMap α) (p : Nat → Bool) (i : Nat) (h : p i = true) : mget d (m.filter (fun e => p e.1)) i = mget d m i := by
  induction m with
  | nil => rfl
  | cons e t ih =>
    obtain ⟨k, v⟩ := e
    by_cases hk : k = i
    · subst hk; simp [mget, h]
    · by_cases hp : p k = true
      · simp [hp, mget, hk, ih]
      · simp [hp, mget, hk, ih]

theorem mget_absent (d : α) (m : SMap α) (i : Nat) (h : m.any (fun e => e.1 == i) = false) : mget d m i = d := by
  induction m with
  | nil => rfl
  | cons e t ih =>
    obtain ⟨k, v⟩ := e
    simp only [List.any_cons, Bool.or_eq_false_iff, beq_eq_false_iff_ne] at h
    simp [mget, h.1, ih h.2]

theorem any_mbelow (m : SMap α) (i j : Nat) (h : i ≤ j) : (mbelow m i).any (fun e => e.1 == j) = false := by
  simp only [mbelow, List.any_eq_false, List.mem_filter, beq_iff_eq, decide_eq_true_eq]
  rintro e ⟨_, he⟩ rfl
  omega

theorem any_mfrom (m : SMap α) (i j : Nat) (h : j < i) : (mfrom m i).any (fun e => e.1 == j) = false := by
  simp only [mfrom, List.any_eq_false, List.mem_filter, beq_iff_eq, decide_eq_true_eq]
  rintro e ⟨_, he⟩ rfl
  omega

/-- A splice leaves every index outside its span as it was. -/
theorem mget_msplice_ne (d : α) (m mid : SMap α) (lo n j : Nat) (hm : ∀ e ∈ mid, lo ≤ e.1 ∧ e.1 < lo + n) (h : j < lo ∨ lo + n ≤ j) :
    mget d (msplice m lo n mid) j = mget d m j := by
  have hmid : mid.any (fun e => e.1 == j) = false := by
    simp only [List.any_eq_false, beq_iff_eq]
    rintro e he rfl
    have := hm e he
    omega
  have hb : j < lo → mget d (mbelow m lo) j = mget d m j := fun hj => by
    simpa [mbelow] using mget_filter d m (fun k => decide (k < lo)) j (by simpa using hj)
  have hf : lo + n ≤ j → mget d (mfrom m (lo + n)) j = mget d m j := fun hj => by
    simpa [mfrom] using mget_filter d m (fun k => decide (lo + n ≤ k)) j (by simpa using hj)
  unfold msplice
  rw [mget_append, mget_append, List.any_append, hmid]
  rcases h with h | h
  · by_cases hany : (mbelow m lo).any (fun e => e.1 == j) = true
    · simp [hany, hb h]
    · have hany' : (mbelow m lo).any (fun e => e.1 == j) = false := Bool.eq_false_iff.2 hany
      rw [hany']
      simp only [Bool.or_self, Bool.false_eq_true, if_false]
      rw [mget_absent d _ _ (any_mfrom m (lo + n) j (by omega)), ← hb h, mget_absent d _ _ hany']
  · rw [any_mbelow m lo j (by omega)]
    simp [hf h]

/-- A splice by one entry, or by none, reads as that entry, or as the default. -/
theorem mget_msplice_self (d : α) (m mid : SMap α) (lo n j : Nat) (h1 : lo ≤ j) (h2 : j < lo + n) :
    mget d (msplice m lo n mid) j = mget d mid j := by
  unfold msplice
  rw [mget_append, mget_append, List.any_append, any_mbelow m lo j h1]
  by_cases hm : mid.any (fun e => e.1 == j) = true
  · simp [hm]
  · have hm' : mid.any (fun e => e.1 == j) = false := Bool.eq_false_iff.2 hm
    simp [hm', mget_absent d _ _ (any_mfrom m (lo + n) j h2), mget_absent d _ _ hm']

theorem mget_mset [DecidableEq α] (d : α) (m : SMap α) (i j : Nat) (v : α) : mget d (mset d m i v) j = if j = i then v else mget d m j := by
  by_cases h : j = i
  · subst h
    unfold mset
    rw [mget_msplice_self d m _ j 1 j (Nat.le_refl _) (by omega)]
    split <;> simp_all [mget]
  · simp only [h, if_false]
    unfold mset
    apply mget_msplice_ne
    · intro e he
      split at he
      · simp at he
      · simp at he; subst he; omega
    · omega

@[simp] theorem mget_mset_self [DecidableEq α] (d : α) (m : SMap α) (i : Nat) (v : α) : mget d (mset d m i v) i = v := by simp [mget_mset]

theorem mget_mset_ne [DecidableEq α] (d : α) (m : SMap α) (i j : Nat) (v : α) (h : j ≠ i) : mget d (mset d m i v) j = mget d m j := by
  simp [mget_mset, h]

theorem mget_mmod [DecidableEq α] (d : α) (m : SMap α) (i j : Nat) (f : α → α) : mget d (mmod d m i f) j = if j = i then f (mget d m i) else mget d m j := by
  simp [mmod, mget_mset]

@[simp] theorem mget_madd (m : SMap Nat) (i j n : Nat) : mget 0 (madd m i n) j = if j = i then mget 0 m i + n else mget 0 m j := by
  simp [madd, mget_mmod]

theorem mget_mclear (d : α) (m : SMap α) (lo n j : Nat) : mget d (mclear m lo n) j = if lo ≤ j ∧ j < lo + n then d else mget d m j := by
  unfold mclear
  split
  · rename_i h; rw [mget_msplice_self d m [] lo n j h.1 h.2]; rfl
  · rename_i h; exact mget_msplice_ne d m [] lo n j (by simp) (by omega)

/-! ### Canonical form -/

theorem mapWf_iff [DecidableEq α] (d : α) (m : SMap α) :
    mapWf d m = true ↔ m.Pairwise (fun a b => a.1 < b.1) ∧ ∀ e ∈ m, e.2 ≠ d := by
  induction m with
  | nil => simp [mapWf]
  | cons e t ih =>
    obtain ⟨k, v⟩ := e
    cases t with
    | nil => simp [mapWf]
    | cons f u =>
      obtain ⟨l, w⟩ := f
      simp only [mapWf, Bool.and_eq_true, decide_eq_true_eq, ih, List.pairwise_cons, List.mem_cons, forall_eq_or_imp]
      constructor
      · rintro ⟨⟨hv, hk⟩, ⟨hl, hp⟩, hw, hd⟩
        exact ⟨⟨⟨hk, fun a ha => Nat.lt_trans hk (hl a ha)⟩, hl, hp⟩, hv, hw, hd⟩
      · rintro ⟨⟨⟨hk, _⟩, hl, hp⟩, hv, hw, hd⟩
        exact ⟨⟨hv, hk⟩, ⟨hl, hp⟩, hw, hd⟩

/-- A splice of a canonical part into a canonical map is canonical. -/
theorem mapWf_msplice [DecidableEq α] (d : α) (m mid : SMap α) (lo n : Nat) (hm : mapWf d m = true) (hmid : mapWf d mid = true)
    (hr : ∀ e ∈ mid, lo ≤ e.1 ∧ e.1 < lo + n) : mapWf d (msplice m lo n mid) = true := by
  rw [mapWf_iff] at *
  obtain ⟨hp, hv⟩ := hm
  obtain ⟨hp', hv'⟩ := hmid
  unfold msplice mbelow mfrom
  refine ⟨?_, ?_⟩
  · rw [List.pairwise_append, List.pairwise_append]
    refine ⟨⟨hp.filter _, hp', ?_⟩, hp.filter _, ?_⟩
    · intro a ha b hb
      have := hr b hb
      simp at ha
      omega
    · intro a ha b hb
      simp only [List.mem_append, List.mem_filter, decide_eq_true_eq] at ha hb
      rcases ha with ha | ha
      · omega
      · have := hr a ha; omega
  · intro e he
    simp only [List.mem_append, List.mem_filter] at he
    rcases he with (he | he) | he
    · exact hv e he.1
    · exact hv' e he
    · exact hv e he.1

theorem mapWf_mset [DecidableEq α] (d : α) (m : SMap α) (i : Nat) (v : α) (hm : mapWf d m = true) : mapWf d (mset d m i v) = true := by
  unfold mset
  apply mapWf_msplice d m _ i 1 hm
  · split
    · rfl
    · rename_i h; simp [mapWf, h]
  · intro e he
    split at he
    · simp at he
    · simp at he; subst he; omega

theorem mapWf_filter [DecidableEq α] (d : α) (m : SMap α) (p : Nat × α → Bool) (hm : mapWf d m = true) : mapWf d (m.filter p) = true := by
  rw [mapWf_iff] at *
  exact ⟨hm.1.filter _, fun e he => hm.2 e (List.mem_filter.1 he |>.1)⟩

theorem mapWf_mclear [DecidableEq α] (d : α) (m : SMap α) (lo n : Nat) (hm : mapWf d m = true) : mapWf d (mclear m lo n) = true :=
  mapWf_msplice d m [] lo n hm rfl (by simp)

/-! ### Byte memories -/

theorem cellsOf_range (a : Nat) (bs : List Byte) : ∀ e ∈ cellsOf a bs, a ≤ e.1 ∧ e.1 < a + bs.length := by
  induction bs generalizing a with
  | nil => simp [cellsOf]
  | cons b t ih =>
    intro e he
    unfold cellsOf at he
    have hl : (b :: t).length = t.length + 1 := rfl
    split at he
    · have := ih (a + 1) e he; omega
    · simp only [List.mem_cons] at he
      rcases he with rfl | he
      · simp
      · have := ih (a + 1) e he; omega

theorem mapWf_cellsOf (a : Nat) (bs : List Byte) : memoryWf (cellsOf a bs) = true := by
  unfold memoryWf
  rw [mapWf_iff]
  induction bs generalizing a with
  | nil => simp [cellsOf]
  | cons b t ih =>
    unfold cellsOf
    split
    · exact ih (a + 1)
    · rename_i hb
      obtain ⟨hp, hv⟩ := ih (a + 1)
      refine ⟨List.pairwise_cons.2 ⟨fun e he => ?_, hp⟩, ?_⟩
      · have := cellsOf_range (a + 1) t e he; omega
      · simp only [List.mem_cons, forall_eq_or_imp]
        exact ⟨hb, hv⟩

theorem readByte_cellsOf (a : Nat) (bs : List Byte) (j : Nat) (h : j < bs.length) : mget 0 (cellsOf a bs) (a + j) = bs.getD j 0 := by
  induction bs generalizing a j with
  | nil => simp at h
  | cons b t ih =>
    cases j with
    | zero =>
      unfold cellsOf
      split
      · rename_i hb
        subst hb
        rw [mget_absent]
        · simp
        · simp only [List.any_eq_false, beq_iff_eq]
          rintro e he h
          have := cellsOf_range (a + 1) t e he
          omega
      · simp [mget]
    | succ j =>
      have hj : j < t.length := by simpa using h
      have := ih (a + 1) j hj
      have ha : a + 1 + j = a + (j + 1) := by omega
      rw [ha] at this
      unfold cellsOf
      split
      · simpa using this
      · simp only [mget]
        rw [if_neg (by omega)]
        simpa using this

/-- What a write leaves: its bytes where it wrote, every other byte as it was. -/
theorem readByte_writeBytes (m : List Host.Cell) (a : Nat) (bs : List Byte) (x : Nat) :
    readByte (writeBytes m a bs) x = if a ≤ x ∧ x < a + bs.length then bs.getD (x - a) 0 else readByte m x := by
  unfold readByte writeBytes
  split
  · rename_i h
    rw [mget_msplice_self 0 m _ a _ x h.1 h.2]
    obtain ⟨j, rfl⟩ := Nat.exists_eq_add_of_le h.1
    rw [readByte_cellsOf a bs j (by omega)]
    simp
  · rename_i h
    exact mget_msplice_ne 0 m _ a _ x (cellsOf_range a bs) (by omega)

/-- A write keeps the canonical form. -/
theorem memoryWf_writeBytes (m : List Host.Cell) (a : Nat) (bs : List Byte) (h : memoryWf m = true) : memoryWf (writeBytes m a bs) = true :=
  mapWf_msplice 0 m _ a _ h (mapWf_cellsOf a bs) (cellsOf_range a bs)

end Sys2Proof.Machine
end

