-- ==== Sys2Proof/Laws/State.lean ====
section
/-! SUPPORT. Laws/State.lean: what each update of State and of a cell leaves as it was, and what the accessor of a unit reads after
an update of it. -/

namespace Sys2Proof.Machine

open Sys2Proof

/-! ### setCell -/

@[simp] theorem setCell_pending (s : State) (c : Nat) (x : Cell) : (setCell s c x).pending = s.pending := rfl
@[simp] theorem setCell_freeCount (s : State) (c : Nat) (x : Cell) : (setCell s c x).freeCount = s.freeCount := rfl
@[simp] theorem setCell_now (s : State) (c : Nat) (x : Cell) : (setCell s c x).now = s.now := rfl
@[simp] theorem setCell_resp (s : State) (c : Nat) (x : Cell) : (setCell s c x).resp = s.resp := rfl
@[simp] theorem setCell_ready (s : State) (c : Nat) (x : Cell) : (setCell s c x).ready = s.ready := rfl
@[simp] theorem setCell_faultFlag (s : State) (c : Nat) (x : Cell) : (setCell s c x).faultFlag = s.faultFlag := rfl
@[simp] theorem setCell_frames (s : State) (c : Nat) (x : Cell) : (setCell s c x).frames = s.frames := rfl
@[simp] theorem setCell_residency (s : State) (c : Nat) (x : Cell) : (setCell s c x).residency = s.residency := rfl
@[simp] theorem setCell_ctxs (s : State) (c : Nat) (x : Cell) : (setCell s c x).ctxs = s.ctxs := rfl
@[simp] theorem setCell_clusters (s : State) (c : Nat) (x : Cell) : (setCell s c x).clusters = s.clusters := rfl
@[simp] theorem setCell_mem (s : State) (c : Nat) (x : Cell) : (setCell s c x).mem = s.mem := rfl
@[simp] theorem setCell_codec (s : State) (c : Nat) (x : Cell) : (setCell s c x).codec = s.codec := rfl
@[simp] theorem setCell_host (s : State) (c : Nat) (x : Cell) : (setCell s c x).host = s.host := rfl
@[simp] theorem setCell_parts (s : State) (c : Nat) (x : Cell) : (setCell s c x).parts = s.parts := rfl
@[simp] theorem setCell_rot (s : State) (c : Nat) (x : Cell) : (setCell s c x).rot = s.rot := rfl
@[simp] theorem setCell_flash (s : State) (c : Nat) (x : Cell) : (setCell s c x).flash = s.flash := rfl
@[simp] theorem setCell_ports (s : State) (c : Nat) (x : Cell) : (setCell s c x).ports = s.ports := rfl
@[simp] theorem setCell_colls (s : State) (c : Nat) (x : Cell) : (setCell s c x).colls = s.colls := rfl
@[simp] theorem setCell_grp (s : State) (c : Nat) (x : Cell) : (setCell s c x).grp = s.grp := rfl
@[simp] theorem setCell_power (s : State) (c : Nat) (x : Cell) : (setCell s c x).power = s.power := rfl
@[simp] theorem setCell_health (s : State) (c : Nat) (x : Cell) : (setCell s c x).health = s.health := rfl
@[simp] theorem setCell_obs (s : State) (c : Nat) (x : Cell) : (setCell s c x).obs = s.obs := rfl
@[simp] theorem setCell_mgmt (s : State) (c : Nat) (x : Cell) : (setCell s c x).mgmt = s.mgmt := rfl

theorem cellOf_setCell (s : State) (c : Nat) (x : Cell) (j : Nat) : cellOf (setCell s c x) j = if j = c then x else cellOf s j := mget_mset _ _ _ _ _
@[simp] theorem cellOf_setCell_self (s : State) (c : Nat) (x : Cell) : cellOf (setCell s c x) c = x := mget_mset_self _ _ _ _

/-! ### modCell -/

@[simp] theorem modCell_pending (s : State) (c : Nat) (f : Cell → Cell) : (modCell s c f).pending = s.pending := rfl
@[simp] theorem modCell_freeCount (s : State) (c : Nat) (f : Cell → Cell) : (modCell s c f).freeCount = s.freeCount := rfl
@[simp] theorem modCell_now (s : State) (c : Nat) (f : Cell → Cell) : (modCell s c f).now = s.now := rfl
@[simp] theorem modCell_resp (s : State) (c : Nat) (f : Cell → Cell) : (modCell s c f).resp = s.resp := rfl
@[simp] theorem modCell_ready (s : State) (c : Nat) (f : Cell → Cell) : (modCell s c f).ready = s.ready := rfl
@[simp] theorem modCell_faultFlag (s : State) (c : Nat) (f : Cell → Cell) : (modCell s c f).faultFlag = s.faultFlag := rfl
@[simp] theorem modCell_frames (s : State) (c : Nat) (f : Cell → Cell) : (modCell s c f).frames = s.frames := rfl
@[simp] theorem modCell_residency (s : State) (c : Nat) (f : Cell → Cell) : (modCell s c f).residency = s.residency := rfl
@[simp] theorem modCell_ctxs (s : State) (c : Nat) (f : Cell → Cell) : (modCell s c f).ctxs = s.ctxs := rfl
@[simp] theorem modCell_clusters (s : State) (c : Nat) (f : Cell → Cell) : (modCell s c f).clusters = s.clusters := rfl
@[simp] theorem modCell_mem (s : State) (c : Nat) (f : Cell → Cell) : (modCell s c f).mem = s.mem := rfl
@[simp] theorem modCell_codec (s : State) (c : Nat) (f : Cell → Cell) : (modCell s c f).codec = s.codec := rfl
@[simp] theorem modCell_host (s : State) (c : Nat) (f : Cell → Cell) : (modCell s c f).host = s.host := rfl
@[simp] theorem modCell_parts (s : State) (c : Nat) (f : Cell → Cell) : (modCell s c f).parts = s.parts := rfl
@[simp] theorem modCell_rot (s : State) (c : Nat) (f : Cell → Cell) : (modCell s c f).rot = s.rot := rfl
@[simp] theorem modCell_flash (s : State) (c : Nat) (f : Cell → Cell) : (modCell s c f).flash = s.flash := rfl
@[simp] theorem modCell_ports (s : State) (c : Nat) (f : Cell → Cell) : (modCell s c f).ports = s.ports := rfl
@[simp] theorem modCell_colls (s : State) (c : Nat) (f : Cell → Cell) : (modCell s c f).colls = s.colls := rfl
@[simp] theorem modCell_grp (s : State) (c : Nat) (f : Cell → Cell) : (modCell s c f).grp = s.grp := rfl
@[simp] theorem modCell_power (s : State) (c : Nat) (f : Cell → Cell) : (modCell s c f).power = s.power := rfl
@[simp] theorem modCell_health (s : State) (c : Nat) (f : Cell → Cell) : (modCell s c f).health = s.health := rfl
@[simp] theorem modCell_obs (s : State) (c : Nat) (f : Cell → Cell) : (modCell s c f).obs = s.obs := rfl
@[simp] theorem modCell_mgmt (s : State) (c : Nat) (f : Cell → Cell) : (modCell s c f).mgmt = s.mgmt := rfl

theorem cellOf_modCell (s : State) (c : Nat) (f : Cell → Cell) (j : Nat) : cellOf (modCell s c f) j = if j = c then f (cellOf s c) else cellOf s j := mget_mset _ _ _ _ _
@[simp] theorem cellOf_modCell_self (s : State) (c : Nat) (f : Cell → Cell) : cellOf (modCell s c f) c = f (cellOf s c) := mget_mset_self _ _ _ _

/-! ### setCluster -/

@[simp] theorem setCluster_pending (s : State) (n : Nat) (x : Cluster) : (setCluster s n x).pending = s.pending := rfl
@[simp] theorem setCluster_freeCount (s : State) (n : Nat) (x : Cluster) : (setCluster s n x).freeCount = s.freeCount := rfl
@[simp] theorem setCluster_now (s : State) (n : Nat) (x : Cluster) : (setCluster s n x).now = s.now := rfl
@[simp] theorem setCluster_resp (s : State) (n : Nat) (x : Cluster) : (setCluster s n x).resp = s.resp := rfl
@[simp] theorem setCluster_ready (s : State) (n : Nat) (x : Cluster) : (setCluster s n x).ready = s.ready := rfl
@[simp] theorem setCluster_faultFlag (s : State) (n : Nat) (x : Cluster) : (setCluster s n x).faultFlag = s.faultFlag := rfl
@[simp] theorem setCluster_frames (s : State) (n : Nat) (x : Cluster) : (setCluster s n x).frames = s.frames := rfl
@[simp] theorem setCluster_residency (s : State) (n : Nat) (x : Cluster) : (setCluster s n x).residency = s.residency := rfl
@[simp] theorem setCluster_ctxs (s : State) (n : Nat) (x : Cluster) : (setCluster s n x).ctxs = s.ctxs := rfl
@[simp] theorem setCluster_cells (s : State) (n : Nat) (x : Cluster) : (setCluster s n x).cells = s.cells := rfl
@[simp] theorem setCluster_mem (s : State) (n : Nat) (x : Cluster) : (setCluster s n x).mem = s.mem := rfl
@[simp] theorem setCluster_codec (s : State) (n : Nat) (x : Cluster) : (setCluster s n x).codec = s.codec := rfl
@[simp] theorem setCluster_host (s : State) (n : Nat) (x : Cluster) : (setCluster s n x).host = s.host := rfl
@[simp] theorem setCluster_parts (s : State) (n : Nat) (x : Cluster) : (setCluster s n x).parts = s.parts := rfl
@[simp] theorem setCluster_rot (s : State) (n : Nat) (x : Cluster) : (setCluster s n x).rot = s.rot := rfl
@[simp] theorem setCluster_flash (s : State) (n : Nat) (x : Cluster) : (setCluster s n x).flash = s.flash := rfl
@[simp] theorem setCluster_ports (s : State) (n : Nat) (x : Cluster) : (setCluster s n x).ports = s.ports := rfl
@[simp] theorem setCluster_colls (s : State) (n : Nat) (x : Cluster) : (setCluster s n x).colls = s.colls := rfl
@[simp] theorem setCluster_grp (s : State) (n : Nat) (x : Cluster) : (setCluster s n x).grp = s.grp := rfl
@[simp] theorem setCluster_power (s : State) (n : Nat) (x : Cluster) : (setCluster s n x).power = s.power := rfl
@[simp] theorem setCluster_health (s : State) (n : Nat) (x : Cluster) : (setCluster s n x).health = s.health := rfl
@[simp] theorem setCluster_obs (s : State) (n : Nat) (x : Cluster) : (setCluster s n x).obs = s.obs := rfl
@[simp] theorem setCluster_mgmt (s : State) (n : Nat) (x : Cluster) : (setCluster s n x).mgmt = s.mgmt := rfl

theorem clusterOf_setCluster (s : State) (n : Nat) (x : Cluster) (j : Nat) : clusterOf (setCluster s n x) j = if j = n then x else clusterOf s j := mget_mset _ _ _ _ _
@[simp] theorem clusterOf_setCluster_self (s : State) (n : Nat) (x : Cluster) : clusterOf (setCluster s n x) n = x := mget_mset_self _ _ _ _

/-! ### modCluster -/

@[simp] theorem modCluster_pending (s : State) (n : Nat) (f : Cluster → Cluster) : (modCluster s n f).pending = s.pending := rfl
@[simp] theorem modCluster_freeCount (s : State) (n : Nat) (f : Cluster → Cluster) : (modCluster s n f).freeCount = s.freeCount := rfl
@[simp] theorem modCluster_now (s : State) (n : Nat) (f : Cluster → Cluster) : (modCluster s n f).now = s.now := rfl
@[simp] theorem modCluster_resp (s : State) (n : Nat) (f : Cluster → Cluster) : (modCluster s n f).resp = s.resp := rfl
@[simp] theorem modCluster_ready (s : State) (n : Nat) (f : Cluster → Cluster) : (modCluster s n f).ready = s.ready := rfl
@[simp] theorem modCluster_faultFlag (s : State) (n : Nat) (f : Cluster → Cluster) : (modCluster s n f).faultFlag = s.faultFlag := rfl
@[simp] theorem modCluster_frames (s : State) (n : Nat) (f : Cluster → Cluster) : (modCluster s n f).frames = s.frames := rfl
@[simp] theorem modCluster_residency (s : State) (n : Nat) (f : Cluster → Cluster) : (modCluster s n f).residency = s.residency := rfl
@[simp] theorem modCluster_ctxs (s : State) (n : Nat) (f : Cluster → Cluster) : (modCluster s n f).ctxs = s.ctxs := rfl
@[simp] theorem modCluster_cells (s : State) (n : Nat) (f : Cluster → Cluster) : (modCluster s n f).cells = s.cells := rfl
@[simp] theorem modCluster_mem (s : State) (n : Nat) (f : Cluster → Cluster) : (modCluster s n f).mem = s.mem := rfl
@[simp] theorem modCluster_codec (s : State) (n : Nat) (f : Cluster → Cluster) : (modCluster s n f).codec = s.codec := rfl
@[simp] theorem modCluster_host (s : State) (n : Nat) (f : Cluster → Cluster) : (modCluster s n f).host = s.host := rfl
@[simp] theorem modCluster_parts (s : State) (n : Nat) (f : Cluster → Cluster) : (modCluster s n f).parts = s.parts := rfl
@[simp] theorem modCluster_rot (s : State) (n : Nat) (f : Cluster → Cluster) : (modCluster s n f).rot = s.rot := rfl
@[simp] theorem modCluster_flash (s : State) (n : Nat) (f : Cluster → Cluster) : (modCluster s n f).flash = s.flash := rfl
@[simp] theorem modCluster_ports (s : State) (n : Nat) (f : Cluster → Cluster) : (modCluster s n f).ports = s.ports := rfl
@[simp] theorem modCluster_colls (s : State) (n : Nat) (f : Cluster → Cluster) : (modCluster s n f).colls = s.colls := rfl
@[simp] theorem modCluster_grp (s : State) (n : Nat) (f : Cluster → Cluster) : (modCluster s n f).grp = s.grp := rfl
@[simp] theorem modCluster_power (s : State) (n : Nat) (f : Cluster → Cluster) : (modCluster s n f).power = s.power := rfl
@[simp] theorem modCluster_health (s : State) (n : Nat) (f : Cluster → Cluster) : (modCluster s n f).health = s.health := rfl
@[simp] theorem modCluster_obs (s : State) (n : Nat) (f : Cluster → Cluster) : (modCluster s n f).obs = s.obs := rfl
@[simp] theorem modCluster_mgmt (s : State) (n : Nat) (f : Cluster → Cluster) : (modCluster s n f).mgmt = s.mgmt := rfl

theorem clusterOf_modCluster (s : State) (n : Nat) (f : Cluster → Cluster) (j : Nat) : clusterOf (modCluster s n f) j = if j = n then f (clusterOf s n) else clusterOf s j := mget_mset _ _ _ _ _
@[simp] theorem clusterOf_modCluster_self (s : State) (n : Nat) (f : Cluster → Cluster) : clusterOf (modCluster s n f) n = f (clusterOf s n) := mget_mset_self _ _ _ _

/-! ### setCtx -/

@[simp] theorem setCtx_pending (s : State) (c : Nat) (x : Ctx) : (setCtx s c x).pending = s.pending := rfl
@[simp] theorem setCtx_freeCount (s : State) (c : Nat) (x : Ctx) : (setCtx s c x).freeCount = s.freeCount := rfl
@[simp] theorem setCtx_now (s : State) (c : Nat) (x : Ctx) : (setCtx s c x).now = s.now := rfl
@[simp] theorem setCtx_resp (s : State) (c : Nat) (x : Ctx) : (setCtx s c x).resp = s.resp := rfl
@[simp] theorem setCtx_ready (s : State) (c : Nat) (x : Ctx) : (setCtx s c x).ready = s.ready := rfl
@[simp] theorem setCtx_faultFlag (s : State) (c : Nat) (x : Ctx) : (setCtx s c x).faultFlag = s.faultFlag := rfl
@[simp] theorem setCtx_frames (s : State) (c : Nat) (x : Ctx) : (setCtx s c x).frames = s.frames := rfl
@[simp] theorem setCtx_residency (s : State) (c : Nat) (x : Ctx) : (setCtx s c x).residency = s.residency := rfl
@[simp] theorem setCtx_cells (s : State) (c : Nat) (x : Ctx) : (setCtx s c x).cells = s.cells := rfl
@[simp] theorem setCtx_clusters (s : State) (c : Nat) (x : Ctx) : (setCtx s c x).clusters = s.clusters := rfl
@[simp] theorem setCtx_mem (s : State) (c : Nat) (x : Ctx) : (setCtx s c x).mem = s.mem := rfl
@[simp] theorem setCtx_codec (s : State) (c : Nat) (x : Ctx) : (setCtx s c x).codec = s.codec := rfl
@[simp] theorem setCtx_host (s : State) (c : Nat) (x : Ctx) : (setCtx s c x).host = s.host := rfl
@[simp] theorem setCtx_parts (s : State) (c : Nat) (x : Ctx) : (setCtx s c x).parts = s.parts := rfl
@[simp] theorem setCtx_rot (s : State) (c : Nat) (x : Ctx) : (setCtx s c x).rot = s.rot := rfl
@[simp] theorem setCtx_flash (s : State) (c : Nat) (x : Ctx) : (setCtx s c x).flash = s.flash := rfl
@[simp] theorem setCtx_ports (s : State) (c : Nat) (x : Ctx) : (setCtx s c x).ports = s.ports := rfl
@[simp] theorem setCtx_colls (s : State) (c : Nat) (x : Ctx) : (setCtx s c x).colls = s.colls := rfl
@[simp] theorem setCtx_grp (s : State) (c : Nat) (x : Ctx) : (setCtx s c x).grp = s.grp := rfl
@[simp] theorem setCtx_power (s : State) (c : Nat) (x : Ctx) : (setCtx s c x).power = s.power := rfl
@[simp] theorem setCtx_health (s : State) (c : Nat) (x : Ctx) : (setCtx s c x).health = s.health := rfl
@[simp] theorem setCtx_obs (s : State) (c : Nat) (x : Ctx) : (setCtx s c x).obs = s.obs := rfl
@[simp] theorem setCtx_mgmt (s : State) (c : Nat) (x : Ctx) : (setCtx s c x).mgmt = s.mgmt := rfl

theorem ctxOf_setCtx (s : State) (c : Nat) (x : Ctx) (j : Nat) : ctxOf (setCtx s c x) j = if j = c then some x else ctxOf s j := mget_mset _ _ _ _ _
@[simp] theorem ctxOf_setCtx_self (s : State) (c : Nat) (x : Ctx) : ctxOf (setCtx s c x) c = some x := mget_mset_self _ _ _ _

/-! ### setPart -/

@[simp] theorem setPart_pending (s : State) (p : Nat) (x : Part) : (setPart s p x).pending = s.pending := rfl
@[simp] theorem setPart_freeCount (s : State) (p : Nat) (x : Part) : (setPart s p x).freeCount = s.freeCount := rfl
@[simp] theorem setPart_now (s : State) (p : Nat) (x : Part) : (setPart s p x).now = s.now := rfl
@[simp] theorem setPart_resp (s : State) (p : Nat) (x : Part) : (setPart s p x).resp = s.resp := rfl
@[simp] theorem setPart_ready (s : State) (p : Nat) (x : Part) : (setPart s p x).ready = s.ready := rfl
@[simp] theorem setPart_faultFlag (s : State) (p : Nat) (x : Part) : (setPart s p x).faultFlag = s.faultFlag := rfl
@[simp] theorem setPart_frames (s : State) (p : Nat) (x : Part) : (setPart s p x).frames = s.frames := rfl
@[simp] theorem setPart_residency (s : State) (p : Nat) (x : Part) : (setPart s p x).residency = s.residency := rfl
@[simp] theorem setPart_ctxs (s : State) (p : Nat) (x : Part) : (setPart s p x).ctxs = s.ctxs := rfl
@[simp] theorem setPart_cells (s : State) (p : Nat) (x : Part) : (setPart s p x).cells = s.cells := rfl
@[simp] theorem setPart_clusters (s : State) (p : Nat) (x : Part) : (setPart s p x).clusters = s.clusters := rfl
@[simp] theorem setPart_mem (s : State) (p : Nat) (x : Part) : (setPart s p x).mem = s.mem := rfl
@[simp] theorem setPart_codec (s : State) (p : Nat) (x : Part) : (setPart s p x).codec = s.codec := rfl
@[simp] theorem setPart_host (s : State) (p : Nat) (x : Part) : (setPart s p x).host = s.host := rfl
@[simp] theorem setPart_rot (s : State) (p : Nat) (x : Part) : (setPart s p x).rot = s.rot := rfl
@[simp] theorem setPart_flash (s : State) (p : Nat) (x : Part) : (setPart s p x).flash = s.flash := rfl
@[simp] theorem setPart_ports (s : State) (p : Nat) (x : Part) : (setPart s p x).ports = s.ports := rfl
@[simp] theorem setPart_colls (s : State) (p : Nat) (x : Part) : (setPart s p x).colls = s.colls := rfl
@[simp] theorem setPart_grp (s : State) (p : Nat) (x : Part) : (setPart s p x).grp = s.grp := rfl
@[simp] theorem setPart_power (s : State) (p : Nat) (x : Part) : (setPart s p x).power = s.power := rfl
@[simp] theorem setPart_health (s : State) (p : Nat) (x : Part) : (setPart s p x).health = s.health := rfl
@[simp] theorem setPart_obs (s : State) (p : Nat) (x : Part) : (setPart s p x).obs = s.obs := rfl
@[simp] theorem setPart_mgmt (s : State) (p : Nat) (x : Part) : (setPart s p x).mgmt = s.mgmt := rfl

theorem partOf_setPart (s : State) (p : Nat) (x : Part) (j : Nat) : partOf (setPart s p x) j = if j = p then x else partOf s j := mget_mset _ _ _ _ _
@[simp] theorem partOf_setPart_self (s : State) (p : Nat) (x : Part) : partOf (setPart s p x) p = x := mget_mset_self _ _ _ _

/-! ### setPort -/

@[simp] theorem setPort_pending (s : State) (p : Nat) (x : Port) : (setPort s p x).pending = s.pending := rfl
@[simp] theorem setPort_freeCount (s : State) (p : Nat) (x : Port) : (setPort s p x).freeCount = s.freeCount := rfl
@[simp] theorem setPort_now (s : State) (p : Nat) (x : Port) : (setPort s p x).now = s.now := rfl
@[simp] theorem setPort_resp (s : State) (p : Nat) (x : Port) : (setPort s p x).resp = s.resp := rfl
@[simp] theorem setPort_ready (s : State) (p : Nat) (x : Port) : (setPort s p x).ready = s.ready := rfl
@[simp] theorem setPort_faultFlag (s : State) (p : Nat) (x : Port) : (setPort s p x).faultFlag = s.faultFlag := rfl
@[simp] theorem setPort_frames (s : State) (p : Nat) (x : Port) : (setPort s p x).frames = s.frames := rfl
@[simp] theorem setPort_residency (s : State) (p : Nat) (x : Port) : (setPort s p x).residency = s.residency := rfl
@[simp] theorem setPort_ctxs (s : State) (p : Nat) (x : Port) : (setPort s p x).ctxs = s.ctxs := rfl
@[simp] theorem setPort_cells (s : State) (p : Nat) (x : Port) : (setPort s p x).cells = s.cells := rfl
@[simp] theorem setPort_clusters (s : State) (p : Nat) (x : Port) : (setPort s p x).clusters = s.clusters := rfl
@[simp] theorem setPort_mem (s : State) (p : Nat) (x : Port) : (setPort s p x).mem = s.mem := rfl
@[simp] theorem setPort_codec (s : State) (p : Nat) (x : Port) : (setPort s p x).codec = s.codec := rfl
@[simp] theorem setPort_host (s : State) (p : Nat) (x : Port) : (setPort s p x).host = s.host := rfl
@[simp] theorem setPort_parts (s : State) (p : Nat) (x : Port) : (setPort s p x).parts = s.parts := rfl
@[simp] theorem setPort_rot (s : State) (p : Nat) (x : Port) : (setPort s p x).rot = s.rot := rfl
@[simp] theorem setPort_flash (s : State) (p : Nat) (x : Port) : (setPort s p x).flash = s.flash := rfl
@[simp] theorem setPort_colls (s : State) (p : Nat) (x : Port) : (setPort s p x).colls = s.colls := rfl
@[simp] theorem setPort_grp (s : State) (p : Nat) (x : Port) : (setPort s p x).grp = s.grp := rfl
@[simp] theorem setPort_power (s : State) (p : Nat) (x : Port) : (setPort s p x).power = s.power := rfl
@[simp] theorem setPort_health (s : State) (p : Nat) (x : Port) : (setPort s p x).health = s.health := rfl
@[simp] theorem setPort_obs (s : State) (p : Nat) (x : Port) : (setPort s p x).obs = s.obs := rfl
@[simp] theorem setPort_mgmt (s : State) (p : Nat) (x : Port) : (setPort s p x).mgmt = s.mgmt := rfl

theorem portOf_setPort (s : State) (p : Nat) (x : Port) (j : Nat) : portOf (setPort s p x) j = if j = p then x else portOf s j := mget_mset _ _ _ _ _
@[simp] theorem portOf_setPort_self (s : State) (p : Nat) (x : Port) : portOf (setPort s p x) p = x := mget_mset_self _ _ _ _

/-! ### setColl -/

@[simp] theorem setColl_pending (s : State) (e : Nat) (x : Coll) : (setColl s e x).pending = s.pending := rfl
@[simp] theorem setColl_freeCount (s : State) (e : Nat) (x : Coll) : (setColl s e x).freeCount = s.freeCount := rfl
@[simp] theorem setColl_now (s : State) (e : Nat) (x : Coll) : (setColl s e x).now = s.now := rfl
@[simp] theorem setColl_resp (s : State) (e : Nat) (x : Coll) : (setColl s e x).resp = s.resp := rfl
@[simp] theorem setColl_ready (s : State) (e : Nat) (x : Coll) : (setColl s e x).ready = s.ready := rfl
@[simp] theorem setColl_faultFlag (s : State) (e : Nat) (x : Coll) : (setColl s e x).faultFlag = s.faultFlag := rfl
@[simp] theorem setColl_frames (s : State) (e : Nat) (x : Coll) : (setColl s e x).frames = s.frames := rfl
@[simp] theorem setColl_residency (s : State) (e : Nat) (x : Coll) : (setColl s e x).residency = s.residency := rfl
@[simp] theorem setColl_ctxs (s : State) (e : Nat) (x : Coll) : (setColl s e x).ctxs = s.ctxs := rfl
@[simp] theorem setColl_cells (s : State) (e : Nat) (x : Coll) : (setColl s e x).cells = s.cells := rfl
@[simp] theorem setColl_clusters (s : State) (e : Nat) (x : Coll) : (setColl s e x).clusters = s.clusters := rfl
@[simp] theorem setColl_mem (s : State) (e : Nat) (x : Coll) : (setColl s e x).mem = s.mem := rfl
@[simp] theorem setColl_codec (s : State) (e : Nat) (x : Coll) : (setColl s e x).codec = s.codec := rfl
@[simp] theorem setColl_host (s : State) (e : Nat) (x : Coll) : (setColl s e x).host = s.host := rfl
@[simp] theorem setColl_parts (s : State) (e : Nat) (x : Coll) : (setColl s e x).parts = s.parts := rfl
@[simp] theorem setColl_rot (s : State) (e : Nat) (x : Coll) : (setColl s e x).rot = s.rot := rfl
@[simp] theorem setColl_flash (s : State) (e : Nat) (x : Coll) : (setColl s e x).flash = s.flash := rfl
@[simp] theorem setColl_ports (s : State) (e : Nat) (x : Coll) : (setColl s e x).ports = s.ports := rfl
@[simp] theorem setColl_grp (s : State) (e : Nat) (x : Coll) : (setColl s e x).grp = s.grp := rfl
@[simp] theorem setColl_power (s : State) (e : Nat) (x : Coll) : (setColl s e x).power = s.power := rfl
@[simp] theorem setColl_health (s : State) (e : Nat) (x : Coll) : (setColl s e x).health = s.health := rfl
@[simp] theorem setColl_obs (s : State) (e : Nat) (x : Coll) : (setColl s e x).obs = s.obs := rfl
@[simp] theorem setColl_mgmt (s : State) (e : Nat) (x : Coll) : (setColl s e x).mgmt = s.mgmt := rfl

theorem collOf_setColl (s : State) (e : Nat) (x : Coll) (j : Nat) : collOf (setColl s e x) j = if j = e then x else collOf s j := mget_mset _ _ _ _ _
@[simp] theorem collOf_setColl_self (s : State) (e : Nat) (x : Coll) : collOf (setColl s e x) e = x := mget_mset_self _ _ _ _

/-! ### setStack -/

@[simp] theorem setStack_pending (s : State) (k : Nat) (x : Stack) : (setStack s k x).pending = s.pending := rfl
@[simp] theorem setStack_freeCount (s : State) (k : Nat) (x : Stack) : (setStack s k x).freeCount = s.freeCount := rfl
@[simp] theorem setStack_now (s : State) (k : Nat) (x : Stack) : (setStack s k x).now = s.now := rfl
@[simp] theorem setStack_resp (s : State) (k : Nat) (x : Stack) : (setStack s k x).resp = s.resp := rfl
@[simp] theorem setStack_ready (s : State) (k : Nat) (x : Stack) : (setStack s k x).ready = s.ready := rfl
@[simp] theorem setStack_faultFlag (s : State) (k : Nat) (x : Stack) : (setStack s k x).faultFlag = s.faultFlag := rfl
@[simp] theorem setStack_frames (s : State) (k : Nat) (x : Stack) : (setStack s k x).frames = s.frames := rfl
@[simp] theorem setStack_residency (s : State) (k : Nat) (x : Stack) : (setStack s k x).residency = s.residency := rfl
@[simp] theorem setStack_ctxs (s : State) (k : Nat) (x : Stack) : (setStack s k x).ctxs = s.ctxs := rfl
@[simp] theorem setStack_cells (s : State) (k : Nat) (x : Stack) : (setStack s k x).cells = s.cells := rfl
@[simp] theorem setStack_clusters (s : State) (k : Nat) (x : Stack) : (setStack s k x).clusters = s.clusters := rfl
@[simp] theorem setStack_codec (s : State) (k : Nat) (x : Stack) : (setStack s k x).codec = s.codec := rfl
@[simp] theorem setStack_host (s : State) (k : Nat) (x : Stack) : (setStack s k x).host = s.host := rfl
@[simp] theorem setStack_parts (s : State) (k : Nat) (x : Stack) : (setStack s k x).parts = s.parts := rfl
@[simp] theorem setStack_rot (s : State) (k : Nat) (x : Stack) : (setStack s k x).rot = s.rot := rfl
@[simp] theorem setStack_flash (s : State) (k : Nat) (x : Stack) : (setStack s k x).flash = s.flash := rfl
@[simp] theorem setStack_ports (s : State) (k : Nat) (x : Stack) : (setStack s k x).ports = s.ports := rfl
@[simp] theorem setStack_colls (s : State) (k : Nat) (x : Stack) : (setStack s k x).colls = s.colls := rfl
@[simp] theorem setStack_grp (s : State) (k : Nat) (x : Stack) : (setStack s k x).grp = s.grp := rfl
@[simp] theorem setStack_power (s : State) (k : Nat) (x : Stack) : (setStack s k x).power = s.power := rfl
@[simp] theorem setStack_health (s : State) (k : Nat) (x : Stack) : (setStack s k x).health = s.health := rfl
@[simp] theorem setStack_obs (s : State) (k : Nat) (x : Stack) : (setStack s k x).obs = s.obs := rfl
@[simp] theorem setStack_mgmt (s : State) (k : Nat) (x : Stack) : (setStack s k x).mgmt = s.mgmt := rfl
@[simp] theorem setStack_mem_bytes (s : State) (k : Nat) (x : Stack) : (setStack s k x).mem.bytes = s.mem.bytes := rfl
@[simp] theorem setStack_mem_lines (s : State) (k : Nat) (x : Stack) : (setStack s k x).mem.lines = s.mem.lines := rfl
@[simp] theorem setStack_mem_sets (s : State) (k : Nat) (x : Stack) : (setStack s k x).mem.sets = s.mem.sets := rfl
@[simp] theorem setStack_mem_ranges (s : State) (k : Nat) (x : Stack) : (setStack s k x).mem.ranges = s.mem.ranges := rfl
@[simp] theorem setStack_mem_calMiss (s : State) (k : Nat) (x : Stack) : (setStack s k x).mem.calMiss = s.mem.calMiss := rfl
@[simp] theorem setStack_mem_calWb (s : State) (k : Nat) (x : Stack) : (setStack s k x).mem.calWb = s.mem.calWb := rfl
@[simp] theorem setStack_mem_calCorrected (s : State) (k : Nat) (x : Stack) : (setStack s k x).mem.calCorrected = s.mem.calCorrected := rfl
@[simp] theorem setStack_mem_calUncorrected (s : State) (k : Nat) (x : Stack) : (setStack s k x).mem.calUncorrected = s.mem.calUncorrected := rfl
@[simp] theorem setStack_mem_calZero (s : State) (k : Nat) (x : Stack) : (setStack s k x).mem.calZero = s.mem.calZero := rfl
@[simp] theorem setStack_mem_calPoison (s : State) (k : Nat) (x : Stack) : (setStack s k x).mem.calPoison = s.mem.calPoison := rfl
@[simp] theorem setStack_mem_sliceCounts (s : State) (k : Nat) (x : Stack) : (setStack s k x).mem.sliceCounts = s.mem.sliceCounts := rfl
@[simp] theorem setStack_mem_routerCorrected (s : State) (k : Nat) (x : Stack) : (setStack s k x).mem.routerCorrected = s.mem.routerCorrected := rfl
@[simp] theorem setStack_mem_viaductHalf (s : State) (k : Nat) (x : Stack) : (setStack s k x).mem.viaductHalf = s.mem.viaductHalf := rfl
@[simp] theorem setStack_mem_viaductChangedAt (s : State) (k : Nat) (x : Stack) : (setStack s k x).mem.viaductChangedAt = s.mem.viaductChangedAt := rfl
@[simp] theorem setStack_mem_viaductLanes (s : State) (k : Nat) (x : Stack) : (setStack s k x).mem.viaductLanes = s.mem.viaductLanes := rfl
@[simp] theorem setStack_mem_linkCounts (s : State) (k : Nat) (x : Stack) : (setStack s k x).mem.linkCounts = s.mem.linkCounts := rfl
@[simp] theorem setStack_mem_memPoint (s : State) (k : Nat) (x : Stack) : (setStack s k x).mem.memPoint = s.mem.memPoint := rfl

theorem stackOf_setStack (s : State) (k : Nat) (x : Stack) (j : Nat) : stackOf (setStack s k x) j = if j = k then x else stackOf s j := mget_mset _ _ _ _ _
@[simp] theorem stackOf_setStack_self (s : State) (k : Nat) (x : Stack) : stackOf (setStack s k x) k = x := mget_mset_self _ _ _ _

/-! ### setMeta -/

@[simp] theorem setMeta_pending (s : State) (line : Nat) (m : LineMeta) : (setMeta s line m).pending = s.pending := rfl
@[simp] theorem setMeta_freeCount (s : State) (line : Nat) (m : LineMeta) : (setMeta s line m).freeCount = s.freeCount := rfl
@[simp] theorem setMeta_now (s : State) (line : Nat) (m : LineMeta) : (setMeta s line m).now = s.now := rfl
@[simp] theorem setMeta_resp (s : State) (line : Nat) (m : LineMeta) : (setMeta s line m).resp = s.resp := rfl
@[simp] theorem setMeta_ready (s : State) (line : Nat) (m : LineMeta) : (setMeta s line m).ready = s.ready := rfl
@[simp] theorem setMeta_faultFlag (s : State) (line : Nat) (m : LineMeta) : (setMeta s line m).faultFlag = s.faultFlag := rfl
@[simp] theorem setMeta_frames (s : State) (line : Nat) (m : LineMeta) : (setMeta s line m).frames = s.frames := rfl
@[simp] theorem setMeta_residency (s : State) (line : Nat) (m : LineMeta) : (setMeta s line m).residency = s.residency := rfl
@[simp] theorem setMeta_ctxs (s : State) (line : Nat) (m : LineMeta) : (setMeta s line m).ctxs = s.ctxs := rfl
@[simp] theorem setMeta_cells (s : State) (line : Nat) (m : LineMeta) : (setMeta s line m).cells = s.cells := rfl
@[simp] theorem setMeta_clusters (s : State) (line : Nat) (m : LineMeta) : (setMeta s line m).clusters = s.clusters := rfl
@[simp] theorem setMeta_codec (s : State) (line : Nat) (m : LineMeta) : (setMeta s line m).codec = s.codec := rfl
@[simp] theorem setMeta_host (s : State) (line : Nat) (m : LineMeta) : (setMeta s line m).host = s.host := rfl
@[simp] theorem setMeta_parts (s : State) (line : Nat) (m : LineMeta) : (setMeta s line m).parts = s.parts := rfl
@[simp] theorem setMeta_rot (s : State) (line : Nat) (m : LineMeta) : (setMeta s line m).rot = s.rot := rfl
@[simp] theorem setMeta_flash (s : State) (line : Nat) (m : LineMeta) : (setMeta s line m).flash = s.flash := rfl
@[simp] theorem setMeta_ports (s : State) (line : Nat) (m : LineMeta) : (setMeta s line m).ports = s.ports := rfl
@[simp] theorem setMeta_colls (s : State) (line : Nat) (m : LineMeta) : (setMeta s line m).colls = s.colls := rfl
@[simp] theorem setMeta_grp (s : State) (line : Nat) (m : LineMeta) : (setMeta s line m).grp = s.grp := rfl
@[simp] theorem setMeta_power (s : State) (line : Nat) (m : LineMeta) : (setMeta s line m).power = s.power := rfl
@[simp] theorem setMeta_health (s : State) (line : Nat) (m : LineMeta) : (setMeta s line m).health = s.health := rfl
@[simp] theorem setMeta_obs (s : State) (line : Nat) (m : LineMeta) : (setMeta s line m).obs = s.obs := rfl
@[simp] theorem setMeta_mgmt (s : State) (line : Nat) (m : LineMeta) : (setMeta s line m).mgmt = s.mgmt := rfl
@[simp] theorem setMeta_mem_bytes (s : State) (line : Nat) (m : LineMeta) : (setMeta s line m).mem.bytes = s.mem.bytes := rfl
@[simp] theorem setMeta_mem_stackUnits (s : State) (line : Nat) (m : LineMeta) : (setMeta s line m).mem.stackUnits = s.mem.stackUnits := rfl
@[simp] theorem setMeta_mem_sets (s : State) (line : Nat) (m : LineMeta) : (setMeta s line m).mem.sets = s.mem.sets := rfl
@[simp] theorem setMeta_mem_ranges (s : State) (line : Nat) (m : LineMeta) : (setMeta s line m).mem.ranges = s.mem.ranges := rfl
@[simp] theorem setMeta_mem_calMiss (s : State) (line : Nat) (m : LineMeta) : (setMeta s line m).mem.calMiss = s.mem.calMiss := rfl
@[simp] theorem setMeta_mem_calWb (s : State) (line : Nat) (m : LineMeta) : (setMeta s line m).mem.calWb = s.mem.calWb := rfl
@[simp] theorem setMeta_mem_calCorrected (s : State) (line : Nat) (m : LineMeta) : (setMeta s line m).mem.calCorrected = s.mem.calCorrected := rfl
@[simp] theorem setMeta_mem_calUncorrected (s : State) (line : Nat) (m : LineMeta) : (setMeta s line m).mem.calUncorrected = s.mem.calUncorrected := rfl
@[simp] theorem setMeta_mem_calZero (s : State) (line : Nat) (m : LineMeta) : (setMeta s line m).mem.calZero = s.mem.calZero := rfl
@[simp] theorem setMeta_mem_calPoison (s : State) (line : Nat) (m : LineMeta) : (setMeta s line m).mem.calPoison = s.mem.calPoison := rfl
@[simp] theorem setMeta_mem_sliceCounts (s : State) (line : Nat) (m : LineMeta) : (setMeta s line m).mem.sliceCounts = s.mem.sliceCounts := rfl
@[simp] theorem setMeta_mem_routerCorrected (s : State) (line : Nat) (m : LineMeta) : (setMeta s line m).mem.routerCorrected = s.mem.routerCorrected := rfl
@[simp] theorem setMeta_mem_viaductHalf (s : State) (line : Nat) (m : LineMeta) : (setMeta s line m).mem.viaductHalf = s.mem.viaductHalf := rfl
@[simp] theorem setMeta_mem_viaductChangedAt (s : State) (line : Nat) (m : LineMeta) : (setMeta s line m).mem.viaductChangedAt = s.mem.viaductChangedAt := rfl
@[simp] theorem setMeta_mem_viaductLanes (s : State) (line : Nat) (m : LineMeta) : (setMeta s line m).mem.viaductLanes = s.mem.viaductLanes := rfl
@[simp] theorem setMeta_mem_linkCounts (s : State) (line : Nat) (m : LineMeta) : (setMeta s line m).mem.linkCounts = s.mem.linkCounts := rfl
@[simp] theorem setMeta_mem_memPoint (s : State) (line : Nat) (m : LineMeta) : (setMeta s line m).mem.memPoint = s.mem.memPoint := rfl

theorem metaOf_setMeta (s : State) (line : Nat) (m : LineMeta) (j : Nat) : metaOf (setMeta s line m) j = if j = line then m else metaOf s j := mget_mset _ _ _ _ _
@[simp] theorem metaOf_setMeta_self (s : State) (line : Nat) (m : LineMeta) : metaOf (setMeta s line m) line = m := mget_mset_self _ _ _ _

/-! ### setRange -/

@[simp] theorem setRange_pending (s : State) (i : Nat) (r : RangeEntry) : (setRange s i r).pending = s.pending := rfl
@[simp] theorem setRange_freeCount (s : State) (i : Nat) (r : RangeEntry) : (setRange s i r).freeCount = s.freeCount := rfl
@[simp] theorem setRange_now (s : State) (i : Nat) (r : RangeEntry) : (setRange s i r).now = s.now := rfl
@[simp] theorem setRange_resp (s : State) (i : Nat) (r : RangeEntry) : (setRange s i r).resp = s.resp := rfl
@[simp] theorem setRange_ready (s : State) (i : Nat) (r : RangeEntry) : (setRange s i r).ready = s.ready := rfl
@[simp] theorem setRange_faultFlag (s : State) (i : Nat) (r : RangeEntry) : (setRange s i r).faultFlag = s.faultFlag := rfl
@[simp] theorem setRange_frames (s : State) (i : Nat) (r : RangeEntry) : (setRange s i r).frames = s.frames := rfl
@[simp] theorem setRange_residency (s : State) (i : Nat) (r : RangeEntry) : (setRange s i r).residency = s.residency := rfl
@[simp] theorem setRange_ctxs (s : State) (i : Nat) (r : RangeEntry) : (setRange s i r).ctxs = s.ctxs := rfl
@[simp] theorem setRange_cells (s : State) (i : Nat) (r : RangeEntry) : (setRange s i r).cells = s.cells := rfl
@[simp] theorem setRange_clusters (s : State) (i : Nat) (r : RangeEntry) : (setRange s i r).clusters = s.clusters := rfl
@[simp] theorem setRange_codec (s : State) (i : Nat) (r : RangeEntry) : (setRange s i r).codec = s.codec := rfl
@[simp] theorem setRange_host (s : State) (i : Nat) (r : RangeEntry) : (setRange s i r).host = s.host := rfl
@[simp] theorem setRange_parts (s : State) (i : Nat) (r : RangeEntry) : (setRange s i r).parts = s.parts := rfl
@[simp] theorem setRange_rot (s : State) (i : Nat) (r : RangeEntry) : (setRange s i r).rot = s.rot := rfl
@[simp] theorem setRange_flash (s : State) (i : Nat) (r : RangeEntry) : (setRange s i r).flash = s.flash := rfl
@[simp] theorem setRange_ports (s : State) (i : Nat) (r : RangeEntry) : (setRange s i r).ports = s.ports := rfl
@[simp] theorem setRange_colls (s : State) (i : Nat) (r : RangeEntry) : (setRange s i r).colls = s.colls := rfl
@[simp] theorem setRange_grp (s : State) (i : Nat) (r : RangeEntry) : (setRange s i r).grp = s.grp := rfl
@[simp] theorem setRange_power (s : State) (i : Nat) (r : RangeEntry) : (setRange s i r).power = s.power := rfl
@[simp] theorem setRange_health (s : State) (i : Nat) (r : RangeEntry) : (setRange s i r).health = s.health := rfl
@[simp] theorem setRange_obs (s : State) (i : Nat) (r : RangeEntry) : (setRange s i r).obs = s.obs := rfl
@[simp] theorem setRange_mgmt (s : State) (i : Nat) (r : RangeEntry) : (setRange s i r).mgmt = s.mgmt := rfl
@[simp] theorem setRange_mem_bytes (s : State) (i : Nat) (r : RangeEntry) : (setRange s i r).mem.bytes = s.mem.bytes := rfl
@[simp] theorem setRange_mem_lines (s : State) (i : Nat) (r : RangeEntry) : (setRange s i r).mem.lines = s.mem.lines := rfl
@[simp] theorem setRange_mem_stackUnits (s : State) (i : Nat) (r : RangeEntry) : (setRange s i r).mem.stackUnits = s.mem.stackUnits := rfl
@[simp] theorem setRange_mem_sets (s : State) (i : Nat) (r : RangeEntry) : (setRange s i r).mem.sets = s.mem.sets := rfl
@[simp] theorem setRange_mem_calMiss (s : State) (i : Nat) (r : RangeEntry) : (setRange s i r).mem.calMiss = s.mem.calMiss := rfl
@[simp] theorem setRange_mem_calWb (s : State) (i : Nat) (r : RangeEntry) : (setRange s i r).mem.calWb = s.mem.calWb := rfl
@[simp] theorem setRange_mem_calCorrected (s : State) (i : Nat) (r : RangeEntry) : (setRange s i r).mem.calCorrected = s.mem.calCorrected := rfl
@[simp] theorem setRange_mem_calUncorrected (s : State) (i : Nat) (r : RangeEntry) : (setRange s i r).mem.calUncorrected = s.mem.calUncorrected := rfl
@[simp] theorem setRange_mem_calZero (s : State) (i : Nat) (r : RangeEntry) : (setRange s i r).mem.calZero = s.mem.calZero := rfl
@[simp] theorem setRange_mem_calPoison (s : State) (i : Nat) (r : RangeEntry) : (setRange s i r).mem.calPoison = s.mem.calPoison := rfl
@[simp] theorem setRange_mem_sliceCounts (s : State) (i : Nat) (r : RangeEntry) : (setRange s i r).mem.sliceCounts = s.mem.sliceCounts := rfl
@[simp] theorem setRange_mem_routerCorrected (s : State) (i : Nat) (r : RangeEntry) : (setRange s i r).mem.routerCorrected = s.mem.routerCorrected := rfl
@[simp] theorem setRange_mem_viaductHalf (s : State) (i : Nat) (r : RangeEntry) : (setRange s i r).mem.viaductHalf = s.mem.viaductHalf := rfl
@[simp] theorem setRange_mem_viaductChangedAt (s : State) (i : Nat) (r : RangeEntry) : (setRange s i r).mem.viaductChangedAt = s.mem.viaductChangedAt := rfl
@[simp] theorem setRange_mem_viaductLanes (s : State) (i : Nat) (r : RangeEntry) : (setRange s i r).mem.viaductLanes = s.mem.viaductLanes := rfl
@[simp] theorem setRange_mem_linkCounts (s : State) (i : Nat) (r : RangeEntry) : (setRange s i r).mem.linkCounts = s.mem.linkCounts := rfl
@[simp] theorem setRange_mem_memPoint (s : State) (i : Nat) (r : RangeEntry) : (setRange s i r).mem.memPoint = s.mem.memPoint := rfl

theorem rangeOf_setRange (s : State) (i : Nat) (r : RangeEntry) (j : Nat) : rangeOf (setRange s i r) j = if j = i then r else rangeOf s j := mget_mset _ _ _ _ _
@[simp] theorem rangeOf_setRange_self (s : State) (i : Nat) (r : RangeEntry) : rangeOf (setRange s i r) i = r := mget_mset_self _ _ _ _

/-! ### setCalSet -/

@[simp] theorem setCalSet_pending (s : State) (k : Nat) (x : CalSet) : (setCalSet s k x).pending = s.pending := rfl
@[simp] theorem setCalSet_freeCount (s : State) (k : Nat) (x : CalSet) : (setCalSet s k x).freeCount = s.freeCount := rfl
@[simp] theorem setCalSet_now (s : State) (k : Nat) (x : CalSet) : (setCalSet s k x).now = s.now := rfl
@[simp] theorem setCalSet_resp (s : State) (k : Nat) (x : CalSet) : (setCalSet s k x).resp = s.resp := rfl
@[simp] theorem setCalSet_ready (s : State) (k : Nat) (x : CalSet) : (setCalSet s k x).ready = s.ready := rfl
@[simp] theorem setCalSet_faultFlag (s : State) (k : Nat) (x : CalSet) : (setCalSet s k x).faultFlag = s.faultFlag := rfl
@[simp] theorem setCalSet_frames (s : State) (k : Nat) (x : CalSet) : (setCalSet s k x).frames = s.frames := rfl
@[simp] theorem setCalSet_residency (s : State) (k : Nat) (x : CalSet) : (setCalSet s k x).residency = s.residency := rfl
@[simp] theorem setCalSet_ctxs (s : State) (k : Nat) (x : CalSet) : (setCalSet s k x).ctxs = s.ctxs := rfl
@[simp] theorem setCalSet_cells (s : State) (k : Nat) (x : CalSet) : (setCalSet s k x).cells = s.cells := rfl
@[simp] theorem setCalSet_clusters (s : State) (k : Nat) (x : CalSet) : (setCalSet s k x).clusters = s.clusters := rfl
@[simp] theorem setCalSet_codec (s : State) (k : Nat) (x : CalSet) : (setCalSet s k x).codec = s.codec := rfl
@[simp] theorem setCalSet_host (s : State) (k : Nat) (x : CalSet) : (setCalSet s k x).host = s.host := rfl
@[simp] theorem setCalSet_parts (s : State) (k : Nat) (x : CalSet) : (setCalSet s k x).parts = s.parts := rfl
@[simp] theorem setCalSet_rot (s : State) (k : Nat) (x : CalSet) : (setCalSet s k x).rot = s.rot := rfl
@[simp] theorem setCalSet_flash (s : State) (k : Nat) (x : CalSet) : (setCalSet s k x).flash = s.flash := rfl
@[simp] theorem setCalSet_ports (s : State) (k : Nat) (x : CalSet) : (setCalSet s k x).ports = s.ports := rfl
@[simp] theorem setCalSet_colls (s : State) (k : Nat) (x : CalSet) : (setCalSet s k x).colls = s.colls := rfl
@[simp] theorem setCalSet_grp (s : State) (k : Nat) (x : CalSet) : (setCalSet s k x).grp = s.grp := rfl
@[simp] theorem setCalSet_power (s : State) (k : Nat) (x : CalSet) : (setCalSet s k x).power = s.power := rfl
@[simp] theorem setCalSet_health (s : State) (k : Nat) (x : CalSet) : (setCalSet s k x).health = s.health := rfl
@[simp] theorem setCalSet_obs (s : State) (k : Nat) (x : CalSet) : (setCalSet s k x).obs = s.obs := rfl
@[simp] theorem setCalSet_mgmt (s : State) (k : Nat) (x : CalSet) : (setCalSet s k x).mgmt = s.mgmt := rfl
@[simp] theorem setCalSet_mem_bytes (s : State) (k : Nat) (x : CalSet) : (setCalSet s k x).mem.bytes = s.mem.bytes := rfl
@[simp] theorem setCalSet_mem_lines (s : State) (k : Nat) (x : CalSet) : (setCalSet s k x).mem.lines = s.mem.lines := rfl
@[simp] theorem setCalSet_mem_stackUnits (s : State) (k : Nat) (x : CalSet) : (setCalSet s k x).mem.stackUnits = s.mem.stackUnits := rfl
@[simp] theorem setCalSet_mem_ranges (s : State) (k : Nat) (x : CalSet) : (setCalSet s k x).mem.ranges = s.mem.ranges := rfl
@[simp] theorem setCalSet_mem_calMiss (s : State) (k : Nat) (x : CalSet) : (setCalSet s k x).mem.calMiss = s.mem.calMiss := rfl
@[simp] theorem setCalSet_mem_calWb (s : State) (k : Nat) (x : CalSet) : (setCalSet s k x).mem.calWb = s.mem.calWb := rfl
@[simp] theorem setCalSet_mem_calCorrected (s : State) (k : Nat) (x : CalSet) : (setCalSet s k x).mem.calCorrected = s.mem.calCorrected := rfl
@[simp] theorem setCalSet_mem_calUncorrected (s : State) (k : Nat) (x : CalSet) : (setCalSet s k x).mem.calUncorrected = s.mem.calUncorrected := rfl
@[simp] theorem setCalSet_mem_calZero (s : State) (k : Nat) (x : CalSet) : (setCalSet s k x).mem.calZero = s.mem.calZero := rfl
@[simp] theorem setCalSet_mem_calPoison (s : State) (k : Nat) (x : CalSet) : (setCalSet s k x).mem.calPoison = s.mem.calPoison := rfl
@[simp] theorem setCalSet_mem_sliceCounts (s : State) (k : Nat) (x : CalSet) : (setCalSet s k x).mem.sliceCounts = s.mem.sliceCounts := rfl
@[simp] theorem setCalSet_mem_routerCorrected (s : State) (k : Nat) (x : CalSet) : (setCalSet s k x).mem.routerCorrected = s.mem.routerCorrected := rfl
@[simp] theorem setCalSet_mem_viaductHalf (s : State) (k : Nat) (x : CalSet) : (setCalSet s k x).mem.viaductHalf = s.mem.viaductHalf := rfl
@[simp] theorem setCalSet_mem_viaductChangedAt (s : State) (k : Nat) (x : CalSet) : (setCalSet s k x).mem.viaductChangedAt = s.mem.viaductChangedAt := rfl
@[simp] theorem setCalSet_mem_viaductLanes (s : State) (k : Nat) (x : CalSet) : (setCalSet s k x).mem.viaductLanes = s.mem.viaductLanes := rfl
@[simp] theorem setCalSet_mem_linkCounts (s : State) (k : Nat) (x : CalSet) : (setCalSet s k x).mem.linkCounts = s.mem.linkCounts := rfl
@[simp] theorem setCalSet_mem_memPoint (s : State) (k : Nat) (x : CalSet) : (setCalSet s k x).mem.memPoint = s.mem.memPoint := rfl

theorem calSetOf_setCalSet (s : State) (k : Nat) (x : CalSet) (j : Nat) : calSetOf (setCalSet s k x) j = if j = k then x else calSetOf s j := mget_mset _ _ _ _ _
@[simp] theorem calSetOf_setCalSet_self (s : State) (k : Nat) (x : CalSet) : calSetOf (setCalSet s k x) k = x := mget_mset_self _ _ _ _

/-! ### setFn -/

@[simp] theorem setFn_pending (s : State) (f : Nat) (x : Fn) : (setFn s f x).pending = s.pending := rfl
@[simp] theorem setFn_freeCount (s : State) (f : Nat) (x : Fn) : (setFn s f x).freeCount = s.freeCount := rfl
@[simp] theorem setFn_now (s : State) (f : Nat) (x : Fn) : (setFn s f x).now = s.now := rfl
@[simp] theorem setFn_resp (s : State) (f : Nat) (x : Fn) : (setFn s f x).resp = s.resp := rfl
@[simp] theorem setFn_ready (s : State) (f : Nat) (x : Fn) : (setFn s f x).ready = s.ready := rfl
@[simp] theorem setFn_faultFlag (s : State) (f : Nat) (x : Fn) : (setFn s f x).faultFlag = s.faultFlag := rfl
@[simp] theorem setFn_frames (s : State) (f : Nat) (x : Fn) : (setFn s f x).frames = s.frames := rfl
@[simp] theorem setFn_residency (s : State) (f : Nat) (x : Fn) : (setFn s f x).residency = s.residency := rfl
@[simp] theorem setFn_ctxs (s : State) (f : Nat) (x : Fn) : (setFn s f x).ctxs = s.ctxs := rfl
@[simp] theorem setFn_cells (s : State) (f : Nat) (x : Fn) : (setFn s f x).cells = s.cells := rfl
@[simp] theorem setFn_clusters (s : State) (f : Nat) (x : Fn) : (setFn s f x).clusters = s.clusters := rfl
@[simp] theorem setFn_mem (s : State) (f : Nat) (x : Fn) : (setFn s f x).mem = s.mem := rfl
@[simp] theorem setFn_codec (s : State) (f : Nat) (x : Fn) : (setFn s f x).codec = s.codec := rfl
@[simp] theorem setFn_parts (s : State) (f : Nat) (x : Fn) : (setFn s f x).parts = s.parts := rfl
@[simp] theorem setFn_rot (s : State) (f : Nat) (x : Fn) : (setFn s f x).rot = s.rot := rfl
@[simp] theorem setFn_flash (s : State) (f : Nat) (x : Fn) : (setFn s f x).flash = s.flash := rfl
@[simp] theorem setFn_ports (s : State) (f : Nat) (x : Fn) : (setFn s f x).ports = s.ports := rfl
@[simp] theorem setFn_colls (s : State) (f : Nat) (x : Fn) : (setFn s f x).colls = s.colls := rfl
@[simp] theorem setFn_grp (s : State) (f : Nat) (x : Fn) : (setFn s f x).grp = s.grp := rfl
@[simp] theorem setFn_power (s : State) (f : Nat) (x : Fn) : (setFn s f x).power = s.power := rfl
@[simp] theorem setFn_health (s : State) (f : Nat) (x : Fn) : (setFn s f x).health = s.health := rfl
@[simp] theorem setFn_obs (s : State) (f : Nat) (x : Fn) : (setFn s f x).obs = s.obs := rfl
@[simp] theorem setFn_mgmt (s : State) (f : Nat) (x : Fn) : (setFn s f x).mgmt = s.mgmt := rfl
@[simp] theorem setFn_host_queues (s : State) (f : Nat) (x : Fn) : (setFn s f x).host.queues = s.host.queues := rfl
@[simp] theorem setFn_host_nextRing (s : State) (f : Nat) (x : Fn) : (setFn s f x).host.nextRing = s.host.nextRing := rfl
@[simp] theorem setFn_host_qrejAlive (s : State) (f : Nat) (x : Fn) : (setFn s f x).host.qrejAlive = s.host.qrejAlive := rfl
@[simp] theorem setFn_host_qrejRejected (s : State) (f : Nat) (x : Fn) : (setFn s f x).host.qrejRejected = s.host.qrejRejected := rfl
@[simp] theorem setFn_host_windows (s : State) (f : Nat) (x : Fn) : (setFn s f x).host.windows = s.host.windows := rfl
@[simp] theorem setFn_host_winNow (s : State) (f : Nat) (x : Fn) : (setFn s f x).host.winNow = s.host.winNow := rfl
@[simp] theorem setFn_host_exposures (s : State) (f : Nat) (x : Fn) : (setFn s f x).host.exposures = s.host.exposures := rfl
@[simp] theorem setFn_host_mem (s : State) (f : Nat) (x : Fn) : (setFn s f x).host.mem = s.host.mem := rfl
@[simp] theorem setFn_host_msix (s : State) (f : Nat) (x : Fn) : (setFn s f x).host.msix = s.host.msix := rfl
@[simp] theorem setFn_host_started (s : State) (f : Nat) (x : Fn) : (setFn s f x).host.started = s.host.started := rfl
@[simp] theorem setFn_host_long (s : State) (f : Nat) (x : Fn) : (setFn s f x).host.long = s.host.long := rfl
@[simp] theorem setFn_host_ticking (s : State) (f : Nat) (x : Fn) : (setFn s f x).host.ticking = s.host.ticking := rfl
@[simp] theorem setFn_host_snoop (s : State) (f : Nat) (x : Fn) : (setFn s f x).host.snoop = s.host.snoop := rfl
@[simp] theorem setFn_host_heldWrites (s : State) (f : Nat) (x : Fn) : (setFn s f x).host.heldWrites = s.host.heldWrites := rfl
@[simp] theorem setFn_host_ats (s : State) (f : Nat) (x : Fn) : (setFn s f x).host.ats = s.host.ats := rfl
@[simp] theorem setFn_host_linkWidth (s : State) (f : Nat) (x : Fn) : (setFn s f x).host.linkWidth = s.host.linkWidth := rfl
@[simp] theorem setFn_host_linkRate (s : State) (f : Nat) (x : Fn) : (setFn s f x).host.linkRate = s.host.linkRate := rfl
@[simp] theorem setFn_host_flit256 (s : State) (f : Nat) (x : Fn) : (setFn s f x).host.flit256 = s.host.flit256 := rfl
@[simp] theorem setFn_host_linkUp (s : State) (f : Nat) (x : Fn) : (setFn s f x).host.linkUp = s.host.linkUp := rfl
@[simp] theorem setFn_host_ideIo (s : State) (f : Nat) (x : Fn) : (setFn s f x).host.ideIo = s.host.ideIo := rfl
@[simp] theorem setFn_host_ideMem (s : State) (f : Nat) (x : Fn) : (setFn s f x).host.ideMem = s.host.ideMem := rfl
@[simp] theorem setFn_host_ideIoFailed (s : State) (f : Nat) (x : Fn) : (setFn s f x).host.ideIoFailed = s.host.ideIoFailed := rfl
@[simp] theorem setFn_host_ideMemFailed (s : State) (f : Nat) (x : Fn) : (setFn s f x).host.ideMemFailed = s.host.ideMemFailed := rfl
@[simp] theorem setFn_host_ideRequired (s : State) (f : Nat) (x : Fn) : (setFn s f x).host.ideRequired = s.host.ideRequired := rfl
@[simp] theorem setFn_host_rrNext (s : State) (f : Nat) (x : Fn) : (setFn s f x).host.rrNext = s.host.rrNext := rfl

theorem fnOf_setFn (s : State) (f : Nat) (x : Fn) (j : Nat) : fnOf (setFn s f x) j = if j = f then x else fnOf s j := mget_mset _ _ _ _ _
@[simp] theorem fnOf_setFn_self (s : State) (f : Nat) (x : Fn) : fnOf (setFn s f x) f = x := mget_mset_self _ _ _ _

/-! ### modFn -/

@[simp] theorem modFn_pending (s : State) (f : Nat) (g : Fn → Fn) : (modFn s f g).pending = s.pending := rfl
@[simp] theorem modFn_freeCount (s : State) (f : Nat) (g : Fn → Fn) : (modFn s f g).freeCount = s.freeCount := rfl
@[simp] theorem modFn_now (s : State) (f : Nat) (g : Fn → Fn) : (modFn s f g).now = s.now := rfl
@[simp] theorem modFn_resp (s : State) (f : Nat) (g : Fn → Fn) : (modFn s f g).resp = s.resp := rfl
@[simp] theorem modFn_ready (s : State) (f : Nat) (g : Fn → Fn) : (modFn s f g).ready = s.ready := rfl
@[simp] theorem modFn_faultFlag (s : State) (f : Nat) (g : Fn → Fn) : (modFn s f g).faultFlag = s.faultFlag := rfl
@[simp] theorem modFn_frames (s : State) (f : Nat) (g : Fn → Fn) : (modFn s f g).frames = s.frames := rfl
@[simp] theorem modFn_residency (s : State) (f : Nat) (g : Fn → Fn) : (modFn s f g).residency = s.residency := rfl
@[simp] theorem modFn_ctxs (s : State) (f : Nat) (g : Fn → Fn) : (modFn s f g).ctxs = s.ctxs := rfl
@[simp] theorem modFn_cells (s : State) (f : Nat) (g : Fn → Fn) : (modFn s f g).cells = s.cells := rfl
@[simp] theorem modFn_clusters (s : State) (f : Nat) (g : Fn → Fn) : (modFn s f g).clusters = s.clusters := rfl
@[simp] theorem modFn_mem (s : State) (f : Nat) (g : Fn → Fn) : (modFn s f g).mem = s.mem := rfl
@[simp] theorem modFn_codec (s : State) (f : Nat) (g : Fn → Fn) : (modFn s f g).codec = s.codec := rfl
@[simp] theorem modFn_parts (s : State) (f : Nat) (g : Fn → Fn) : (modFn s f g).parts = s.parts := rfl
@[simp] theorem modFn_rot (s : State) (f : Nat) (g : Fn → Fn) : (modFn s f g).rot = s.rot := rfl
@[simp] theorem modFn_flash (s : State) (f : Nat) (g : Fn → Fn) : (modFn s f g).flash = s.flash := rfl
@[simp] theorem modFn_ports (s : State) (f : Nat) (g : Fn → Fn) : (modFn s f g).ports = s.ports := rfl
@[simp] theorem modFn_colls (s : State) (f : Nat) (g : Fn → Fn) : (modFn s f g).colls = s.colls := rfl
@[simp] theorem modFn_grp (s : State) (f : Nat) (g : Fn → Fn) : (modFn s f g).grp = s.grp := rfl
@[simp] theorem modFn_power (s : State) (f : Nat) (g : Fn → Fn) : (modFn s f g).power = s.power := rfl
@[simp] theorem modFn_health (s : State) (f : Nat) (g : Fn → Fn) : (modFn s f g).health = s.health := rfl
@[simp] theorem modFn_obs (s : State) (f : Nat) (g : Fn → Fn) : (modFn s f g).obs = s.obs := rfl
@[simp] theorem modFn_mgmt (s : State) (f : Nat) (g : Fn → Fn) : (modFn s f g).mgmt = s.mgmt := rfl
@[simp] theorem modFn_host_queues (s : State) (f : Nat) (g : Fn → Fn) : (modFn s f g).host.queues = s.host.queues := rfl
@[simp] theorem modFn_host_nextRing (s : State) (f : Nat) (g : Fn → Fn) : (modFn s f g).host.nextRing = s.host.nextRing := rfl
@[simp] theorem modFn_host_qrejAlive (s : State) (f : Nat) (g : Fn → Fn) : (modFn s f g).host.qrejAlive = s.host.qrejAlive := rfl
@[simp] theorem modFn_host_qrejRejected (s : State) (f : Nat) (g : Fn → Fn) : (modFn s f g).host.qrejRejected = s.host.qrejRejected := rfl
@[simp] theorem modFn_host_windows (s : State) (f : Nat) (g : Fn → Fn) : (modFn s f g).host.windows = s.host.windows := rfl
@[simp] theorem modFn_host_winNow (s : State) (f : Nat) (g : Fn → Fn) : (modFn s f g).host.winNow = s.host.winNow := rfl
@[simp] theorem modFn_host_exposures (s : State) (f : Nat) (g : Fn → Fn) : (modFn s f g).host.exposures = s.host.exposures := rfl
@[simp] theorem modFn_host_mem (s : State) (f : Nat) (g : Fn → Fn) : (modFn s f g).host.mem = s.host.mem := rfl
@[simp] theorem modFn_host_msix (s : State) (f : Nat) (g : Fn → Fn) : (modFn s f g).host.msix = s.host.msix := rfl
@[simp] theorem modFn_host_started (s : State) (f : Nat) (g : Fn → Fn) : (modFn s f g).host.started = s.host.started := rfl
@[simp] theorem modFn_host_long (s : State) (f : Nat) (g : Fn → Fn) : (modFn s f g).host.long = s.host.long := rfl
@[simp] theorem modFn_host_ticking (s : State) (f : Nat) (g : Fn → Fn) : (modFn s f g).host.ticking = s.host.ticking := rfl
@[simp] theorem modFn_host_snoop (s : State) (f : Nat) (g : Fn → Fn) : (modFn s f g).host.snoop = s.host.snoop := rfl
@[simp] theorem modFn_host_heldWrites (s : State) (f : Nat) (g : Fn → Fn) : (modFn s f g).host.heldWrites = s.host.heldWrites := rfl
@[simp] theorem modFn_host_ats (s : State) (f : Nat) (g : Fn → Fn) : (modFn s f g).host.ats = s.host.ats := rfl
@[simp] theorem modFn_host_linkWidth (s : State) (f : Nat) (g : Fn → Fn) : (modFn s f g).host.linkWidth = s.host.linkWidth := rfl
@[simp] theorem modFn_host_linkRate (s : State) (f : Nat) (g : Fn → Fn) : (modFn s f g).host.linkRate = s.host.linkRate := rfl
@[simp] theorem modFn_host_flit256 (s : State) (f : Nat) (g : Fn → Fn) : (modFn s f g).host.flit256 = s.host.flit256 := rfl
@[simp] theorem modFn_host_linkUp (s : State) (f : Nat) (g : Fn → Fn) : (modFn s f g).host.linkUp = s.host.linkUp := rfl
@[simp] theorem modFn_host_ideIo (s : State) (f : Nat) (g : Fn → Fn) : (modFn s f g).host.ideIo = s.host.ideIo := rfl
@[simp] theorem modFn_host_ideMem (s : State) (f : Nat) (g : Fn → Fn) : (modFn s f g).host.ideMem = s.host.ideMem := rfl
@[simp] theorem modFn_host_ideIoFailed (s : State) (f : Nat) (g : Fn → Fn) : (modFn s f g).host.ideIoFailed = s.host.ideIoFailed := rfl
@[simp] theorem modFn_host_ideMemFailed (s : State) (f : Nat) (g : Fn → Fn) : (modFn s f g).host.ideMemFailed = s.host.ideMemFailed := rfl
@[simp] theorem modFn_host_ideRequired (s : State) (f : Nat) (g : Fn → Fn) : (modFn s f g).host.ideRequired = s.host.ideRequired := rfl
@[simp] theorem modFn_host_rrNext (s : State) (f : Nat) (g : Fn → Fn) : (modFn s f g).host.rrNext = s.host.rrNext := rfl

theorem fnOf_modFn (s : State) (f : Nat) (g : Fn → Fn) (j : Nat) : fnOf (modFn s f g) j = if j = f then g (fnOf s f) else fnOf s j := mget_mset _ _ _ _ _
@[simp] theorem fnOf_modFn_self (s : State) (f : Nat) (g : Fn → Fn) : fnOf (modFn s f g) f = g (fnOf s f) := mget_mset_self _ _ _ _

/-! ### setQueue -/

@[simp] theorem setQueue_pending (s : State) (q : Nat) (x : Option Queue) : (setQueue s q x).pending = s.pending := rfl
@[simp] theorem setQueue_freeCount (s : State) (q : Nat) (x : Option Queue) : (setQueue s q x).freeCount = s.freeCount := rfl
@[simp] theorem setQueue_now (s : State) (q : Nat) (x : Option Queue) : (setQueue s q x).now = s.now := rfl
@[simp] theorem setQueue_resp (s : State) (q : Nat) (x : Option Queue) : (setQueue s q x).resp = s.resp := rfl
@[simp] theorem setQueue_ready (s : State) (q : Nat) (x : Option Queue) : (setQueue s q x).ready = s.ready := rfl
@[simp] theorem setQueue_faultFlag (s : State) (q : Nat) (x : Option Queue) : (setQueue s q x).faultFlag = s.faultFlag := rfl
@[simp] theorem setQueue_frames (s : State) (q : Nat) (x : Option Queue) : (setQueue s q x).frames = s.frames := rfl
@[simp] theorem setQueue_residency (s : State) (q : Nat) (x : Option Queue) : (setQueue s q x).residency = s.residency := rfl
@[simp] theorem setQueue_ctxs (s : State) (q : Nat) (x : Option Queue) : (setQueue s q x).ctxs = s.ctxs := rfl
@[simp] theorem setQueue_cells (s : State) (q : Nat) (x : Option Queue) : (setQueue s q x).cells = s.cells := rfl
@[simp] theorem setQueue_clusters (s : State) (q : Nat) (x : Option Queue) : (setQueue s q x).clusters = s.clusters := rfl
@[simp] theorem setQueue_mem (s : State) (q : Nat) (x : Option Queue) : (setQueue s q x).mem = s.mem := rfl
@[simp] theorem setQueue_codec (s : State) (q : Nat) (x : Option Queue) : (setQueue s q x).codec = s.codec := rfl
@[simp] theorem setQueue_parts (s : State) (q : Nat) (x : Option Queue) : (setQueue s q x).parts = s.parts := rfl
@[simp] theorem setQueue_rot (s : State) (q : Nat) (x : Option Queue) : (setQueue s q x).rot = s.rot := rfl
@[simp] theorem setQueue_flash (s : State) (q : Nat) (x : Option Queue) : (setQueue s q x).flash = s.flash := rfl
@[simp] theorem setQueue_ports (s : State) (q : Nat) (x : Option Queue) : (setQueue s q x).ports = s.ports := rfl
@[simp] theorem setQueue_colls (s : State) (q : Nat) (x : Option Queue) : (setQueue s q x).colls = s.colls := rfl
@[simp] theorem setQueue_grp (s : State) (q : Nat) (x : Option Queue) : (setQueue s q x).grp = s.grp := rfl
@[simp] theorem setQueue_power (s : State) (q : Nat) (x : Option Queue) : (setQueue s q x).power = s.power := rfl
@[simp] theorem setQueue_health (s : State) (q : Nat) (x : Option Queue) : (setQueue s q x).health = s.health := rfl
@[simp] theorem setQueue_obs (s : State) (q : Nat) (x : Option Queue) : (setQueue s q x).obs = s.obs := rfl
@[simp] theorem setQueue_mgmt (s : State) (q : Nat) (x : Option Queue) : (setQueue s q x).mgmt = s.mgmt := rfl
@[simp] theorem setQueue_host_fns (s : State) (q : Nat) (x : Option Queue) : (setQueue s q x).host.fns = s.host.fns := rfl
@[simp] theorem setQueue_host_nextRing (s : State) (q : Nat) (x : Option Queue) : (setQueue s q x).host.nextRing = s.host.nextRing := rfl
@[simp] theorem setQueue_host_qrejAlive (s : State) (q : Nat) (x : Option Queue) : (setQueue s q x).host.qrejAlive = s.host.qrejAlive := rfl
@[simp] theorem setQueue_host_qrejRejected (s : State) (q : Nat) (x : Option Queue) : (setQueue s q x).host.qrejRejected = s.host.qrejRejected := rfl
@[simp] theorem setQueue_host_windows (s : State) (q : Nat) (x : Option Queue) : (setQueue s q x).host.windows = s.host.windows := rfl
@[simp] theorem setQueue_host_winNow (s : State) (q : Nat) (x : Option Queue) : (setQueue s q x).host.winNow = s.host.winNow := rfl
@[simp] theorem setQueue_host_exposures (s : State) (q : Nat) (x : Option Queue) : (setQueue s q x).host.exposures = s.host.exposures := rfl
@[simp] theorem setQueue_host_mem (s : State) (q : Nat) (x : Option Queue) : (setQueue s q x).host.mem = s.host.mem := rfl
@[simp] theorem setQueue_host_msix (s : State) (q : Nat) (x : Option Queue) : (setQueue s q x).host.msix = s.host.msix := rfl
@[simp] theorem setQueue_host_started (s : State) (q : Nat) (x : Option Queue) : (setQueue s q x).host.started = s.host.started := rfl
@[simp] theorem setQueue_host_long (s : State) (q : Nat) (x : Option Queue) : (setQueue s q x).host.long = s.host.long := rfl
@[simp] theorem setQueue_host_ticking (s : State) (q : Nat) (x : Option Queue) : (setQueue s q x).host.ticking = s.host.ticking := rfl
@[simp] theorem setQueue_host_snoop (s : State) (q : Nat) (x : Option Queue) : (setQueue s q x).host.snoop = s.host.snoop := rfl
@[simp] theorem setQueue_host_heldWrites (s : State) (q : Nat) (x : Option Queue) : (setQueue s q x).host.heldWrites = s.host.heldWrites := rfl
@[simp] theorem setQueue_host_ats (s : State) (q : Nat) (x : Option Queue) : (setQueue s q x).host.ats = s.host.ats := rfl
@[simp] theorem setQueue_host_linkWidth (s : State) (q : Nat) (x : Option Queue) : (setQueue s q x).host.linkWidth = s.host.linkWidth := rfl
@[simp] theorem setQueue_host_linkRate (s : State) (q : Nat) (x : Option Queue) : (setQueue s q x).host.linkRate = s.host.linkRate := rfl
@[simp] theorem setQueue_host_flit256 (s : State) (q : Nat) (x : Option Queue) : (setQueue s q x).host.flit256 = s.host.flit256 := rfl
@[simp] theorem setQueue_host_linkUp (s : State) (q : Nat) (x : Option Queue) : (setQueue s q x).host.linkUp = s.host.linkUp := rfl
@[simp] theorem setQueue_host_ideIo (s : State) (q : Nat) (x : Option Queue) : (setQueue s q x).host.ideIo = s.host.ideIo := rfl
@[simp] theorem setQueue_host_ideMem (s : State) (q : Nat) (x : Option Queue) : (setQueue s q x).host.ideMem = s.host.ideMem := rfl
@[simp] theorem setQueue_host_ideIoFailed (s : State) (q : Nat) (x : Option Queue) : (setQueue s q x).host.ideIoFailed = s.host.ideIoFailed := rfl
@[simp] theorem setQueue_host_ideMemFailed (s : State) (q : Nat) (x : Option Queue) : (setQueue s q x).host.ideMemFailed = s.host.ideMemFailed := rfl
@[simp] theorem setQueue_host_ideRequired (s : State) (q : Nat) (x : Option Queue) : (setQueue s q x).host.ideRequired = s.host.ideRequired := rfl
@[simp] theorem setQueue_host_rrNext (s : State) (q : Nat) (x : Option Queue) : (setQueue s q x).host.rrNext = s.host.rrNext := rfl

theorem queueOf?_setQueue (s : State) (q : Nat) (x : Option Queue) (j : Nat) : queueOf? (setQueue s q x) j = if j = q then x else queueOf? s j := mget_mset _ _ _ _ _
@[simp] theorem queueOf?_setQueue_self (s : State) (q : Nat) (x : Option Queue) : queueOf? (setQueue s q x) q = x := mget_mset_self _ _ _ _

/-! ### hostWrite -/

@[simp] theorem hostWrite_pending (s : State) (a : Nat) (bs : List Byte) : (hostWrite s a bs).pending = s.pending := rfl
@[simp] theorem hostWrite_freeCount (s : State) (a : Nat) (bs : List Byte) : (hostWrite s a bs).freeCount = s.freeCount := rfl
@[simp] theorem hostWrite_now (s : State) (a : Nat) (bs : List Byte) : (hostWrite s a bs).now = s.now := rfl
@[simp] theorem hostWrite_resp (s : State) (a : Nat) (bs : List Byte) : (hostWrite s a bs).resp = s.resp := rfl
@[simp] theorem hostWrite_ready (s : State) (a : Nat) (bs : List Byte) : (hostWrite s a bs).ready = s.ready := rfl
@[simp] theorem hostWrite_faultFlag (s : State) (a : Nat) (bs : List Byte) : (hostWrite s a bs).faultFlag = s.faultFlag := rfl
@[simp] theorem hostWrite_frames (s : State) (a : Nat) (bs : List Byte) : (hostWrite s a bs).frames = s.frames := rfl
@[simp] theorem hostWrite_residency (s : State) (a : Nat) (bs : List Byte) : (hostWrite s a bs).residency = s.residency := rfl
@[simp] theorem hostWrite_ctxs (s : State) (a : Nat) (bs : List Byte) : (hostWrite s a bs).ctxs = s.ctxs := rfl
@[simp] theorem hostWrite_cells (s : State) (a : Nat) (bs : List Byte) : (hostWrite s a bs).cells = s.cells := rfl
@[simp] theorem hostWrite_clusters (s : State) (a : Nat) (bs : List Byte) : (hostWrite s a bs).clusters = s.clusters := rfl
@[simp] theorem hostWrite_mem (s : State) (a : Nat) (bs : List Byte) : (hostWrite s a bs).mem = s.mem := rfl
@[simp] theorem hostWrite_codec (s : State) (a : Nat) (bs : List Byte) : (hostWrite s a bs).codec = s.codec := rfl
@[simp] theorem hostWrite_parts (s : State) (a : Nat) (bs : List Byte) : (hostWrite s a bs).parts = s.parts := rfl
@[simp] theorem hostWrite_rot (s : State) (a : Nat) (bs : List Byte) : (hostWrite s a bs).rot = s.rot := rfl
@[simp] theorem hostWrite_flash (s : State) (a : Nat) (bs : List Byte) : (hostWrite s a bs).flash = s.flash := rfl
@[simp] theorem hostWrite_ports (s : State) (a : Nat) (bs : List Byte) : (hostWrite s a bs).ports = s.ports := rfl
@[simp] theorem hostWrite_colls (s : State) (a : Nat) (bs : List Byte) : (hostWrite s a bs).colls = s.colls := rfl
@[simp] theorem hostWrite_grp (s : State) (a : Nat) (bs : List Byte) : (hostWrite s a bs).grp = s.grp := rfl
@[simp] theorem hostWrite_power (s : State) (a : Nat) (bs : List Byte) : (hostWrite s a bs).power = s.power := rfl
@[simp] theorem hostWrite_health (s : State) (a : Nat) (bs : List Byte) : (hostWrite s a bs).health = s.health := rfl
@[simp] theorem hostWrite_mgmt (s : State) (a : Nat) (bs : List Byte) : (hostWrite s a bs).mgmt = s.mgmt := rfl
@[simp] theorem hostWrite_host_fns (s : State) (a : Nat) (bs : List Byte) : (hostWrite s a bs).host.fns = s.host.fns := rfl
@[simp] theorem hostWrite_host_queues (s : State) (a : Nat) (bs : List Byte) : (hostWrite s a bs).host.queues = s.host.queues := rfl
@[simp] theorem hostWrite_host_nextRing (s : State) (a : Nat) (bs : List Byte) : (hostWrite s a bs).host.nextRing = s.host.nextRing := rfl
@[simp] theorem hostWrite_host_qrejAlive (s : State) (a : Nat) (bs : List Byte) : (hostWrite s a bs).host.qrejAlive = s.host.qrejAlive := rfl
@[simp] theorem hostWrite_host_qrejRejected (s : State) (a : Nat) (bs : List Byte) : (hostWrite s a bs).host.qrejRejected = s.host.qrejRejected := rfl
@[simp] theorem hostWrite_host_windows (s : State) (a : Nat) (bs : List Byte) : (hostWrite s a bs).host.windows = s.host.windows := rfl
@[simp] theorem hostWrite_host_winNow (s : State) (a : Nat) (bs : List Byte) : (hostWrite s a bs).host.winNow = s.host.winNow := rfl
@[simp] theorem hostWrite_host_exposures (s : State) (a : Nat) (bs : List Byte) : (hostWrite s a bs).host.exposures = s.host.exposures := rfl
@[simp] theorem hostWrite_host_msix (s : State) (a : Nat) (bs : List Byte) : (hostWrite s a bs).host.msix = s.host.msix := rfl
@[simp] theorem hostWrite_host_started (s : State) (a : Nat) (bs : List Byte) : (hostWrite s a bs).host.started = s.host.started := rfl
@[simp] theorem hostWrite_host_long (s : State) (a : Nat) (bs : List Byte) : (hostWrite s a bs).host.long = s.host.long := rfl
@[simp] theorem hostWrite_host_ticking (s : State) (a : Nat) (bs : List Byte) : (hostWrite s a bs).host.ticking = s.host.ticking := rfl
@[simp] theorem hostWrite_host_snoop (s : State) (a : Nat) (bs : List Byte) : (hostWrite s a bs).host.snoop = s.host.snoop := rfl
@[simp] theorem hostWrite_host_heldWrites (s : State) (a : Nat) (bs : List Byte) : (hostWrite s a bs).host.heldWrites = s.host.heldWrites := rfl
@[simp] theorem hostWrite_host_ats (s : State) (a : Nat) (bs : List Byte) : (hostWrite s a bs).host.ats = s.host.ats := rfl
@[simp] theorem hostWrite_host_linkWidth (s : State) (a : Nat) (bs : List Byte) : (hostWrite s a bs).host.linkWidth = s.host.linkWidth := rfl
@[simp] theorem hostWrite_host_linkRate (s : State) (a : Nat) (bs : List Byte) : (hostWrite s a bs).host.linkRate = s.host.linkRate := rfl
@[simp] theorem hostWrite_host_flit256 (s : State) (a : Nat) (bs : List Byte) : (hostWrite s a bs).host.flit256 = s.host.flit256 := rfl
@[simp] theorem hostWrite_host_linkUp (s : State) (a : Nat) (bs : List Byte) : (hostWrite s a bs).host.linkUp = s.host.linkUp := rfl
@[simp] theorem hostWrite_host_ideIo (s : State) (a : Nat) (bs : List Byte) : (hostWrite s a bs).host.ideIo = s.host.ideIo := rfl
@[simp] theorem hostWrite_host_ideMem (s : State) (a : Nat) (bs : List Byte) : (hostWrite s a bs).host.ideMem = s.host.ideMem := rfl
@[simp] theorem hostWrite_host_ideIoFailed (s : State) (a : Nat) (bs : List Byte) : (hostWrite s a bs).host.ideIoFailed = s.host.ideIoFailed := rfl
@[simp] theorem hostWrite_host_ideMemFailed (s : State) (a : Nat) (bs : List Byte) : (hostWrite s a bs).host.ideMemFailed = s.host.ideMemFailed := rfl
@[simp] theorem hostWrite_host_ideRequired (s : State) (a : Nat) (bs : List Byte) : (hostWrite s a bs).host.ideRequired = s.host.ideRequired := rfl
@[simp] theorem hostWrite_host_rrNext (s : State) (a : Nat) (bs : List Byte) : (hostWrite s a bs).host.rrNext = s.host.rrNext := rfl

@[simp] theorem hostWrite_host_mem (s : State) (a : Nat) (bs : List Byte) : (hostWrite s a bs).host.mem = writeBytes s.host.mem a bs := rfl

/-! ### modFrames -/

@[simp] theorem modFrames_pending (s : State) (g : Frames → Frames) : (modFrames s g).pending = s.pending := rfl
@[simp] theorem modFrames_freeCount (s : State) (g : Frames → Frames) : (modFrames s g).freeCount = s.freeCount := rfl
@[simp] theorem modFrames_now (s : State) (g : Frames → Frames) : (modFrames s g).now = s.now := rfl
@[simp] theorem modFrames_resp (s : State) (g : Frames → Frames) : (modFrames s g).resp = s.resp := rfl
@[simp] theorem modFrames_ready (s : State) (g : Frames → Frames) : (modFrames s g).ready = s.ready := rfl
@[simp] theorem modFrames_faultFlag (s : State) (g : Frames → Frames) : (modFrames s g).faultFlag = s.faultFlag := rfl
@[simp] theorem modFrames_residency (s : State) (g : Frames → Frames) : (modFrames s g).residency = s.residency := rfl
@[simp] theorem modFrames_ctxs (s : State) (g : Frames → Frames) : (modFrames s g).ctxs = s.ctxs := rfl
@[simp] theorem modFrames_cells (s : State) (g : Frames → Frames) : (modFrames s g).cells = s.cells := rfl
@[simp] theorem modFrames_clusters (s : State) (g : Frames → Frames) : (modFrames s g).clusters = s.clusters := rfl
@[simp] theorem modFrames_mem (s : State) (g : Frames → Frames) : (modFrames s g).mem = s.mem := rfl
@[simp] theorem modFrames_codec (s : State) (g : Frames → Frames) : (modFrames s g).codec = s.codec := rfl
@[simp] theorem modFrames_host (s : State) (g : Frames → Frames) : (modFrames s g).host = s.host := rfl
@[simp] theorem modFrames_parts (s : State) (g : Frames → Frames) : (modFrames s g).parts = s.parts := rfl
@[simp] theorem modFrames_rot (s : State) (g : Frames → Frames) : (modFrames s g).rot = s.rot := rfl
@[simp] theorem modFrames_flash (s : State) (g : Frames → Frames) : (modFrames s g).flash = s.flash := rfl
@[simp] theorem modFrames_ports (s : State) (g : Frames → Frames) : (modFrames s g).ports = s.ports := rfl
@[simp] theorem modFrames_colls (s : State) (g : Frames → Frames) : (modFrames s g).colls = s.colls := rfl
@[simp] theorem modFrames_grp (s : State) (g : Frames → Frames) : (modFrames s g).grp = s.grp := rfl
@[simp] theorem modFrames_power (s : State) (g : Frames → Frames) : (modFrames s g).power = s.power := rfl
@[simp] theorem modFrames_health (s : State) (g : Frames → Frames) : (modFrames s g).health = s.health := rfl
@[simp] theorem modFrames_obs (s : State) (g : Frames → Frames) : (modFrames s g).obs = s.obs := rfl
@[simp] theorem modFrames_mgmt (s : State) (g : Frames → Frames) : (modFrames s g).mgmt = s.mgmt := rfl

@[simp] theorem modFrames_frames (s : State) (g : Frames → Frames) : (modFrames s g).frames = g s.frames := rfl

/-! ### modMem -/

@[simp] theorem modMem_pending (s : State) (g : Memory → Memory) : (modMem s g).pending = s.pending := rfl
@[simp] theorem modMem_freeCount (s : State) (g : Memory → Memory) : (modMem s g).freeCount = s.freeCount := rfl
@[simp] theorem modMem_now (s : State) (g : Memory → Memory) : (modMem s g).now = s.now := rfl
@[simp] theorem modMem_resp (s : State) (g : Memory → Memory) : (modMem s g).resp = s.resp := rfl
@[simp] theorem modMem_ready (s : State) (g : Memory → Memory) : (modMem s g).ready = s.ready := rfl
@[simp] theorem modMem_faultFlag (s : State) (g : Memory → Memory) : (modMem s g).faultFlag = s.faultFlag := rfl
@[simp] theorem modMem_frames (s : State) (g : Memory → Memory) : (modMem s g).frames = s.frames := rfl
@[simp] theorem modMem_residency (s : State) (g : Memory → Memory) : (modMem s g).residency = s.residency := rfl
@[simp] theorem modMem_ctxs (s : State) (g : Memory → Memory) : (modMem s g).ctxs = s.ctxs := rfl
@[simp] theorem modMem_cells (s : State) (g : Memory → Memory) : (modMem s g).cells = s.cells := rfl
@[simp] theorem modMem_clusters (s : State) (g : Memory → Memory) : (modMem s g).clusters = s.clusters := rfl
@[simp] theorem modMem_codec (s : State) (g : Memory → Memory) : (modMem s g).codec = s.codec := rfl
@[simp] theorem modMem_host (s : State) (g : Memory → Memory) : (modMem s g).host = s.host := rfl
@[simp] theorem modMem_parts (s : State) (g : Memory → Memory) : (modMem s g).parts = s.parts := rfl
@[simp] theorem modMem_rot (s : State) (g : Memory → Memory) : (modMem s g).rot = s.rot := rfl
@[simp] theorem modMem_flash (s : State) (g : Memory → Memory) : (modMem s g).flash = s.flash := rfl
@[simp] theorem modMem_ports (s : State) (g : Memory → Memory) : (modMem s g).ports = s.ports := rfl
@[simp] theorem modMem_colls (s : State) (g : Memory → Memory) : (modMem s g).colls = s.colls := rfl
@[simp] theorem modMem_grp (s : State) (g : Memory → Memory) : (modMem s g).grp = s.grp := rfl
@[simp] theorem modMem_power (s : State) (g : Memory → Memory) : (modMem s g).power = s.power := rfl
@[simp] theorem modMem_health (s : State) (g : Memory → Memory) : (modMem s g).health = s.health := rfl
@[simp] theorem modMem_obs (s : State) (g : Memory → Memory) : (modMem s g).obs = s.obs := rfl
@[simp] theorem modMem_mgmt (s : State) (g : Memory → Memory) : (modMem s g).mgmt = s.mgmt := rfl

@[simp] theorem modMem_mem (s : State) (g : Memory → Memory) : (modMem s g).mem = g s.mem := rfl

/-! ### modCodec -/

@[simp] theorem modCodec_pending (s : State) (g : CodecCounts → CodecCounts) : (modCodec s g).pending = s.pending := rfl
@[simp] theorem modCodec_freeCount (s : State) (g : CodecCounts → CodecCounts) : (modCodec s g).freeCount = s.freeCount := rfl
@[simp] theorem modCodec_now (s : State) (g : CodecCounts → CodecCounts) : (modCodec s g).now = s.now := rfl
@[simp] theorem modCodec_resp (s : State) (g : CodecCounts → CodecCounts) : (modCodec s g).resp = s.resp := rfl
@[simp] theorem modCodec_ready (s : State) (g : CodecCounts → CodecCounts) : (modCodec s g).ready = s.ready := rfl
@[simp] theorem modCodec_faultFlag (s : State) (g : CodecCounts → CodecCounts) : (modCodec s g).faultFlag = s.faultFlag := rfl
@[simp] theorem modCodec_frames (s : State) (g : CodecCounts → CodecCounts) : (modCodec s g).frames = s.frames := rfl
@[simp] theorem modCodec_residency (s : State) (g : CodecCounts → CodecCounts) : (modCodec s g).residency = s.residency := rfl
@[simp] theorem modCodec_ctxs (s : State) (g : CodecCounts → CodecCounts) : (modCodec s g).ctxs = s.ctxs := rfl
@[simp] theorem modCodec_cells (s : State) (g : CodecCounts → CodecCounts) : (modCodec s g).cells = s.cells := rfl
@[simp] theorem modCodec_clusters (s : State) (g : CodecCounts → CodecCounts) : (modCodec s g).clusters = s.clusters := rfl
@[simp] theorem modCodec_mem (s : State) (g : CodecCounts → CodecCounts) : (modCodec s g).mem = s.mem := rfl
@[simp] theorem modCodec_host (s : State) (g : CodecCounts → CodecCounts) : (modCodec s g).host = s.host := rfl
@[simp] theorem modCodec_parts (s : State) (g : CodecCounts → CodecCounts) : (modCodec s g).parts = s.parts := rfl
@[simp] theorem modCodec_rot (s : State) (g : CodecCounts → CodecCounts) : (modCodec s g).rot = s.rot := rfl
@[simp] theorem modCodec_flash (s : State) (g : CodecCounts → CodecCounts) : (modCodec s g).flash = s.flash := rfl
@[simp] theorem modCodec_ports (s : State) (g : CodecCounts → CodecCounts) : (modCodec s g).ports = s.ports := rfl
@[simp] theorem modCodec_colls (s : State) (g : CodecCounts → CodecCounts) : (modCodec s g).colls = s.colls := rfl
@[simp] theorem modCodec_grp (s : State) (g : CodecCounts → CodecCounts) : (modCodec s g).grp = s.grp := rfl
@[simp] theorem modCodec_power (s : State) (g : CodecCounts → CodecCounts) : (modCodec s g).power = s.power := rfl
@[simp] theorem modCodec_health (s : State) (g : CodecCounts → CodecCounts) : (modCodec s g).health = s.health := rfl
@[simp] theorem modCodec_obs (s : State) (g : CodecCounts → CodecCounts) : (modCodec s g).obs = s.obs := rfl
@[simp] theorem modCodec_mgmt (s : State) (g : CodecCounts → CodecCounts) : (modCodec s g).mgmt = s.mgmt := rfl

@[simp] theorem modCodec_codec (s : State) (g : CodecCounts → CodecCounts) : (modCodec s g).codec = g s.codec := rfl

/-! ### modPower -/

@[simp] theorem modPower_pending (s : State) (g : Power → Power) : (modPower s g).pending = s.pending := rfl
@[simp] theorem modPower_freeCount (s : State) (g : Power → Power) : (modPower s g).freeCount = s.freeCount := rfl
@[simp] theorem modPower_now (s : State) (g : Power → Power) : (modPower s g).now = s.now := rfl
@[simp] theorem modPower_resp (s : State) (g : Power → Power) : (modPower s g).resp = s.resp := rfl
@[simp] theorem modPower_ready (s : State) (g : Power → Power) : (modPower s g).ready = s.ready := rfl
@[simp] theorem modPower_faultFlag (s : State) (g : Power → Power) : (modPower s g).faultFlag = s.faultFlag := rfl
@[simp] theorem modPower_frames (s : State) (g : Power → Power) : (modPower s g).frames = s.frames := rfl
@[simp] theorem modPower_residency (s : State) (g : Power → Power) : (modPower s g).residency = s.residency := rfl
@[simp] theorem modPower_ctxs (s : State) (g : Power → Power) : (modPower s g).ctxs = s.ctxs := rfl
@[simp] theorem modPower_cells (s : State) (g : Power → Power) : (modPower s g).cells = s.cells := rfl
@[simp] theorem modPower_clusters (s : State) (g : Power → Power) : (modPower s g).clusters = s.clusters := rfl
@[simp] theorem modPower_mem (s : State) (g : Power → Power) : (modPower s g).mem = s.mem := rfl
@[simp] theorem modPower_codec (s : State) (g : Power → Power) : (modPower s g).codec = s.codec := rfl
@[simp] theorem modPower_host (s : State) (g : Power → Power) : (modPower s g).host = s.host := rfl
@[simp] theorem modPower_parts (s : State) (g : Power → Power) : (modPower s g).parts = s.parts := rfl
@[simp] theorem modPower_rot (s : State) (g : Power → Power) : (modPower s g).rot = s.rot := rfl
@[simp] theorem modPower_flash (s : State) (g : Power → Power) : (modPower s g).flash = s.flash := rfl
@[simp] theorem modPower_ports (s : State) (g : Power → Power) : (modPower s g).ports = s.ports := rfl
@[simp] theorem modPower_colls (s : State) (g : Power → Power) : (modPower s g).colls = s.colls := rfl
@[simp] theorem modPower_grp (s : State) (g : Power → Power) : (modPower s g).grp = s.grp := rfl
@[simp] theorem modPower_health (s : State) (g : Power → Power) : (modPower s g).health = s.health := rfl
@[simp] theorem modPower_obs (s : State) (g : Power → Power) : (modPower s g).obs = s.obs := rfl
@[simp] theorem modPower_mgmt (s : State) (g : Power → Power) : (modPower s g).mgmt = s.mgmt := rfl

@[simp] theorem modPower_power (s : State) (g : Power → Power) : (modPower s g).power = g s.power := rfl

/-! ### modHealth -/

@[simp] theorem modHealth_pending (s : State) (g : Health → Health) : (modHealth s g).pending = s.pending := rfl
@[simp] theorem modHealth_freeCount (s : State) (g : Health → Health) : (modHealth s g).freeCount = s.freeCount := rfl
@[simp] theorem modHealth_now (s : State) (g : Health → Health) : (modHealth s g).now = s.now := rfl
@[simp] theorem modHealth_resp (s : State) (g : Health → Health) : (modHealth s g).resp = s.resp := rfl
@[simp] theorem modHealth_ready (s : State) (g : Health → Health) : (modHealth s g).ready = s.ready := rfl
@[simp] theorem modHealth_faultFlag (s : State) (g : Health → Health) : (modHealth s g).faultFlag = s.faultFlag := rfl
@[simp] theorem modHealth_frames (s : State) (g : Health → Health) : (modHealth s g).frames = s.frames := rfl
@[simp] theorem modHealth_residency (s : State) (g : Health → Health) : (modHealth s g).residency = s.residency := rfl
@[simp] theorem modHealth_ctxs (s : State) (g : Health → Health) : (modHealth s g).ctxs = s.ctxs := rfl
@[simp] theorem modHealth_cells (s : State) (g : Health → Health) : (modHealth s g).cells = s.cells := rfl
@[simp] theorem modHealth_clusters (s : State) (g : Health → Health) : (modHealth s g).clusters = s.clusters := rfl
@[simp] theorem modHealth_mem (s : State) (g : Health → Health) : (modHealth s g).mem = s.mem := rfl
@[simp] theorem modHealth_codec (s : State) (g : Health → Health) : (modHealth s g).codec = s.codec := rfl
@[simp] theorem modHealth_host (s : State) (g : Health → Health) : (modHealth s g).host = s.host := rfl
@[simp] theorem modHealth_parts (s : State) (g : Health → Health) : (modHealth s g).parts = s.parts := rfl
@[simp] theorem modHealth_rot (s : State) (g : Health → Health) : (modHealth s g).rot = s.rot := rfl
@[simp] theorem modHealth_flash (s : State) (g : Health → Health) : (modHealth s g).flash = s.flash := rfl
@[simp] theorem modHealth_ports (s : State) (g : Health → Health) : (modHealth s g).ports = s.ports := rfl
@[simp] theorem modHealth_colls (s : State) (g : Health → Health) : (modHealth s g).colls = s.colls := rfl
@[simp] theorem modHealth_grp (s : State) (g : Health → Health) : (modHealth s g).grp = s.grp := rfl
@[simp] theorem modHealth_power (s : State) (g : Health → Health) : (modHealth s g).power = s.power := rfl
@[simp] theorem modHealth_obs (s : State) (g : Health → Health) : (modHealth s g).obs = s.obs := rfl
@[simp] theorem modHealth_mgmt (s : State) (g : Health → Health) : (modHealth s g).mgmt = s.mgmt := rfl

@[simp] theorem modHealth_health (s : State) (g : Health → Health) : (modHealth s g).health = g s.health := rfl

/-! ### modObs -/

@[simp] theorem modObs_pending (s : State) (g : Observe → Observe) : (modObs s g).pending = s.pending := rfl
@[simp] theorem modObs_freeCount (s : State) (g : Observe → Observe) : (modObs s g).freeCount = s.freeCount := rfl
@[simp] theorem modObs_now (s : State) (g : Observe → Observe) : (modObs s g).now = s.now := rfl
@[simp] theorem modObs_resp (s : State) (g : Observe → Observe) : (modObs s g).resp = s.resp := rfl
@[simp] theorem modObs_ready (s : State) (g : Observe → Observe) : (modObs s g).ready = s.ready := rfl
@[simp] theorem modObs_faultFlag (s : State) (g : Observe → Observe) : (modObs s g).faultFlag = s.faultFlag := rfl
@[simp] theorem modObs_frames (s : State) (g : Observe → Observe) : (modObs s g).frames = s.frames := rfl
@[simp] theorem modObs_residency (s : State) (g : Observe → Observe) : (modObs s g).residency = s.residency := rfl
@[simp] theorem modObs_ctxs (s : State) (g : Observe → Observe) : (modObs s g).ctxs = s.ctxs := rfl
@[simp] theorem modObs_cells (s : State) (g : Observe → Observe) : (modObs s g).cells = s.cells := rfl
@[simp] theorem modObs_clusters (s : State) (g : Observe → Observe) : (modObs s g).clusters = s.clusters := rfl
@[simp] theorem modObs_mem (s : State) (g : Observe → Observe) : (modObs s g).mem = s.mem := rfl
@[simp] theorem modObs_codec (s : State) (g : Observe → Observe) : (modObs s g).codec = s.codec := rfl
@[simp] theorem modObs_host (s : State) (g : Observe → Observe) : (modObs s g).host = s.host := rfl
@[simp] theorem modObs_parts (s : State) (g : Observe → Observe) : (modObs s g).parts = s.parts := rfl
@[simp] theorem modObs_rot (s : State) (g : Observe → Observe) : (modObs s g).rot = s.rot := rfl
@[simp] theorem modObs_flash (s : State) (g : Observe → Observe) : (modObs s g).flash = s.flash := rfl
@[simp] theorem modObs_ports (s : State) (g : Observe → Observe) : (modObs s g).ports = s.ports := rfl
@[simp] theorem modObs_colls (s : State) (g : Observe → Observe) : (modObs s g).colls = s.colls := rfl
@[simp] theorem modObs_grp (s : State) (g : Observe → Observe) : (modObs s g).grp = s.grp := rfl
@[simp] theorem modObs_power (s : State) (g : Observe → Observe) : (modObs s g).power = s.power := rfl
@[simp] theorem modObs_health (s : State) (g : Observe → Observe) : (modObs s g).health = s.health := rfl
@[simp] theorem modObs_mgmt (s : State) (g : Observe → Observe) : (modObs s g).mgmt = s.mgmt := rfl

@[simp] theorem modObs_obs (s : State) (g : Observe → Observe) : (modObs s g).obs = g s.obs := rfl

/-! ### modGrp -/

@[simp] theorem modGrp_pending (s : State) (g : Group → Group) : (modGrp s g).pending = s.pending := rfl
@[simp] theorem modGrp_freeCount (s : State) (g : Group → Group) : (modGrp s g).freeCount = s.freeCount := rfl
@[simp] theorem modGrp_now (s : State) (g : Group → Group) : (modGrp s g).now = s.now := rfl
@[simp] theorem modGrp_resp (s : State) (g : Group → Group) : (modGrp s g).resp = s.resp := rfl
@[simp] theorem modGrp_ready (s : State) (g : Group → Group) : (modGrp s g).ready = s.ready := rfl
@[simp] theorem modGrp_faultFlag (s : State) (g : Group → Group) : (modGrp s g).faultFlag = s.faultFlag := rfl
@[simp] theorem modGrp_frames (s : State) (g : Group → Group) : (modGrp s g).frames = s.frames := rfl
@[simp] theorem modGrp_residency (s : State) (g : Group → Group) : (modGrp s g).residency = s.residency := rfl
@[simp] theorem modGrp_ctxs (s : State) (g : Group → Group) : (modGrp s g).ctxs = s.ctxs := rfl
@[simp] theorem modGrp_cells (s : State) (g : Group → Group) : (modGrp s g).cells = s.cells := rfl
@[simp] theorem modGrp_clusters (s : State) (g : Group → Group) : (modGrp s g).clusters = s.clusters := rfl
@[simp] theorem modGrp_mem (s : State) (g : Group → Group) : (modGrp s g).mem = s.mem := rfl
@[simp] theorem modGrp_codec (s : State) (g : Group → Group) : (modGrp s g).codec = s.codec := rfl
@[simp] theorem modGrp_host (s : State) (g : Group → Group) : (modGrp s g).host = s.host := rfl
@[simp] theorem modGrp_parts (s : State) (g : Group → Group) : (modGrp s g).parts = s.parts := rfl
@[simp] theorem modGrp_rot (s : State) (g : Group → Group) : (modGrp s g).rot = s.rot := rfl
@[simp] theorem modGrp_flash (s : State) (g : Group → Group) : (modGrp s g).flash = s.flash := rfl
@[simp] theorem modGrp_ports (s : State) (g : Group → Group) : (modGrp s g).ports = s.ports := rfl
@[simp] theorem modGrp_colls (s : State) (g : Group → Group) : (modGrp s g).colls = s.colls := rfl
@[simp] theorem modGrp_power (s : State) (g : Group → Group) : (modGrp s g).power = s.power := rfl
@[simp] theorem modGrp_health (s : State) (g : Group → Group) : (modGrp s g).health = s.health := rfl
@[simp] theorem modGrp_obs (s : State) (g : Group → Group) : (modGrp s g).obs = s.obs := rfl
@[simp] theorem modGrp_mgmt (s : State) (g : Group → Group) : (modGrp s g).mgmt = s.mgmt := rfl

@[simp] theorem modGrp_grp (s : State) (g : Group → Group) : (modGrp s g).grp = g s.grp := rfl

/-! ### answer -/

@[simp] theorem answer_pending (s : State) (d : LineData) (st : Nat) : (answer s d st).pending = s.pending := rfl
@[simp] theorem answer_freeCount (s : State) (d : LineData) (st : Nat) : (answer s d st).freeCount = s.freeCount := rfl
@[simp] theorem answer_now (s : State) (d : LineData) (st : Nat) : (answer s d st).now = s.now := rfl
@[simp] theorem answer_ready (s : State) (d : LineData) (st : Nat) : (answer s d st).ready = s.ready := rfl
@[simp] theorem answer_faultFlag (s : State) (d : LineData) (st : Nat) : (answer s d st).faultFlag = s.faultFlag := rfl
@[simp] theorem answer_frames (s : State) (d : LineData) (st : Nat) : (answer s d st).frames = s.frames := rfl
@[simp] theorem answer_residency (s : State) (d : LineData) (st : Nat) : (answer s d st).residency = s.residency := rfl
@[simp] theorem answer_ctxs (s : State) (d : LineData) (st : Nat) : (answer s d st).ctxs = s.ctxs := rfl
@[simp] theorem answer_cells (s : State) (d : LineData) (st : Nat) : (answer s d st).cells = s.cells := rfl
@[simp] theorem answer_clusters (s : State) (d : LineData) (st : Nat) : (answer s d st).clusters = s.clusters := rfl
@[simp] theorem answer_mem (s : State) (d : LineData) (st : Nat) : (answer s d st).mem = s.mem := rfl
@[simp] theorem answer_codec (s : State) (d : LineData) (st : Nat) : (answer s d st).codec = s.codec := rfl
@[simp] theorem answer_host (s : State) (d : LineData) (st : Nat) : (answer s d st).host = s.host := rfl
@[simp] theorem answer_parts (s : State) (d : LineData) (st : Nat) : (answer s d st).parts = s.parts := rfl
@[simp] theorem answer_rot (s : State) (d : LineData) (st : Nat) : (answer s d st).rot = s.rot := rfl
@[simp] theorem answer_flash (s : State) (d : LineData) (st : Nat) : (answer s d st).flash = s.flash := rfl
@[simp] theorem answer_ports (s : State) (d : LineData) (st : Nat) : (answer s d st).ports = s.ports := rfl
@[simp] theorem answer_colls (s : State) (d : LineData) (st : Nat) : (answer s d st).colls = s.colls := rfl
@[simp] theorem answer_grp (s : State) (d : LineData) (st : Nat) : (answer s d st).grp = s.grp := rfl
@[simp] theorem answer_power (s : State) (d : LineData) (st : Nat) : (answer s d st).power = s.power := rfl
@[simp] theorem answer_health (s : State) (d : LineData) (st : Nat) : (answer s d st).health = s.health := rfl
@[simp] theorem answer_obs (s : State) (d : LineData) (st : Nat) : (answer s d st).obs = s.obs := rfl
@[simp] theorem answer_mgmt (s : State) (d : LineData) (st : Nat) : (answer s d st).mgmt = s.mgmt := rfl

/-! ### answerStatus -/

@[simp] theorem answerStatus_pending (s : State) (st : Nat) : (answerStatus s st).pending = s.pending := rfl
@[simp] theorem answerStatus_freeCount (s : State) (st : Nat) : (answerStatus s st).freeCount = s.freeCount := rfl
@[simp] theorem answerStatus_now (s : State) (st : Nat) : (answerStatus s st).now = s.now := rfl
@[simp] theorem answerStatus_ready (s : State) (st : Nat) : (answerStatus s st).ready = s.ready := rfl
@[simp] theorem answerStatus_faultFlag (s : State) (st : Nat) : (answerStatus s st).faultFlag = s.faultFlag := rfl
@[simp] theorem answerStatus_frames (s : State) (st : Nat) : (answerStatus s st).frames = s.frames := rfl
@[simp] theorem answerStatus_residency (s : State) (st : Nat) : (answerStatus s st).residency = s.residency := rfl
@[simp] theorem answerStatus_ctxs (s : State) (st : Nat) : (answerStatus s st).ctxs = s.ctxs := rfl
@[simp] theorem answerStatus_cells (s : State) (st : Nat) : (answerStatus s st).cells = s.cells := rfl
@[simp] theorem answerStatus_clusters (s : State) (st : Nat) : (answerStatus s st).clusters = s.clusters := rfl
@[simp] theorem answerStatus_mem (s : State) (st : Nat) : (answerStatus s st).mem = s.mem := rfl
@[simp] theorem answerStatus_codec (s : State) (st : Nat) : (answerStatus s st).codec = s.codec := rfl
@[simp] theorem answerStatus_host (s : State) (st : Nat) : (answerStatus s st).host = s.host := rfl
@[simp] theorem answerStatus_parts (s : State) (st : Nat) : (answerStatus s st).parts = s.parts := rfl
@[simp] theorem answerStatus_rot (s : State) (st : Nat) : (answerStatus s st).rot = s.rot := rfl
@[simp] theorem answerStatus_flash (s : State) (st : Nat) : (answerStatus s st).flash = s.flash := rfl
@[simp] theorem answerStatus_ports (s : State) (st : Nat) : (answerStatus s st).ports = s.ports := rfl
@[simp] theorem answerStatus_colls (s : State) (st : Nat) : (answerStatus s st).colls = s.colls := rfl
@[simp] theorem answerStatus_grp (s : State) (st : Nat) : (answerStatus s st).grp = s.grp := rfl
@[simp] theorem answerStatus_power (s : State) (st : Nat) : (answerStatus s st).power = s.power := rfl
@[simp] theorem answerStatus_health (s : State) (st : Nat) : (answerStatus s st).health = s.health := rfl
@[simp] theorem answerStatus_obs (s : State) (st : Nat) : (answerStatus s st).obs = s.obs := rfl
@[simp] theorem answerStatus_mgmt (s : State) (st : Nat) : (answerStatus s st).mgmt = s.mgmt := rfl

/-! ### setV -/

@[simp] theorem setV_a (c : Cell) (i : Nat) (x : List F32) : (setV c i x).a = c.a := rfl
@[simp] theorem setV_k (c : Cell) (i : Nat) (x : List F32) : (setV c i x).k = c.k := rfl
@[simp] theorem setV_acc (c : Cell) (i : Nat) (x : List F32) : (setV c i x).acc = c.acc := rfl
@[simp] theorem setV_slots (c : Cell) (i : Nat) (x : List F32) : (setV c i x).slots = c.slots := rfl
@[simp] theorem setV_nv (c : Cell) (i : Nat) (x : List F32) : (setV c i x).nv = c.nv := rfl
@[simp] theorem setV_ofl (c : Cell) (i : Nat) (x : List F32) : (setV c i x).ofl = c.ofl := rfl
@[simp] theorem setV_cancel (c : Cell) (i : Nat) (x : List F32) : (setV c i x).cancel = c.cancel := rfl
@[simp] theorem setV_empty (c : Cell) (i : Nat) (x : List F32) : (setV c i x).empty = c.empty := rfl
@[simp] theorem setV_nvF (c : Cell) (i : Nat) (x : List F32) : (setV c i x).nvF = c.nvF := rfl
@[simp] theorem setV_oflF (c : Cell) (i : Nat) (x : List F32) : (setV c i x).oflF = c.oflF := rfl
@[simp] theorem setV_cancelF (c : Cell) (i : Nat) (x : List F32) : (setV c i x).cancelF = c.cancelF := rfl
@[simp] theorem setV_emptyF (c : Cell) (i : Nat) (x : List F32) : (setV c i x).emptyF = c.emptyF := rfl
@[simp] theorem setV_faultIndex (c : Cell) (i : Nat) (x : List F32) : (setV c i x).faultIndex = c.faultIndex := rfl
@[simp] theorem setV_faultCode (c : Cell) (i : Nat) (x : List F32) : (setV c i x).faultCode = c.faultCode := rfl
@[simp] theorem setV_tile (c : Cell) (i : Nat) (x : List F32) : (setV c i x).tile = c.tile := rfl
@[simp] theorem setV_nextTile (c : Cell) (i : Nat) (x : List F32) : (setV c i x).nextTile = c.nextTile := rfl
@[simp] theorem setV_later (c : Cell) (i : Nat) (x : List F32) : (setV c i x).later = c.later := rfl
@[simp] theorem setV_active (c : Cell) (i : Nat) (x : List F32) : (setV c i x).active = c.active := rfl
@[simp] theorem setV_faulted (c : Cell) (i : Nat) (x : List F32) : (setV c i x).faulted = c.faulted := rfl
@[simp] theorem setV_tileNo (c : Cell) (i : Nat) (x : List F32) : (setV c i x).tileNo = c.tileNo := rfl
@[simp] theorem setV_tileAt (c : Cell) (i : Nat) (x : List F32) : (setV c i x).tileAt = c.tileAt := rfl
@[simp] theorem setV_nextAt (c : Cell) (i : Nat) (x : List F32) : (setV c i x).nextAt = c.nextAt := rfl
@[simp] theorem setV_pc (c : Cell) (i : Nat) (x : List F32) : (setV c i x).pc = c.pc := rfl
@[simp] theorem setV_loops (c : Cell) (i : Nat) (x : List F32) : (setV c i x).loops = c.loops := rfl
@[simp] theorem setV_issued (c : Cell) (i : Nat) (x : List F32) : (setV c i x).issued = c.issued := rfl
@[simp] theorem setV_held (c : Cell) (i : Nat) (x : List F32) : (setV c i x).held = c.held := rfl
@[simp] theorem setV_heldAt (c : Cell) (i : Nat) (x : List F32) : (setV c i x).heldAt = c.heldAt := rfl
@[simp] theorem setV_sp (c : Cell) (i : Nat) (x : List F32) : (setV c i x).sp = c.sp := rfl
@[simp] theorem setV_spPoison (c : Cell) (i : Nat) (x : List F32) : (setV c i x).spPoison = c.spPoison := rfl
@[simp] theorem setV_half (c : Cell) (i : Nat) (x : List F32) : (setV c i x).half = c.half := rfl
@[simp] theorem setV_sem (c : Cell) (i : Nat) (x : List F32) : (setV c i x).sem = c.sem := rfl
@[simp] theorem setV_semQ (c : Cell) (i : Nat) (x : List F32) : (setV c i x).semQ = c.semQ := rfl
@[simp] theorem setV_credit (c : Cell) (i : Nat) (x : List F32) : (setV c i x).credit = c.credit := rfl
@[simp] theorem setV_residentTag (c : Cell) (i : Nat) (x : List F32) : (setV c i x).residentTag = c.residentTag := rfl
@[simp] theorem setV_mailbox (c : Cell) (i : Nat) (x : List F32) : (setV c i x).mailbox = c.mailbox := rfl
@[simp] theorem setV_mover (c : Cell) (i : Nat) (x : List F32) : (setV c i x).mover = c.mover := rfl
@[simp] theorem setV_spCorrected (c : Cell) (i : Nat) (x : List F32) : (setV c i x).spCorrected = c.spCorrected := rfl
@[simp] theorem setV_semOvf (c : Cell) (i : Nat) (x : List F32) : (setV c i x).semOvf = c.semOvf := rfl
@[simp] theorem setV_creditOvf (c : Cell) (i : Nat) (x : List F32) : (setV c i x).creditOvf = c.creditOvf := rfl
@[simp] theorem setV_windowFault (c : Cell) (i : Nat) (x : List F32) : (setV c i x).windowFault = c.windowFault := rfl
@[simp] theorem setV_sameRow (c : Cell) (i : Nat) (x : List F32) : (setV c i x).sameRow = c.sameRow := rfl
@[simp] theorem setV_bytes (c : Cell) (i : Nat) (x : List F32) : (setV c i x).bytes = c.bytes := rfl
@[simp] theorem setV_progress (c : Cell) (i : Nat) (x : List F32) : (setV c i x).progress = c.progress := rfl

theorem vReg_setV (c : Cell) (i : Nat) (x : List F32) (j : Nat) : vReg (setV c i x) j = if j = i then x else vReg c j := mget_mset _ _ _ _ _
@[simp] theorem vReg_setV_self (c : Cell) (i : Nat) (x : List F32) : vReg (setV c i x) i = x := mget_mset_self _ _ _ _

/-! ### setAcc -/

@[simp] theorem setAcc_a (c : Cell) (b r : Nat) (x : List F32) : (setAcc c b r x).a = c.a := rfl
@[simp] theorem setAcc_k (c : Cell) (b r : Nat) (x : List F32) : (setAcc c b r x).k = c.k := rfl
@[simp] theorem setAcc_v (c : Cell) (b r : Nat) (x : List F32) : (setAcc c b r x).v = c.v := rfl
@[simp] theorem setAcc_slots (c : Cell) (b r : Nat) (x : List F32) : (setAcc c b r x).slots = c.slots := rfl
@[simp] theorem setAcc_nv (c : Cell) (b r : Nat) (x : List F32) : (setAcc c b r x).nv = c.nv := rfl
@[simp] theorem setAcc_ofl (c : Cell) (b r : Nat) (x : List F32) : (setAcc c b r x).ofl = c.ofl := rfl
@[simp] theorem setAcc_cancel (c : Cell) (b r : Nat) (x : List F32) : (setAcc c b r x).cancel = c.cancel := rfl
@[simp] theorem setAcc_empty (c : Cell) (b r : Nat) (x : List F32) : (setAcc c b r x).empty = c.empty := rfl
@[simp] theorem setAcc_nvF (c : Cell) (b r : Nat) (x : List F32) : (setAcc c b r x).nvF = c.nvF := rfl
@[simp] theorem setAcc_oflF (c : Cell) (b r : Nat) (x : List F32) : (setAcc c b r x).oflF = c.oflF := rfl
@[simp] theorem setAcc_cancelF (c : Cell) (b r : Nat) (x : List F32) : (setAcc c b r x).cancelF = c.cancelF := rfl
@[simp] theorem setAcc_emptyF (c : Cell) (b r : Nat) (x : List F32) : (setAcc c b r x).emptyF = c.emptyF := rfl
@[simp] theorem setAcc_faultIndex (c : Cell) (b r : Nat) (x : List F32) : (setAcc c b r x).faultIndex = c.faultIndex := rfl
@[simp] theorem setAcc_faultCode (c : Cell) (b r : Nat) (x : List F32) : (setAcc c b r x).faultCode = c.faultCode := rfl
@[simp] theorem setAcc_tile (c : Cell) (b r : Nat) (x : List F32) : (setAcc c b r x).tile = c.tile := rfl
@[simp] theorem setAcc_nextTile (c : Cell) (b r : Nat) (x : List F32) : (setAcc c b r x).nextTile = c.nextTile := rfl
@[simp] theorem setAcc_later (c : Cell) (b r : Nat) (x : List F32) : (setAcc c b r x).later = c.later := rfl
@[simp] theorem setAcc_active (c : Cell) (b r : Nat) (x : List F32) : (setAcc c b r x).active = c.active := rfl
@[simp] theorem setAcc_faulted (c : Cell) (b r : Nat) (x : List F32) : (setAcc c b r x).faulted = c.faulted := rfl
@[simp] theorem setAcc_tileNo (c : Cell) (b r : Nat) (x : List F32) : (setAcc c b r x).tileNo = c.tileNo := rfl
@[simp] theorem setAcc_tileAt (c : Cell) (b r : Nat) (x : List F32) : (setAcc c b r x).tileAt = c.tileAt := rfl
@[simp] theorem setAcc_nextAt (c : Cell) (b r : Nat) (x : List F32) : (setAcc c b r x).nextAt = c.nextAt := rfl
@[simp] theorem setAcc_pc (c : Cell) (b r : Nat) (x : List F32) : (setAcc c b r x).pc = c.pc := rfl
@[simp] theorem setAcc_loops (c : Cell) (b r : Nat) (x : List F32) : (setAcc c b r x).loops = c.loops := rfl
@[simp] theorem setAcc_issued (c : Cell) (b r : Nat) (x : List F32) : (setAcc c b r x).issued = c.issued := rfl
@[simp] theorem setAcc_held (c : Cell) (b r : Nat) (x : List F32) : (setAcc c b r x).held = c.held := rfl
@[simp] theorem setAcc_heldAt (c : Cell) (b r : Nat) (x : List F32) : (setAcc c b r x).heldAt = c.heldAt := rfl
@[simp] theorem setAcc_sp (c : Cell) (b r : Nat) (x : List F32) : (setAcc c b r x).sp = c.sp := rfl
@[simp] theorem setAcc_spPoison (c : Cell) (b r : Nat) (x : List F32) : (setAcc c b r x).spPoison = c.spPoison := rfl
@[simp] theorem setAcc_half (c : Cell) (b r : Nat) (x : List F32) : (setAcc c b r x).half = c.half := rfl
@[simp] theorem setAcc_sem (c : Cell) (b r : Nat) (x : List F32) : (setAcc c b r x).sem = c.sem := rfl
@[simp] theorem setAcc_semQ (c : Cell) (b r : Nat) (x : List F32) : (setAcc c b r x).semQ = c.semQ := rfl
@[simp] theorem setAcc_credit (c : Cell) (b r : Nat) (x : List F32) : (setAcc c b r x).credit = c.credit := rfl
@[simp] theorem setAcc_residentTag (c : Cell) (b r : Nat) (x : List F32) : (setAcc c b r x).residentTag = c.residentTag := rfl
@[simp] theorem setAcc_mailbox (c : Cell) (b r : Nat) (x : List F32) : (setAcc c b r x).mailbox = c.mailbox := rfl
@[simp] theorem setAcc_mover (c : Cell) (b r : Nat) (x : List F32) : (setAcc c b r x).mover = c.mover := rfl
@[simp] theorem setAcc_spCorrected (c : Cell) (b r : Nat) (x : List F32) : (setAcc c b r x).spCorrected = c.spCorrected := rfl
@[simp] theorem setAcc_semOvf (c : Cell) (b r : Nat) (x : List F32) : (setAcc c b r x).semOvf = c.semOvf := rfl
@[simp] theorem setAcc_creditOvf (c : Cell) (b r : Nat) (x : List F32) : (setAcc c b r x).creditOvf = c.creditOvf := rfl
@[simp] theorem setAcc_windowFault (c : Cell) (b r : Nat) (x : List F32) : (setAcc c b r x).windowFault = c.windowFault := rfl
@[simp] theorem setAcc_sameRow (c : Cell) (b r : Nat) (x : List F32) : (setAcc c b r x).sameRow = c.sameRow := rfl
@[simp] theorem setAcc_bytes (c : Cell) (b r : Nat) (x : List F32) : (setAcc c b r x).bytes = c.bytes := rfl
@[simp] theorem setAcc_progress (c : Cell) (b r : Nat) (x : List F32) : (setAcc c b r x).progress = c.progress := rfl

@[simp] theorem accRowOf_setAcc_self (c : Cell) (b r : Nat) (x : List F32) : accRowOf (setAcc c b r x) b r = x := mget_mset_self _ _ _ _

/-! ### setSlot -/

@[simp] theorem setSlot_a (c : Cell) (i : Nat) (x : StatSlot) : (setSlot c i x).a = c.a := rfl
@[simp] theorem setSlot_k (c : Cell) (i : Nat) (x : StatSlot) : (setSlot c i x).k = c.k := rfl
@[simp] theorem setSlot_v (c : Cell) (i : Nat) (x : StatSlot) : (setSlot c i x).v = c.v := rfl
@[simp] theorem setSlot_acc (c : Cell) (i : Nat) (x : StatSlot) : (setSlot c i x).acc = c.acc := rfl
@[simp] theorem setSlot_nv (c : Cell) (i : Nat) (x : StatSlot) : (setSlot c i x).nv = c.nv := rfl
@[simp] theorem setSlot_ofl (c : Cell) (i : Nat) (x : StatSlot) : (setSlot c i x).ofl = c.ofl := rfl
@[simp] theorem setSlot_cancel (c : Cell) (i : Nat) (x : StatSlot) : (setSlot c i x).cancel = c.cancel := rfl
@[simp] theorem setSlot_empty (c : Cell) (i : Nat) (x : StatSlot) : (setSlot c i x).empty = c.empty := rfl
@[simp] theorem setSlot_nvF (c : Cell) (i : Nat) (x : StatSlot) : (setSlot c i x).nvF = c.nvF := rfl
@[simp] theorem setSlot_oflF (c : Cell) (i : Nat) (x : StatSlot) : (setSlot c i x).oflF = c.oflF := rfl
@[simp] theorem setSlot_cancelF (c : Cell) (i : Nat) (x : StatSlot) : (setSlot c i x).cancelF = c.cancelF := rfl
@[simp] theorem setSlot_emptyF (c : Cell) (i : Nat) (x : StatSlot) : (setSlot c i x).emptyF = c.emptyF := rfl
@[simp] theorem setSlot_faultIndex (c : Cell) (i : Nat) (x : StatSlot) : (setSlot c i x).faultIndex = c.faultIndex := rfl
@[simp] theorem setSlot_faultCode (c : Cell) (i : Nat) (x : StatSlot) : (setSlot c i x).faultCode = c.faultCode := rfl
@[simp] theorem setSlot_tile (c : Cell) (i : Nat) (x : StatSlot) : (setSlot c i x).tile = c.tile := rfl
@[simp] theorem setSlot_nextTile (c : Cell) (i : Nat) (x : StatSlot) : (setSlot c i x).nextTile = c.nextTile := rfl
@[simp] theorem setSlot_later (c : Cell) (i : Nat) (x : StatSlot) : (setSlot c i x).later = c.later := rfl
@[simp] theorem setSlot_active (c : Cell) (i : Nat) (x : StatSlot) : (setSlot c i x).active = c.active := rfl
@[simp] theorem setSlot_faulted (c : Cell) (i : Nat) (x : StatSlot) : (setSlot c i x).faulted = c.faulted := rfl
@[simp] theorem setSlot_tileNo (c : Cell) (i : Nat) (x : StatSlot) : (setSlot c i x).tileNo = c.tileNo := rfl
@[simp] theorem setSlot_tileAt (c : Cell) (i : Nat) (x : StatSlot) : (setSlot c i x).tileAt = c.tileAt := rfl
@[simp] theorem setSlot_nextAt (c : Cell) (i : Nat) (x : StatSlot) : (setSlot c i x).nextAt = c.nextAt := rfl
@[simp] theorem setSlot_pc (c : Cell) (i : Nat) (x : StatSlot) : (setSlot c i x).pc = c.pc := rfl
@[simp] theorem setSlot_loops (c : Cell) (i : Nat) (x : StatSlot) : (setSlot c i x).loops = c.loops := rfl
@[simp] theorem setSlot_issued (c : Cell) (i : Nat) (x : StatSlot) : (setSlot c i x).issued = c.issued := rfl
@[simp] theorem setSlot_held (c : Cell) (i : Nat) (x : StatSlot) : (setSlot c i x).held = c.held := rfl
@[simp] theorem setSlot_heldAt (c : Cell) (i : Nat) (x : StatSlot) : (setSlot c i x).heldAt = c.heldAt := rfl
@[simp] theorem setSlot_sp (c : Cell) (i : Nat) (x : StatSlot) : (setSlot c i x).sp = c.sp := rfl
@[simp] theorem setSlot_spPoison (c : Cell) (i : Nat) (x : StatSlot) : (setSlot c i x).spPoison = c.spPoison := rfl
@[simp] theorem setSlot_half (c : Cell) (i : Nat) (x : StatSlot) : (setSlot c i x).half = c.half := rfl
@[simp] theorem setSlot_sem (c : Cell) (i : Nat) (x : StatSlot) : (setSlot c i x).sem = c.sem := rfl
@[simp] theorem setSlot_semQ (c : Cell) (i : Nat) (x : StatSlot) : (setSlot c i x).semQ = c.semQ := rfl
@[simp] theorem setSlot_credit (c : Cell) (i : Nat) (x : StatSlot) : (setSlot c i x).credit = c.credit := rfl
@[simp] theorem setSlot_residentTag (c : Cell) (i : Nat) (x : StatSlot) : (setSlot c i x).residentTag = c.residentTag := rfl
@[simp] theorem setSlot_mailbox (c : Cell) (i : Nat) (x : StatSlot) : (setSlot c i x).mailbox = c.mailbox := rfl
@[simp] theorem setSlot_mover (c : Cell) (i : Nat) (x : StatSlot) : (setSlot c i x).mover = c.mover := rfl
@[simp] theorem setSlot_spCorrected (c : Cell) (i : Nat) (x : StatSlot) : (setSlot c i x).spCorrected = c.spCorrected := rfl
@[simp] theorem setSlot_semOvf (c : Cell) (i : Nat) (x : StatSlot) : (setSlot c i x).semOvf = c.semOvf := rfl
@[simp] theorem setSlot_creditOvf (c : Cell) (i : Nat) (x : StatSlot) : (setSlot c i x).creditOvf = c.creditOvf := rfl
@[simp] theorem setSlot_windowFault (c : Cell) (i : Nat) (x : StatSlot) : (setSlot c i x).windowFault = c.windowFault := rfl
@[simp] theorem setSlot_sameRow (c : Cell) (i : Nat) (x : StatSlot) : (setSlot c i x).sameRow = c.sameRow := rfl
@[simp] theorem setSlot_bytes (c : Cell) (i : Nat) (x : StatSlot) : (setSlot c i x).bytes = c.bytes := rfl
@[simp] theorem setSlot_progress (c : Cell) (i : Nat) (x : StatSlot) : (setSlot c i x).progress = c.progress := rfl

theorem slotOf_setSlot (c : Cell) (i : Nat) (x : StatSlot) (j : Nat) : slotOf (setSlot c i x) j = if j = i then x else slotOf c j := mget_mset _ _ _ _ _
@[simp] theorem slotOf_setSlot_self (c : Cell) (i : Nat) (x : StatSlot) : slotOf (setSlot c i x) i = x := mget_mset_self _ _ _ _

/-! ### setFlags -/

@[simp] theorem setFlags_a (c : Cell) (r : Raised) : (setFlags c r).a = c.a := rfl
@[simp] theorem setFlags_k (c : Cell) (r : Raised) : (setFlags c r).k = c.k := rfl
@[simp] theorem setFlags_v (c : Cell) (r : Raised) : (setFlags c r).v = c.v := rfl
@[simp] theorem setFlags_acc (c : Cell) (r : Raised) : (setFlags c r).acc = c.acc := rfl
@[simp] theorem setFlags_slots (c : Cell) (r : Raised) : (setFlags c r).slots = c.slots := rfl
@[simp] theorem setFlags_faultIndex (c : Cell) (r : Raised) : (setFlags c r).faultIndex = c.faultIndex := rfl
@[simp] theorem setFlags_faultCode (c : Cell) (r : Raised) : (setFlags c r).faultCode = c.faultCode := rfl
@[simp] theorem setFlags_tile (c : Cell) (r : Raised) : (setFlags c r).tile = c.tile := rfl
@[simp] theorem setFlags_nextTile (c : Cell) (r : Raised) : (setFlags c r).nextTile = c.nextTile := rfl
@[simp] theorem setFlags_later (c : Cell) (r : Raised) : (setFlags c r).later = c.later := rfl
@[simp] theorem setFlags_active (c : Cell) (r : Raised) : (setFlags c r).active = c.active := rfl
@[simp] theorem setFlags_faulted (c : Cell) (r : Raised) : (setFlags c r).faulted = c.faulted := rfl
@[simp] theorem setFlags_tileNo (c : Cell) (r : Raised) : (setFlags c r).tileNo = c.tileNo := rfl
@[simp] theorem setFlags_tileAt (c : Cell) (r : Raised) : (setFlags c r).tileAt = c.tileAt := rfl
@[simp] theorem setFlags_nextAt (c : Cell) (r : Raised) : (setFlags c r).nextAt = c.nextAt := rfl
@[simp] theorem setFlags_pc (c : Cell) (r : Raised) : (setFlags c r).pc = c.pc := rfl
@[simp] theorem setFlags_loops (c : Cell) (r : Raised) : (setFlags c r).loops = c.loops := rfl
@[simp] theorem setFlags_issued (c : Cell) (r : Raised) : (setFlags c r).issued = c.issued := rfl
@[simp] theorem setFlags_held (c : Cell) (r : Raised) : (setFlags c r).held = c.held := rfl
@[simp] theorem setFlags_heldAt (c : Cell) (r : Raised) : (setFlags c r).heldAt = c.heldAt := rfl
@[simp] theorem setFlags_sp (c : Cell) (r : Raised) : (setFlags c r).sp = c.sp := rfl
@[simp] theorem setFlags_spPoison (c : Cell) (r : Raised) : (setFlags c r).spPoison = c.spPoison := rfl
@[simp] theorem setFlags_half (c : Cell) (r : Raised) : (setFlags c r).half = c.half := rfl
@[simp] theorem setFlags_sem (c : Cell) (r : Raised) : (setFlags c r).sem = c.sem := rfl
@[simp] theorem setFlags_semQ (c : Cell) (r : Raised) : (setFlags c r).semQ = c.semQ := rfl
@[simp] theorem setFlags_credit (c : Cell) (r : Raised) : (setFlags c r).credit = c.credit := rfl
@[simp] theorem setFlags_residentTag (c : Cell) (r : Raised) : (setFlags c r).residentTag = c.residentTag := rfl
@[simp] theorem setFlags_mailbox (c : Cell) (r : Raised) : (setFlags c r).mailbox = c.mailbox := rfl
@[simp] theorem setFlags_mover (c : Cell) (r : Raised) : (setFlags c r).mover = c.mover := rfl
@[simp] theorem setFlags_spCorrected (c : Cell) (r : Raised) : (setFlags c r).spCorrected = c.spCorrected := rfl
@[simp] theorem setFlags_semOvf (c : Cell) (r : Raised) : (setFlags c r).semOvf = c.semOvf := rfl
@[simp] theorem setFlags_creditOvf (c : Cell) (r : Raised) : (setFlags c r).creditOvf = c.creditOvf := rfl
@[simp] theorem setFlags_windowFault (c : Cell) (r : Raised) : (setFlags c r).windowFault = c.windowFault := rfl
@[simp] theorem setFlags_sameRow (c : Cell) (r : Raised) : (setFlags c r).sameRow = c.sameRow := rfl
@[simp] theorem setFlags_bytes (c : Cell) (r : Raised) : (setFlags c r).bytes = c.bytes := rfl
@[simp] theorem setFlags_progress (c : Cell) (r : Raised) : (setFlags c r).progress = c.progress := rfl

end Sys2Proof.Machine
end

