-- ==== Sys2Proof/Laws/Memory.lean ====
section
/-! SUPPORT. Laws/Memory.lean: every operation that writes a byte memory keeps its canonical form, reads leave the bytes as they
are, and a line read back gives what was written. -/

namespace Sys2Proof.Machine

open Sys2Proof

theorem reset_memory : State.reset.mem.wf = true ∧ memoryWf State.reset.host.mem = true := ⟨rfl, rfl⟩

theorem memoryWf_zeroBytes (m : List Host.Cell) (a n : Nat) (h : memoryWf m = true) : memoryWf (zeroBytes m a n) = true := mapWf_mclear 0 m a n h

/-- What each address reads as after a span was zeroed. -/
theorem readByte_zeroBytes (m : List Host.Cell) (a n x : Nat) : readByte (zeroBytes m a n) x = if a ≤ x ∧ x < a + n then 0 else readByte m x :=
  mget_mclear 0 m a n x

/-! ### The host's memory -/

theorem hostWrite_wf (s : State) (a : Nat) (bs : List Byte) (h : memoryWf s.host.mem = true) : memoryWf (hostWrite s a bs).host.mem = true :=
  memoryWf_writeBytes _ _ _ h

theorem busWrite_wf (s : State) (a : Nat) (bs : List Byte) (h : memoryWf s.host.mem = true) : memoryWf (busWrite s a bs).host.mem = true := by
  unfold busWrite
  split
  · exact h
  · exact hostWrite_wf s a bs h

@[simp] theorem cacheTranslation_mem (s : State) (o a n : Nat) (w : Bool) : (cacheTranslation s o a n w).host.mem = s.host.mem := by
  unfold cacheTranslation
  split
  · split <;> rfl
  · rfl

theorem hostWriteDev_wf (s : State) (o a : Nat) (bs : List Byte) (h : memoryWf s.host.mem = true) : memoryWf (hostWriteDev s o a bs).host.mem = true := by
  unfold hostWriteDev
  split
  · exact hostWrite_wf _ _ _ (by rw [cacheTranslation_mem]; exact h)
  · exact h

/-- What the host makes visible before it rings keeps its memory's form. -/
theorem posted_wf (posted : List (Nat × Byte)) (m : List Host.Cell) (h : memoryWf m = true) :
    memoryWf (posted.foldl (fun m e => writeBytes m e.1 [e.2]) m) = true := by
  induction posted generalizing m with
  | nil => exact h
  | cons e t ih => exact ih _ (memoryWf_writeBytes _ _ _ h)

/-! ### The stacks -/

@[simp] theorem modStack_bytes (s : State) (k : Nat) (f : Stack → Stack) : (modStack s k f).mem.bytes = s.mem.bytes := rfl
@[simp] theorem countStack_bytes (s : State) (k i n : Nat) : (countStack s k i n).mem.bytes = s.mem.bytes := rfl

/-- A read at a stack foot leaves every byte. -/
@[simp] theorem footRead_bytes (s : State) (line key : Nat) (errs : List (Nat × Byte)) : (footRead s line key errs).1.mem.bytes = s.mem.bytes := by
  unfold footRead
  dsimp only
  split
  · rfl
  · split
    · rfl
    · rfl
    · split
      · rfl
      · dsimp only; split <;> rfl

theorem footWrite_wf (s : State) (line key : Nat) (data : List Byte) (poison : Bool) (h : s.mem.wf = true) : (footWrite s line key data poison).mem.wf = true := by
  unfold footWrite
  dsimp only
  split
  · exact h
  · exact memoryWf_writeBytes _ _ _ h

/-- A write at a stack foot changes no byte outside its line. -/
theorem footWrite_elsewhere (s : State) (line key : Nat) (data : List Byte) (poison : Bool) (x : Nat) (h : x < 128 * line ∨ 128 * line + 128 ≤ x) :
    readByte (footWrite s line key data poison).mem.bytes x = readByte s.mem.bytes x := by
  unfold footWrite
  dsimp only
  split
  · rfl
  · dsimp only
    rw [readByte_writeBytes, if_neg]
    · rfl
    · have hl : (if poison then zeroLine else bytesAt data 0 128).length = 128 := by
        split
        · rfl
        · simp only [bytesAt, List.drop_zero, List.length_append, List.length_take, List.length_replicate]; omega
      rw [hl]; omega

theorem copyLine_wf (s : State) (line : Nat) (h : s.mem.wf = true) : (copyLine s line).mem.wf = true := by
  unfold copyLine
  dsimp only
  split
  · exact h
  · exact memoryWf_zeroBytes _ _ _ h

/-! ### The scratchpads -/

theorem writePiece_wf (c : Cell) (o : Nat) (bs : List Byte) (p : Bool) (h : memoryWf c.sp = true) : memoryWf (writePiece c o bs p).sp = true :=
  memoryWf_writeBytes _ _ _ h

theorem spWrite_wf (c : Cell) (o : Nat) (bs : List Byte) (p : Bool) (h : memoryWf c.sp = true) : memoryWf (spWrite c o bs p).sp = true := by
  unfold spWrite
  generalize pieces (bs.length / rowBytes + 2) o bs = l
  induction l generalizing c with
  | nil => exact h
  | cons e t ih => exact ih _ (writePiece_wf c e.1 e.2 p h)

end Sys2Proof.Machine
end

