-- ==== Sys2Proof/Laws/Objects.lean ====
section
/-! SUPPORT. Laws/Objects.lean: reading what was written, and reading an object through a host window. -/

namespace Sys2Proof.Machine

open Sys2Proof

@[simp] theorem length_readBytes (m : List Host.Cell) (a n : Nat) : (readBytes m a n).length = n := by
  induction n generalizing a with
  | zero => rfl
  | succ n ih => simp [readBytes, ih]

theorem readBytes_add (m : List Host.Cell) (a p q : Nat) : readBytes m a (p + q) = readBytes m a p ++ readBytes m (a + p) q := by
  induction p generalizing a with
  | zero => simp [readBytes]
  | succ p ih => rw [Nat.succ_add, readBytes, readBytes, ih, List.cons_append, Nat.add_assoc, Nat.add_comm 1 p]

theorem getElem_readBytes (m : List Host.Cell) (a n k : Nat) (h : k < (readBytes m a n).length) : (readBytes m a n)[k] = readByte m (a + k) := by
  induction n generalizing a k with
  | zero => simp [readBytes] at h
  | succ n ih =>
    cases k with
    | zero => rfl
    | succ k =>
      have h1 : k < (readBytes m (a + 1) n).length := by simpa [readBytes] using h
      have h2 := ih (a + 1) k h1
      simp only [readBytes, List.getElem_cons_succ]
      rw [h2]; congr 1; omega

/-- Reading where a byte string was written gives it back. -/
theorem readBytes_writeBytes (m : List Host.Cell) (a : Nat) (bs : List Byte) : readBytes (writeBytes m a bs) a bs.length = bs := by
  apply List.ext_getElem
  · simp
  · intro k h1 h2
    rw [getElem_readBytes, readByte_writeBytes, if_pos (by omega), Nat.add_sub_cancel_left, List.getD_eq_getElem?_getD, List.getElem?_eq_getElem h2]; rfl

/-- Where the host windows lie (Table 1-6). -/
theorem placeOf_host (a : Nat) (h1 : 0x400000000000 ≤ a) (h2 : a < 0x1000000000000) : placeOf a = .host := by
  have h0 : ¬ a < 24 * stackSize := by simp only [stackSize]; omega
  simp only [placeOf, if_neg h0, if_pos h2]
  repeat' split
  all_goals first | rfl | (exfalso; omega)

/-- A read of a host window whose translations are cached leaves everything at the host as it is. -/
theorem readAt_host (s : State) (x : Actor) (a n h : Nat) (hp : placeOf a = .host) (ht : hostTarget s x.owner a n false = some h)
    (hc : (cacheTranslation s x.owner a n false).host = s.host) :
    (readAt s x a n).2 = (readBytes s.host.mem h n, false, 0) ∧ (readAt s x a n).1.host = s.host := by
  simp only [readAt, hp, ht]
  exact ⟨rfl, hc⟩

/-- An aligned object that a host window holds whole reads as the host's bytes behind it, without poison. -/
theorem readObj_host (s : State) (owner addr n base : Nat) (ha : addr % 128 = 0) (hp : ∀ o, o < n → placeOf (addr + o) = .host)
    (ht : ∀ t : State, t.host = s.host → ∀ o m, o + m ≤ n →
      hostTarget t owner (addr + o) m false = some (base + o) ∧ (cacheTranslation t owner (addr + o) m false).host = t.host) :
    (readObj s owner addr n).2 = (readBytes s.host.mem base n, false) := by
  have key : ∀ (fuel o m : Nat) (st : State) (acc : List Byte), o % 128 = 0 → m ≤ 128 * fuel → o + m ≤ n → st.host = s.host →
      ((cuts 128 fuel (addr + o) o m).foldl (fun (a : State × List Byte × Bool) c =>
        let (s1, bs, p, _) := readAt a.1 { owner := owner, cluster := 0, self := none, context := 0xFFFF } (addr + c.1) c.2
        (s1, a.2.1 ++ bs, a.2.2 || p)) (st, acc, false)).2 = (acc ++ readBytes s.host.mem (base + o) m, false) := by
    intro fuel
    induction fuel with
    | zero =>
      intro o m st acc _ hm _ _
      have : m = 0 := by omega
      subst this; simp [cuts, readBytes]
    | succ fuel ih =>
      intro o m st acc ho hm hn h1
      by_cases h0 : m = 0
      · subst h0; simp [cuts, readBytes]
      · have hc : 128 - (addr + o) % 128 = 128 := by omega
        have hr := readAt_host st { owner := owner, cluster := 0, self := none, context := 0xFFFF } (addr + o) (min m 128) (base + o) (hp o (by omega))
          (ht st h1 o _ (by omega)).1 (ht st h1 o _ (by omega)).2
        rw [cuts, if_neg h0]
        simp only [hc, List.foldl_cons]
        generalize hg : readAt st { owner := owner, cluster := 0, self := none, context := 0xFFFF } (addr + o) (min m 128) = r at hr
        obtain ⟨s1, bs, p, d⟩ := r
        simp only [Prod.mk.injEq] at hr
        obtain ⟨⟨rfl, rfl, -⟩, hm1⟩ := hr
        simp only [Bool.or_false]
        by_cases h128 : 128 ≤ m
        · rw [Nat.min_eq_right h128, Nat.add_assoc, ih (o + 128) (m - 128) s1 _ (by omega) (by omega) (by omega) (hm1.trans h1), List.append_assoc, h1]
          have := readBytes_add s.host.mem (base + o) 128 (m - 128)
          rw [show 128 + (m - 128) = m by omega] at this
          rw [this, Nat.add_assoc base o 128]
        · rw [Nat.min_eq_left (by omega), Nat.sub_self, h1]
          cases fuel <;> simp [cuts]
  have := key (n / 128 + 2) 0 n s [] (by omega) (by omega) (by omega) rfl
  simpa [readObj] using this

end Sys2Proof.Machine
end

