-- ==== Sys2Proof/Laws/Ops.lean ====
section
/-! SUPPORT. Laws/Ops.lean: the shared operations, each said once: what issuing an operation in a cell can do, what starting a command
can do, and what a status reply changes. -/

namespace Sys2Proof.Machine

open Sys2Proof

/-! ### Steps -/

/-- On an empty queue the block idles. -/
theorem step_nil (s : State) (h : s.pending = []) : step s = .next s := by unfold step; rw [h]

theorem step_cons (s : State) (i : Instr) (r : List Instr) (h : s.pending = i :: r) : step s = exec i { s with pending := r } := by unfold step; rw [h]

/-! ### Issuing an operation in a cell -/

/-- Everything issuing can do: it is refused only for a cell or a field that does not exist; an operation that the sequencer is not at
changes nothing; a queued operation is performed, or held while its queue is full; a sequencer operation is executed, or held. -/
theorem issueOp_cases (s : State) (cell : Nat) (op : TileOp) (errs : RowErrs) :
    ((cellOk cell && op.ok) = false ∧ issueOp s cell op errs = .refused (.noSuchUnit "cell or operation field"))
      ∨ ((cellOk cell && op.ok) = true ∧ canIssue (cellOf s cell) op = false ∧ issueOp s cell op errs = .next s)
      ∨ ((cellOk cell && op.ok) = true ∧ canIssue (cellOf s cell) op = true
          ∧ ((∃ q, queueOf op = some q ∧ issueOp s cell op errs = .next (if queueFull (cellOf s cell) q then holdOp s cell op 0 else performQueued s cell op q errs))
            ∨ (queueOf op = none ∧ seqReady (cellOf s cell) op = true ∧ issueOp s cell op errs = .next (performSeq s cell op))
            ∨ (queueOf op = none ∧ seqReady (cellOf s cell) op = false
                ∧ ((∃ j n p, op = .semWait j n p ∧ issueOp s cell op errs
                      = .next (modCell (holdOp s cell op (semOf (cellOf s cell) j).value) cell (fun c => joinSem c j (.sequencer n p) true)))
                  ∨ ((∀ j n p, op ≠ .semWait j n p) ∧ issueOp s cell op errs = .next (holdOp s cell op 0)))))) := by
  unfold issueOp
  cases hok : (cellOk cell && op.ok) with
  | false => left; cases h1 : cellOk cell <;> simp_all
  | true =>
    rw [Bool.and_eq_true] at hok
    rw [hok.1, hok.2]
    simp only [Bool.not_true, Bool.or_self, Bool.false_eq_true, if_false]
    cases hw : canIssue (cellOf s cell) op with
    | false => exact .inr (.inl ⟨trivial, rfl, by simp⟩)
    | true =>
      refine .inr (.inr ⟨trivial, rfl, ?_⟩)
      simp only [Bool.not_true, Bool.false_eq_true, if_false]
      cases hq : queueOf op with
      | some q => exact .inl ⟨q, rfl, rfl⟩
      | none =>
        cases hr : seqReady (cellOf s cell) op with
        | true => exact .inr (.inl ⟨rfl, rfl, by simp⟩)
        | false =>
          refine .inr (.inr ⟨rfl, rfl, ?_⟩)
          simp only [Bool.false_eq_true, if_false]
          cases op
          case semWait j n p => exact .inl ⟨j, n, p, rfl, rfl⟩
          all_goals exact .inr ⟨fun _ _ _ h => TileOp.noConfusion h, rfl⟩

/-- Issuing with a cell and fields that exist answers a next state. -/
theorem issueOp_answers (s : State) (cell : Nat) (op : TileOp) (errs : RowErrs) (hc : cellOk cell = true) (ho : op.ok = true) : Answers (issueOp s cell op errs) := by
  have hok : (cellOk cell && op.ok) = true := by rw [hc, ho]; rfl
  rcases issueOp_cases s cell op errs with ⟨h, _⟩ | ⟨_, _, h⟩ | ⟨_, _, ⟨q, _, h⟩ | ⟨_, _, h⟩ | ⟨_, _, ⟨_, _, _, _, h⟩ | ⟨_, h⟩⟩⟩
  · rw [hok] at h; cases h
  all_goals exact ⟨_, h⟩

/-- A free cell performs a queued operation at once. -/
theorem issueOp_queued (s : State) (cell : Nat) (op : TileOp) (q : CellQueue) (errs : RowErrs) (hf : CellFree s cell op q) (ho : op.ok = true) (hq : queueOf op = some q) :
    issueOp s cell op errs = .next (performQueued s cell op q errs) := by
  obtain ⟨⟨hc, hi⟩, hfull⟩ := hf
  unfold issueOp
  simp [hc, ho, hi, hq, hfull]

/-- A ready cell's sequencer executes an operation of its own that need not wait. -/
theorem issueOp_seq (s : State) (cell : Nat) (op : TileOp) (errs : RowErrs) (hf : CellReady s cell op) (ho : op.ok = true) (hq : queueOf op = none) (hr : seqReady (cellOf s cell) op = true) :
    issueOp s cell op errs = .next (performSeq s cell op) := by
  obtain ⟨hc, hi⟩ := hf
  unfold issueOp
  simp [hc, ho, hi, hq, hr]

/-- Where no error strikes a row that an operation reads, the rows are as they stand. -/
@[simp] theorem strikeRows_nil (s : State) (cell : Nat) (rows : List Nat) : strikeRows s cell rows [] = s := rfl

/-- An operation that faults leaves a fault and nothing else of its own. -/
theorem performQueued_fault (s : State) (cell code : Nat) (op : TileOp) (q : CellQueue) (h : opEffect s cell op = .fault code) :
    performQueued s cell op q [] = tileFault s cell code := by
  unfold performQueued; rw [strikeRows_nil]; dsimp only; rw [h]

theorem performQueued_done (s : State) (cell : Nat) (op : TileOp) (q : CellQueue) (e : OpEffect) (h : opEffect s cell op = .done e) :
    performQueued s cell op q [] = startOp s cell op q e := by
  unfold performQueued; rw [strikeRows_nil]; dsimp only; rw [h]

/-- An operation that does not fault changes its cell, its cluster's counters and the model's own counter, and nothing else. -/
theorem startOp_frame (s : State) (cell : Nat) (op : TileOp) (q : CellQueue) (e : OpEffect) :
    { startOp s cell op q e with cells := s.cells, clusters := s.clusters, freeCount := s.freeCount } = s
      ∧ ∀ n, n ≠ cell → cellOf (startOp s cell op q e) n = cellOf s n := by
  unfold startOp
  dsimp only
  split
  · exact ⟨rfl, fun n hn => by rw [cellOf_setCell, if_neg hn]; rfl⟩
  · exact ⟨rfl, fun n hn => by
      show cellOf (modCluster _ _ _) n = _
      rw [show ∀ (t : State) k f, cellOf (modCluster t k f) n = cellOf t n from fun _ _ _ => rfl, cellOf_setCell, if_neg hn]; rfl⟩

/-! ### Engines -/

@[simp] theorem engOf_setEng_self (s : State) (e : Engine) (x : Eng) : engOf (setEng s e x) e = x := by
  cases e <;> simp [engOf, setEng]

@[simp] theorem engOf_modEng_self (s : State) (e : Engine) (f : Eng → Eng) : engOf (modEng s e f) e = f (engOf s e) := engOf_setEng_self s e _

/-- An update of an engine changes cells and clusters at most. -/
theorem setEng_frame (s : State) (e : Engine) (x : Eng) : { setEng s e x with cells := s.cells, clusters := s.clusters } = s := by
  cases e <;> rfl

/-! ### Starting a command -/

/-- Everything starting a command can do: the gate holds it; a check fails, and it is rejected with that check's status; or it
takes its effect. It never stops. -/
theorem runCommand_cases (s : State) (i : Instr) (h : CmdHdr) (a b c : List Check) (f : State → State) :
    (gateHolds s i h = true ∧ runCommand s i h a b c f = .next s)
      ∨ (gateHolds s i h = false ∧ ∃ st d r, firstFail ([rightsCheck i h] ++ a ++ [partitionCheck i h] ++ b ++ [stateCheck s i h] ++ c) = some (st, d, r)
          ∧ runCommand s i h a b c f = .next (reject (begin s i) h (opcodeOf i) st d r))
      ∨ (gateHolds s i h = false ∧ firstFail ([rightsCheck i h] ++ a ++ [partitionCheck i h] ++ b ++ [stateCheck s i h] ++ c) = none
          ∧ runCommand s i h a b c f = .next (f (begin s i))) := by
  unfold runCommand
  cases hg : gateHolds s i h with
  | true => exact .inl ⟨rfl, by simp⟩
  | false =>
    simp only [Bool.false_eq_true, if_false]
    cases hf : firstFail ([rightsCheck i h] ++ a ++ [partitionCheck i h] ++ b ++ [stateCheck s i h] ++ c) with
    | none => exact .inr (.inr ⟨trivial, rfl, rfl⟩)
    | some e => obtain ⟨st, d, r⟩ := e; exact .inr (.inl ⟨trivial, st, d, r, rfl, rfl⟩)

theorem runCommand_answers (s : State) (i : Instr) (h : CmdHdr) (a b c : List Check) (f : State → State) : Answers (runCommand s i h a b c f) := by
  rcases runCommand_cases s i h a b c f with ⟨_, e⟩ | ⟨_, _, _, _, _, e⟩ | ⟨_, _, e⟩ <;> exact ⟨_, e⟩

/-- The first failing check of a list of passing checks and then more is the first of those. -/
theorem firstFail_cons_none (l : List Check) : firstFail (none :: l) = firstFail l := rfl
theorem firstFail_cons_some (e : Nat × Nat × Nat) (l : List Check) : firstFail (some e :: l) = some e := rfl
theorem firstFail_append (l m : List Check) : firstFail (l ++ m) = (firstFail l).or (firstFail m) := by unfold firstFail; exact List.findSome?_append ..
theorem firstFail_none_iff (l : List Check) : firstFail l = none ↔ ∀ c ∈ l, c = none := by simp [firstFail]
@[simp] theorem need_none (ok : Bool) (st d : Nat) : need ok st d = none ↔ ok = true := by cases ok <;> simp [need]

/-! ### Status replies -/

/-- A reply changes the host's side and the byte counts of the host link, and nothing else. -/
theorem writeReply_frame (s : State) (h : CmdHdr) (op st r r2 d : Nat) : { writeReply s h op st r r2 d with host := s.host, obs := s.obs } = s := by
  unfold writeReply
  split
  · rfl
  · unfold busWrite msix
    dsimp only
    split <;> (try split) <;> (try split) <;> rfl

/-- A reply whose ring is gone is discarded. -/
theorem writeReply_gone (s : State) (h : CmdHdr) (op st r r2 d : Nat) (hr : ringOf s h = none) : writeReply s h op st r r2 d = s := by
  unfold writeReply; rw [hr]

theorem reject_frame (s : State) (h : CmdHdr) (op st d r : Nat) : { reject s h op st d r with host := s.host, obs := s.obs } = s := by
  have := writeReply_frame { s with host := { s.host with qrejRejected := madd s.host.qrejRejected h.queue 1 } } h op st r 0 d
  unfold reject
  have e := congrArg (fun t : State => { t with host := s.host, obs := s.obs }) this
  exact e

theorem finish_frame (s : State) (h : CmdHdr) (i : Instr) (st r r2 : Nat) : { finish s h i st r r2 with host := s.host, obs := s.obs } = s :=
  writeReply_frame s h _ st r r2 _

theorem writeReply_wf (s : State) (h : CmdHdr) (op st r r2 d : Nat) (hm : memoryWf s.host.mem = true) : memoryWf (writeReply s h op st r r2 d).host.mem = true := by
  unfold writeReply
  split
  · exact hm
  · rename_i x _
    have := busWrite_wf s (x.cqBase + 32 * x.cqTail) (replyBytes h op st r r2 d x.phase) hm
    unfold msix
    dsimp only
    split
    · split <;> exact this
    · exact this

end Sys2Proof.Machine
end

