-- ==== Sys2Proof/Tests/Slice0.lean ====
section
/-! SUPPORT. Tests/Slice0.lean: a witness for the hypotheses of every statement, clause by clause and at the ends of its ranges, and
small checks of single steps, tables and worked examples of spec/. Hypotheses that rest on a free value of Config, such as a
signature that verifies, stand as hypotheses of the witness. -/

namespace Sys2Proof.Machine

open Sys2Proof

-- one proof after another: proofs that wait for the kernel each hold a thread
set_option Elab.async false

/-! ### Small states -/

/-- The state after reset, with one cell as given. -/
def withCell (n : Nat) (c : Cell) : State := { State.reset with cells := [(n, c)] }

/-- A module that is ready, with what is given changed. -/
def up : State := { State.reset with ready := true }

/-! ### Tile operations -/

/-- A cell whose tile runs and stands at an operation, with another behind it. -/
def standing (op : TileOp) (c : Cell) : Cell := { c with active := true, tile := [BitVec.ofNat 64 (encodeTile op), 0] }
def stateAt (op : TileOp) (c : Cell) : State := withCell 4095 (standing op c)

theorem test_witness_VectorArithmetic :
    CellFree (stateAt (.vadd 7 0 6) {}) 4095 (.vadd 7 0 6) .vector ∧ CellFree (stateAt (.vfma 7 0 6 1) {}) 4095 (.vfma 7 0 6 1) .vector
      ∧ CellFree (stateAt (.vbcast 7 0x3F800000) {}) 4095 (.vbcast 7 0x3F800000) .vector ∧ vOk 7 = true ∧ vOk 0 = true ∧ vOk 6 = true ∧ vOk 1 = true
      ∧ cellOk 4095 = true ∧ canIssue (standing (.vadd 7 0 6) {}) (.vsub 7 0 6) = false := by
  unfold CellFree CellReady; and_intros <;> decide +kernel

theorem test_witness_VectorTreesAndFunctions :
    vOk 7 = true ∧ vOk 0 = true ∧ CellFree (stateAt (.vrsum 7 0) {}) 4095 (.vrsum 7 0) .vector ∧ CellFree (stateAt (.log2 7 0) {}) 4095 (.log2 7 0) .sfu := by
  unfold CellFree CellReady; and_intros <;> decide +kernel

/-- A cell whose a0 and a1 lie at the last places where a mask, or 128 bytes, still fit. -/
def atEnd : Cell := { a := [(0, 0x3FFF8), (15, 0x3FF80)] }

theorem test_witness_VectorLoads :
    CellFree (stateAt (.vld 7 15 1 0) atEnd) 4095 (.vld 7 15 1 0) .vector ∧ vOk 7 = true ∧ aOk 15 = true ∧ 13 ≤ 13 ∧ (∀ i ∈ atEnd.issued, i.writes = [])
      -- 64 values of BF16 in the last 128 bytes, and 64 of a block format with their scales
      ∧ vecAddr atEnd 15 0 = some 0x3FF80 ∧ outOfRange 0x3FF80 (elemBytes 1 64) = false ∧ 0x3FF80 % max 1 (fmtBits 1 / 8) = 0
      ∧ (tileRead [] atEnd .vector 0 0x3FF80 (elemBytes 1 64)).poisoned = false ∧ (tileRead [] atEnd .vector 0 (aReg atEnd 0) 0).poisoned = false
      ∧ CellFree (stateAt (.vld 7 15 13 (-0x3FF80)) atEnd) 4095 (.vld 7 15 13 (-0x3FF80)) .vector
      ∧ vecAddr atEnd 15 (-0x3FF80) = some 0 ∧ outOfRange 0 (elemBytes 13 64) = false ∧ outOfRange (aReg atEnd 0) 4 = false
      ∧ (tileRead [] atEnd .vector 0 0 (elemBytes 13 64)).poisoned = false ∧ (tileRead [] atEnd .vector 0 (aReg atEnd 0) 4).poisoned = false
      -- a mask in the last 8 bytes
      ∧ CellFree (stateAt (.vmsk 7 0 0 1) atEnd) 4095 (.vmsk 7 0 0 1) .vector ∧ outOfRange (aReg atEnd 0) 8 = false ∧ aReg atEnd 0 % 8 = 0
      ∧ (tileRead [] atEnd .vector 0 (aReg atEnd 0) 8).poisoned = false := by
  unfold CellFree CellReady; and_intros <;> decide +kernel

/-- A descriptor that an earlier MOVE DESC has yet to hand over. -/
def blankDesc : QDesc := { raw := [], generation := 0, context := 0, step := 0, tile := 0, misaligned := false }
def waitingMove : Cell := { issued := [{ plainIssued .mover (.moveDesc 0) with desc := some blankDesc }] }

theorem test_witness_VectorStores :
    CellFree (stateAt (.vst 7 15 1 true 0) atEnd) 4095 (.vst 7 15 1 true 0) .vector ∧ vOk 7 = true ∧ aOk 15 = true ∧ fmtBlock 1 = none ∧ vecAddr atEnd 15 0 = some 0x3FF80
      ∧ outOfRange 0x3FF80 (elemBytes 1 64) = false ∧ 0x3FF80 % max 1 (fmtBits 1 / 8) = 0
      ∧ CellFree (stateAt (.moveFlags 0) atEnd) 4095 (.moveFlags 0) .mover ∧ outOfRange (aReg atEnd 0) 8 = false ∧ aReg atEnd 0 % 8 = 0 ∧ moverWaits atEnd = false
      ∧ CellFree (stateAt (.moveFlags 0) waitingMove) 4095 (.moveFlags 0) .mover ∧ outOfRange (aReg waitingMove 0) 8 = false ∧ moverWaits waitingMove = true
      ∧ ∀ i ∈ atEnd.issued, i.raised = quiet := by
  unfold CellFree CellReady; and_intros <;> decide +kernel

/-- One row of BF16 by BF16 into the last accumulator row. -/
def smallRun : RunOp :=
  { acc := true, ta := false, tb := false, fmtA := 1, fmtB := 1, raElem := 0, raScale := 0, rbElem := 1, rbScale := 0, mMinus1 := 0, bank := 1, accRow := 127, kUnits := 1 }

/-- The same in a block format, whose scales stand at a2 and a3. -/
def blockRun : RunOp := { smallRun with fmtA := 6, fmtB := 6, raScale := 2, rbScale := 3, kUnits := 4 }

theorem test_witness_MatrixRun :
    CellFree (stateAt (.run smallRun) {}) 4095 (.run smallRun) .run ∧ smallRun.ok = true ∧ outOfRange 0 (elemBytes 1 8) = false ∧ outOfRange 0 (elemBytes 1 256) = false
      ∧ (tileRead [] {} .run 0 0 16).poisoned = false ∧ (tileRead [] {} .run 0 0 512).poisoned = false ∧ (tileRead [] {} .run 0 0 0).poisoned = false
      ∧ CellFree (stateAt (.run blockRun) {}) 4095 (.run blockRun) .run ∧ blockRun.ok = true ∧ outOfRange 0 (elemBytes 6 32) = false ∧ outOfRange 0 (elemBytes 6 1024) = false
      ∧ outOfRange 0 1 = false ∧ outOfRange 0 32 = false
      ∧ (tileRead [] {} .run 0 0 32).poisoned = false ∧ (tileRead [] {} .run 0 0 1024).poisoned = false ∧ (tileRead [] {} .run 0 0 1).poisoned = false := by
  unfold CellFree CellReady; and_intros <;> decide +kernel

/-- The last four accumulator rows to FP32 with a bias for each column. -/
def smallDrain : DrainOp :=
  { sat := false, fmtOut := 0, rdElem := 0, rdScale := 0, fusion := 1, rf := 1, bank := 1, accRow := 124, rowsMinus1 := 3, statMode := 2, statSlot := 7, outPitch := 8 }

theorem test_witness_MatrixDrain :
    CellFree (stateAt (.drain smallDrain) {}) 4095 (.drain smallDrain) .drain ∧ smallDrain.ok = true ∧ fmtBlock smallDrain.fmtOut = none
      ∧ outOfRange 0 (3 * 128 + elemBytes 0 32) = false ∧ outOfRange 0 (fusionBytes 1 4) = false ∧ (tileRead [] {} .drain 0 0 (fusionBytes 1 4)).poisoned = false := by
  unfold CellFree CellReady; and_intros <;> decide +kernel

theorem test_witness_Statistics :
    CellFree (stateAt (.statSum 7 7 64) {}) 4095 (.statSum 7 7 64) .stat ∧ CellFree (stateAt (.statClr 0xFF) {}) 4095 (.statClr 0xFF) .stat
      ∧ CellFree (stateAt (.statMax 0 7 1) {}) 4095 (.statMax 0 7 1) .stat ∧ CellFree (stateAt (.statRead 7 7) {}) 4095 (.statRead 7 7) .stat
      ∧ 7 < 8 ∧ vOk 7 = true ∧ 1 ≤ 64 ∧ 64 ≤ 64 ∧ ∀ i ∈ (cellOf State.reset 0).issued, i.feeds = [] := by
  unfold CellFree CellReady; and_intros <;> decide +kernel

theorem test_witness_MoveDescriptor :
    CellFree (stateAt (.moveDesc 15) {}) 4095 (.moveDesc 15) .mover ∧ aOk 15 = true ∧ outOfRange 0 64 = false ∧ (tileRead [] {} .mover 0 0 64).poisoned = false
      ∧ TileGoesOn (standing (.moveDesc 15) {}) ∧ (standing (.moveDesc 15) {}).mover.xfers.length < 8 ∧ moverWaits (standing (.moveDesc 15) {}) = false
      ∧ CellFree (stateAt (.moveDesc 15) waitingMove) 4095 (.moveDesc 15) .mover ∧ TileGoesOn (standing (.moveDesc 15) waitingMove) ∧ moverWaits waitingMove = true := by
  unfold CellFree CellReady TileGoesOn; and_intros <;> decide +kernel

theorem test_witness_SequencerOperations :
    CellReady (stateAt (.swap 15) {}) 4095 (.swap 15) ∧ accessesDone (standing (.swap 15) {}) = true ∧ aOk 15 = true ∧ cellOk 4095 = true ∧ (0x3F : BitVec 6) ≠ 0
      ∧ TileGoesOn (cellOf (stateAt (.swap 15) {}) 4095)
      ∧ CellReady (stateAt (.semWait 63 65535 true) { sem := [(63, { value := 65535 })] }) 4095 (.semWait 63 65535 true)
      ∧ 65535 ≤ (semOf (cellOf (stateAt (.semWait 63 65535 true) { sem := [(63, { value := 65535 })] }) 4095) 63).value
      ∧ CellReady (stateAt (.semPost 63 65535 true 0) {}) 4095 (.semPost 63 65535 true 0) ∧ writesDone (standing (.semPost 63 65535 true 0) {}) = true
      ∧ (semOf (cellOf (stateAt (.semPost 63 65535 true 0) {}) 0) 63).value + 65535 ≤ 65535
      ∧ CellReady (stateAt (.fence 0x3F) {}) 4095 (.fence 0x3F) ∧ fenceDone (standing (.fence 0x3F) {}) 0x3F = true
      ∧ CellReady (stateAt (.loopAset 15 7) {}) 4095 (.loopAset 15 7) ∧ CellReady (stateAt (.loopAadd 15 0x80000000) {}) 4095 (.loopAadd 15 0x80000000) := by
  unfold CellReady TileGoesOn; and_intros <;> decide +kernel

theorem test_witness_Loops :
    CellReady (stateAt (.loopKset 3 65535) {}) 4095 (.loopKset 3 65535) ∧ kOk 3 = true ∧ ({} : Cell).loops = [] ∧ (standing (.loopKset 3 65535) {}).pc + 1 < (standing (.loopKset 3 65535) {}).tile.length
      ∧ CellReady (stateAt (.loopBegin 3 1) { k := [(3, 2)] }) 4095 (.loopBegin 3 1) ∧ mget 0 (standing (.loopBegin 3 1) { k := [(3, 2)] }).k 3 ≠ 0
      ∧ (standing (.loopBegin 3 1) {}).pc + 1 < (standing (.loopBegin 3 1) {}).tile.length
      ∧ CellReady (withCell 0 { standing (.loopBegin 0 1) {} with tile := [BitVec.ofNat 64 (encodeTile (.loopBegin 0 1)), 0, 0] }) 0 (.loopBegin 0 1)
      ∧ mget 0 ({} : Cell).k 0 = 0 ∧ 0 + 1 + 1 < [(0 : BitVec 64), 0, 0].length ∧ mget 0 [(3, (2 : BitVec 16))] 3 ≠ 1 := by
  unfold CellReady; and_intros <;> decide +kernel

/-- A cell whose vector queue is full, and one whose address register lies outside the scratchpad. -/
def fullQueue : Cell := { issued := List.replicate 4 (plainIssued .vector (.vmov 0 1)) }
def farAddress : Cell := { a := [(0, 0x40000)] }

theorem test_witness_SequencerHoldsAndFaults :
    CellReady (stateAt (.vmov 0 1) fullQueue) 4095 (.vmov 0 1) ∧ (TileOp.vmov 0 1).ok = true ∧ queueOf (.vmov 0 1) = some .vector ∧ queueFull fullQueue .vector = true
      ∧ CellReady (stateAt (.semWait 63 65535 false) {}) 4095 (.semWait 63 65535 false) ∧ (semOf (cellOf (stateAt (.semWait 63 65535 false) {}) 4095) 63).value < 65535
      ∧ (cellOf (withCell 0 { held := some (.swap 0) }) 0).held ≠ none
      ∧ CellFree (stateAt (.vld 0 0 0 0) farAddress) 4095 (.vld 0 0 0 0) .vector ∧ (TileOp.vld 0 0 0 0).ok = true ∧ queueOf (.vld 0 0 0 0) = some .vector := by
  unfold CellFree CellReady; and_intros <;> decide +kernel

theorem test_witness_fault_code_1 : opEffect (stateAt (.vld 0 0 0 0) farAddress) 4095 (.vld 0 0 0 0) = .fault 1 := by
  rfl

/-- A held SEM_WAIT that its count satisfies, an engine that waits for a count of one, and operations of one queue: one with a write
to perform, another that writes the same row. -/
def heldWait : Cell := { held := some (.semWait 63 2 false), sem := [(63, { value := 2 })], tile := [0, 0] }
def engineWait : Cell := { semQ := [(63, [.engine (.gather 255) .list 5 1])], sem := [(63, { value := 1 })] }
def collWait : Cell := { semQ := [(63, [.collective 1 5 1])], sem := [(63, { value := 1 })] }
def oneWrite : Issued := { plainIssued .vector (.vst 0 0 1 false 0) with writes := [(0x3FF80, [1, 2])] }
def twoIssued : Cell := { issued := [oneWrite, plainIssued .drain (.drain smallDrain)], tile := [0] }

theorem test_witness_HeldAndRetired :
    cellOk 4095 = true ∧ heldWait.held = some (.semWait 63 2 false) ∧ 2 ≤ (semOf heldWait 63).value ∧ State.reset.obs.traceOn = false ∧ TileGoesOn heldWait
      ∧ mget [] engineWait.semQ 63 = [.engine (.gather 255) .list 5 1] ∧ 1 ≤ (semOf engineWait 63).value
      ∧ mget [] collWait.semQ 63 = [.collective 1 5 1] ∧ 1 ≤ (semOf collWait 63).value
      ∧ queueOf (.vmov 0 1) = some .vector ∧ queueFull heldWait .vector = false ∧ queueFull fullQueue .vector = true ∧ queueOf (.semWait 63 2 false) = none
      ∧ seqReady { heldWait with sem := [] } (.semWait 63 2 false) = false
      ∧ oldestOf .vector [] twoIssued.issued = some ([], oneWrite) ∧ mayRetire twoIssued [] oneWrite = true
      ∧ (∀ x ∈ twoIssued.issued.eraseP (fun x => x.q == .vector), x.flagsAt = none) ∧ twoIssued.issued.eraseP (fun x => x.q == .vector) ≠ []
      ∧ mayRetire { issued := [oneWrite], active := true } [] oneWrite = true := by
  unfold TileGoesOn; and_intros <;> decide +kernel

/-! ### Contexts for the witnesses -/

def noParams : CtxCreateParams :=
  { requestedId := 0, priority := 0, group := false, frameLines := 8, pageEntries := 16, sessionSlots := 4, descUnits := 1, imageUnits := 1, dirUnits := 0, saveUnits := 0, sources := [] }

/-- A resident context of partition 3 without image, pages or steps. -/
def plainCtx : Ctx :=
  { partition := 3, state := .resident, residentSlot := true, priority := 0, group := false, pinned := false, unevictable := false, sources := [], params := noParams
    bankA := none, bankB := none, activeB := false, imageActive := false, switchPending := false, tables := [], pages := [], sessions := [], lastSeq := none, queue := []
    inFlight := none, abortNext := [], reload := [], blocked := false, stamp := 0, runnableSince := 0, holdOff := false, targetHalf := false, trainCopy := [], saved := []
    degradedGranules := [], acct := [], acctTick := [], change := none, reconcile := false, spanLost := false, nextStep := 1, degradeDue := false }

/-- The layout block of an image, at 0x40: region 0 is the 2 KiB from 0x800 on, open to others' reads and writes. -/
def windowImage : List Byte :=
  List.replicate 0x28 0 ++ leBytes 0x40 6 ++ leBytes 0x200 6 ++ leBytes 0 12 ++ leBytes 0x800 4 ++ leBytes 0x800 4 ++ leBytes 0x61 2 ++ List.replicate 22 0

/-- Context 31 runs, with that image active. -/
def openCtx : Ctx := { plainCtx with bankA := some { image := windowImage, generation := 0 }, imageActive := true }
def running (x : Ctx) : State := { up with ctxs := [(31, some x)], residency := { State.reset.residency with current := some 31 } }

/-- A step in flight. -/
def someHdr : CmdHdr := { fn := 0, queue := 0, ring := 0, sqPos := 5, tag := 7, alive := 9, ordered := false, irq := true, partition := 3 }
def someStep : Step :=
  { id := 0, startFrame := 0, hdr := someHdr, seq := some 1, bucket := 0, phase := 0, firstRow := 0, rowCount := 2, sessions := [], need := 0, accepted := 0, row := 0, started := true, latch := false
    replays := 0, overflowFrames := 0, overflowLeft := 0, masks := [], outputAddr := 0 }

/-! ### Windows, semaphores, credits and mailboxes -/

theorem test_witness_WindowWrites :
    (⟨3, 255⟩ : Source).ok = true ∧ cellGuard (running openCtx) 3 = true ∧ cellOk 4095 = true ∧ (∀ i ∈ (cellOf (running openCtx) 4095).issued, i.writes = [])
      ∧ placeOf (0x200000000000 + 4095 * 0x40000 + 0xFFF) = .window 4095 0xFFF ∧ 0xFFF + 1 ≤ spBytes
      ∧ regionAllows (layoutOf (running openCtx)) 0xFFF 1 true = true ∧ (running openCtx).obs.sameRowOn = false
      ∧ (semOf (cellOf (running openCtx) 4095) 63).value + 65535 ≤ 65535 ∧ (creditOf (cellOf (running openCtx) 4095) 31).value + 2047 ≤ 2047
      -- refused by the layout, one byte beyond the region; refused by the guard, another partition
      ∧ placeOf (0x200000000000 + 0xFFF) = .window 0 0xFFF ∧ regionAllows (layoutOf (running openCtx)) 0xFFF 2 true = false
      ∧ (⟨8, 0⟩ : Source).ok = true ∧ cellGuard (running openCtx) 8 = false := by
  and_intros <;> decide +kernel

/-- The semaphore holds one already: a post of 65,535 saturates it, with a step in flight. -/
def nearlyFull : State := { running { openCtx with inFlight := some someStep } with cells := [(4095, { sem := [(63, { value := 1 })] })] }

theorem test_witness_WindowWrites_saturation :
    cellGuard nearlyFull 3 = true ∧ 65535 < (semOf (cellOf nearlyFull 4095) 63).value + 65535 ∧ nearlyFull.residency.current = some 31
      ∧ ctxOf nearlyFull 31 = some { openCtx with inFlight := some someStep } ∧ AbortCause.overflow ∈ [AbortCause.tileFault, .overflow] := by
  and_intros <;> decide +kernel

/-- A transfer that awaits one acknowledgement. -/
def ackXfer : Xfer :=
  { task := 0, q := .list, desc := blankDesc, entry := 0, src := 0, dst := 0, codec := false, moved := true, cancelled := false, last := true, farTier := false, acks := 1, issuedAt := 0, work := [], poisoned := false }

theorem test_witness_WindowReadsAndMailboxes :
    (⟨3, 255⟩ : Source).ok = true ∧ cellGuard (running openCtx) 3 = true
      ∧ placeOf (0x200000000000 + 0xFFF) = .window 0 0xFFF ∧ regionAllows (layoutOf (running openCtx)) (0xFFF / rowBytes * rowBytes) rowBytes false = true
      ∧ placeOf 0x3000010007F8 = .mailbox 0 0x7F8 ∧ spanOk 0x3000010007F8 8 = true ∧ 0x7F8 + 8 ≤ 0x800
      ∧ (∀ i ∈ (cellOf (running openCtx) 0).issued, i.writes = []) ∧ ackXfer.work = []
      ∧ (Engine.mover 4095).ok = true ∧ (engOf (withCell 4095 { mover := { xfers := [ackXfer] } }) (.mover 4095)).xfers = [ackXfer] ∧ 0 < ackXfer.acks := by
  and_intros <;> decide +kernel

/-! ### Streaming engines and the codec -/

/-- The 64 bytes of a descriptor. -/
def rawDesc (op count length src dst list : Nat) : List Byte :=
  leBytes (op * 2 ^ 60 + count * 2 ^ 40 + length * 2 ^ 16) 8 ++ leBytes src 8 ++ leBytes dst 8 ++ leBytes list 8 ++ List.replicate 32 0
def descWith (raw : List Byte) : QDesc := { raw := raw, generation := 0, context := 31, step := 0, tile := 0, misaligned := false }

/-- A COPY between the windows of a mover's own cell, one of zero bytes, and a codec transfer from stack 0. -/
def copyDesc : QDesc := descWith (rawDesc 0 0 16 (0x200000000000 + 4095 * 0x40000) (0x200000000000 + 4095 * 0x40000 + 16) 0)
def emptyCopy : QDesc := descWith (rawDesc 0 0 0 0 0 0)
def codecDesc : QDesc := descWith (rawDesc 1 1 128 0 (0x200000000000 + 4095 * 0x40000) 0)
def listDesc : QDesc := descWith (rawDesc 2 2 128 0 0x200000000000 0)

def taskWith (q : EngQueue) (x : QDesc) : Task :=
  { id := 0, q := q, desc := x, issued := 0, ended := 0, queuedWait := false, granted := false, counted := false, written := 0, lastSeq := none, cursor := 0, spillAt := 0
    spillEnd := false, creditWait := false, waitAt := {} }

/-- A mover with a transfer to issue in both queues. -/
def bothQueues : Eng := { tasks := [taskWith .tile codecDesc, taskWith .list codecDesc] }

theorem test_witness_DescriptorsAndTransfers :
    engineFor (.mover 4095) .tile = true ∧ canAdmit (.mover 4095) { tileQ := [copyDesc] } .tile (descOf (.mover 4095) copyDesc.raw) = true
      ∧ descDefect (.mover 4095) .tile copyDesc = none
      ∧ canAdmit (.mover 4095) { tileQ := [emptyCopy] } .tile (descOf (.mover 4095) emptyCopy.raw) = true ∧ descDefect (.mover 4095) .tile emptyCopy = some stParamRange
      ∧ (unissued (.mover 4095) { tasks := [taskWith .tile codecDesc] } .tile).head? = some (taskWith .tile codecDesc)
      ∧ (descOf (.mover 4095) codecDesc.raw).op = 1 ∧ (descOf (.mover 4095) codecDesc.raw).waitN = 0 ∧ (descOf (.mover 4095) codecDesc.raw).useCredit = false
      ∧ (∀ k, Engine.mover 4095 = .mover k → unissued (.mover 4095) { tasks := [taskWith .tile codecDesc] } (otherQueue .tile) = [])
      ∧ (unissued (.mover 4095) bothQueues .tile).head? = some (taskWith .tile codecDesc) ∧ (unissued (.mover 4095) bothQueues (otherQueue .tile)).head? = some (taskWith .list codecDesc)
      ∧ bothQueues.turn = otherQueue .tile ∧ bothQueues.turn = .list ∧ bothQueues.xfers.length < 8
      ∧ placeOf (descOf (.mover 4095) codecDesc.raw).src ≠ .host := by
  and_intros <;> first | decide +kernel | (intro k h; cases h; decide +kernel)

/-- A transfer that has moved and one that awaits the far tier, at the last place. -/
def movedXfer : Xfer := { ackXfer with desc := copyDesc, acks := 0 }
def farXfer : Xfer := { ackXfer with q := .prefetch, desc := descWith (rawDesc 0 0 128 0x400000000000 0 0), moved := false, farTier := true, acks := 0 }
def movedEng : Eng := { xfers := [ackXfer, movedXfer], tasks := [taskWith .tile copyDesc] }

theorem test_witness_TransferCompletion :
    (Engine.mover 4095).ok = true ∧ movedEng.xfers[1]? = some movedXfer ∧ movedXfer.moved = true ∧ movedXfer.acks = 0 ∧ movedXfer.work = [] ∧ ackXfer.work = [] ∧ 0 < ackXfer.acks
      ∧ movedEng.tasks.find? (fun k => k.id == movedXfer.task) = some (taskWith .tile copyDesc) ∧ (taskWith .tile copyDesc).counted = false
      ∧ (descOf (.mover 4095) movedXfer.desc.raw).postInc = 0
      ∧ clusterOk 255 = true ∧ farXfer.farTier = true ∧ farXfer.moved = false ∧ farXfer.cancelled = false ∧ (descOf (.gather 255) farXfer.desc.raw).postInc = 0 := by
  and_intros <;> decide +kernel

/-- A list transfer whose block stands in stack 0, and a pack descriptor of one RAW block. -/
def listXfer : Xfer := { ackXfer with desc := listDesc, codec := true, moved := false, acks := 0 }
def listEng : Eng := { xfers := [listXfer], tasks := [taskWith .list listDesc] }

/-- A packer with a transfer that packs one RAW block of its own cluster's first cell into stack 0. -/
def packRaw : List Byte := List.replicate 64 0
def packXfer : Xfer := { ackXfer with q := .tile, desc := descWith packRaw, codec := true, moved := false, acks := 0 }

theorem test_witness_CodecBlocks :
    (Engine.gather 0).ok = true ∧ (∀ k, Engine.gather 0 ≠ .packer k) ∧ listEng.xfers[0]? = some listXfer
      ∧ listEng.tasks.find? (fun k => k.id == listXfer.task) = some (taskWith .list listDesc) ∧ listXfer.codec = true ∧ listXfer.moved = false
      ∧ blockHeld { State.reset with clusters := [(0, { gather := listEng })] } (.gather 0) 0 listXfer 0 (128 * blockLines State.reset 0) = false
      ∧ clusterOk 0 = true ∧ packXfer.moved = false
      ∧ blockHeld { State.reset with clusters := [(0, { packer := { xfers := [packXfer], tasks := [taskWith .tile (descWith packRaw)] } })] } (.packer 0) 0 packXfer 0 128 = false := by
  and_intros <;> first | decide +kernel | (intro k h; cases h)

/-- Pages in each state: a tentative one, a free spill frame and a quarantined one. -/
def pageOf_ (st : PageState) (spill : Bool) (frame : Nat) : Page :=
  { mapped := true, frame := frame, storedLines := 1, state := st, spill := spill, kindV := false, slot := 2, phaseSet := 0, supersedes := none, row := 0, place := 0 }
def pagedCtx : Ctx := { plainCtx with pages := [pageOf_ .tentative false 0, pageOf_ .free true 4096, pageOf_ .quarantined false 16384] }

def range3 : RangeEntry := { base := 0, size := 0x200000, owner := 3, hint := 0, landing := false, plain := true, prewarm := false, reserved := none, context := 31 }
def partsUp : SMap Part := [(3, { present := true, maxContexts := 4, maxQueues := 4, memKey := 4 })]
def pagedUp : State := { running pagedCtx with mem := { State.reset.mem with ranges := [(0, range3)] }, parts := partsUp }

theorem test_witness_PageResults :
    ctxOf (running pagedCtx) 31 = some pagedCtx ∧ pagedCtx.pages[0]? = some (pageOf_ .tentative false 0) ∧ 65 ≤ 65
      ∧ pagedCtx.pages[1]? = some (pageOf_ .free true 4096) ∧ (pageOf_ .free true 4096).spill = true ∧ (pageOf_ .free true 4096).mapped = true ∧ 0 ≠ 1
      ∧ pagedCtx.pages[2]? = some (pageOf_ .quarantined false 16384) ∧ 16384 % 128 = 0
      ∧ (∀ k, k < pageLines pagedCtx (pageOf_ .quarantined false 16384) → lineGone pagedUp (16384 / 128 + k) = false
        ∧ stackGuard pagedUp ⟨3, 0⟩ (16384 + 128 * k) 128 true = true ∧ (16384 / 128 + k) ∉ pagedUp.host.snoop ∧ ∀ w ∈ pagedUp.host.heldWrites, w.addr / 128 ≠ 16384 / 128 + k)
      ∧ calLines pagedUp (lineIn 16384 (128 * pageLines pagedCtx (pageOf_ .quarantined false 16384))) = [] := by
  and_intros <;> decide +kernel

/-! ### Caldera, stacks and the CXL.mem port -/

/-- A dirty line of partition 3 in stack 0, held in way 5 of its set. -/
def heldLine : CalLine := { way := 5, line := 3, owner := 3, dirty := true, poison := false, keep := false, data := List.replicate 128 0x11 }
def memUp : State := { running plainCtx with mem := { State.reset.mem with ranges := [(0, range3)] }, parts := partsUp }
def calUp : State := { memUp with mem := { memUp.mem with sets := [(setKey 384, { lines := [heldLine] })] } }
def calSnoop : State := { calUp with host := { calUp.host with snoop := [3] } }
/-- The same with a write of the line held for the host, and with its stack out of service. -/
def calWaits : State := { calSnoop with host := { calSnoop.host with heldWrites := [{ addr := 511, owner := 3, cluster := 0, data := [1], poison := false }] } }
def calDead : State := { calUp with mem := { calUp.mem with stackUnits := [(0, { state := .outOfService })] } }

theorem test_witness_CalderaHits :
    (⟨3, 255⟩ : Source).ok = true ∧ calFind calUp (511 / 128) = some heldLine ∧ stackGuard calUp ⟨3, 255⟩ 511 1 false = true
      ∧ stackGuard calUp ⟨3, 255⟩ 511 1 true = true ∧ 511 % 128 + 1 ≤ 128 ∧ 511 / 128 ∉ calUp.host.snoop
      ∧ (∀ w ∈ calUp.host.heldWrites, w.addr / 128 ≠ 511 / 128) ∧ lineGone calUp (511 / 128) = false
      ∧ calFind calSnoop (511 / 128) = some heldLine ∧ stackGuard calSnoop ⟨3, 255⟩ 511 1 true = true ∧ 511 / 128 ∈ calSnoop.host.snoop
      ∧ calFind calWaits (511 / 128) = some heldLine ∧ stackGuard calWaits ⟨3, 255⟩ 511 1 false = true ∧ (∃ w ∈ calWaits.host.heldWrites, w.addr / 128 = 511 / 128) ∧ MeshErr.clean.ok = true
      ∧ calFind calDead (511 / 128) = some heldLine ∧ stackGuard calDead ⟨3, 255⟩ 511 1 true = true ∧ lineGone calDead (511 / 128) = true ∧ 511 / 128 ∉ calDead.host.snoop
      ∧ calDead.host.heldWrites = [] := by
  and_intros <;> decide +kernel

theorem test_witness_CalderaFills :
    (⟨3, 255⟩ : Source).ok = true ∧ calFind memUp (511 / 128) = none ∧ lineGone memUp (511 / 128) = false ∧ stackGuard memUp ⟨3, 255⟩ 511 1 false = true
      ∧ usableWays (calSetOf memUp (setKey 384)) (maskOf memUp (ownerAt memUp 384) (dieOf 384)) ≠ [] ∧ hintAt memUp 511 = 0 ∧ inStacks 511 1 = true ∧ ownerAt memUp 511 = 3
      ∧ ownerAt memUp 384 = 3 ∧ ∀ w ∈ memUp.host.heldWrites, w.addr / 128 ≠ 511 / 128 := by
  and_intros <;> decide +kernel

/-- The line was written under the key that its owner has now. -/
def keyedUp : State := { memUp with mem := { memUp.mem with lines := [(3, { key := ownerKey memUp 3 })] } }

theorem test_witness_CalderaFills_key : metaOf keyedUp (511 / 128) = { key := ownerKey keyedUp (ownerAt keyedUp 384), poison := false, errs := [] } ∧ calFind keyedUp 3 = none
    ∧ lineGone keyedUp 3 = false := by
  and_intros <;> decide +kernel

/-- Stack 23 out of service. -/
def goneStack : State := { memUp with mem := { memUp.mem with stackUnits := [(23, { state := .outOfService })] } }

theorem test_witness_StackWrites :
    3 ≤ 8 ∧ (List.replicate 128 (0xAB : Byte)).length = 128 ∧ 0 % 128 = 0 ∧ inStacks 0 1 = true ∧ ownerAt memUp 0 = 3 ∧ lineGone memUp 0 = false
      ∧ (24 * stackSize - 128) % 128 = 0 ∧ inStacks (24 * stackSize - 128) 1 = true ∧ ownerAt goneStack (24 * stackSize - 128) = 8
      ∧ lineGone goneStack ((24 * stackSize - 128) / 128) = true := by
  and_intros <;> decide +kernel

/-- A RAW block of 128 ascending bytes at address 0 of a range of partition 3. -/
def rawReq : PackReq := { modeReq := 1, format := 1, slot := 0, padOk := false, decUnits := 1, seq := 0 }
def rising : List Byte := (List.range 128).map (fun i => BitVec.ofNat 8 (i + 1))
def codecParts : State := { running openCtx with parts := partsUp }
def codecUp : State :=
  { codecParts with mem := { State.reset.mem with ranges := [(0, range3)], bytes := writeBytes [] 0 (blockBytes rawReq (rawCand rawReq rising)), lines := [(0, { key := ownerKey codecParts 3 }), (1, { key := ownerKey codecParts 3 })] } }

theorem test_witness_CodecBlocks_good :
    let b := (readBlock codecUp (actorOf codecUp (.gather 0) listXfer.desc) 0).2
    b.denied = none ∧ (judgeBlock (tablesOf codecUp 31) b true 128 none).status = 0 := by decide +kernel

/-- A block asked for with another decoded length. -/
theorem test_witness_CodecBlocks_short :
    let b := (readBlock codecUp (actorOf codecUp (.gather 0) listXfer.desc) 0).2
    b.denied = none ∧ ¬ (judgeBlock (tablesOf codecUp 31) b true 256 none).status = 0 := by decide +kernel

/-- A pack descriptor of one block from the open region of cell 0 into a frame of two lines at address 0x1000. -/
def packOne : List Byte :=
  leBytes (1 * 2 ^ 57 + 1 * 2 ^ 53 + 1 * 2 ^ 40 + 1 * 2 ^ 24 + 2 * 2 ^ 16) 8 ++ leBytes (0x200000000000 + 0x800) 8 ++ leBytes 0x1000 8 ++ List.replicate 32 0 ++ leBytes (0x200000000000 + 0xFF0) 8
def packMove : Xfer := { ackXfer with desc := descWith packOne, codec := true, moved := false, acks := 0 }
def packEng : Eng := { xfers := [packMove], tasks := [taskWith .list (descWith packOne)] }
def packUp : State := { codecUp with clusters := [(0, { packer := packEng })] }

theorem test_witness_CodecBlocks_pack :
    let p := packOf packOne
    let act := actorOf packUp (.packer 0) packMove.desc
    let sc := cellOf (settleSpan (strikeRows packUp 0 (rowSpan 0x800 (128 * p.decUnits)) []) 0 0x800 (128 * p.decUnits)) 0
    let req : PackReq := { modeReq := p.modeReq, format := p.format, slot := p.slot, padOk := p.padOk, decUnits := p.decUnits, seq := 0 }
    let lines := candLines req (bestCand req (activeTable (mget TableSlot.reset (tablesOf packUp 31) p.slot)) (readBytes sc.sp 0x800 (128 * p.decUnits)))
    (clusterOf packUp 0).packer.xfers[0]? = some packMove ∧ (clusterOf packUp 0).packer.tasks.find? (fun k => k.id == 0) = some (taskWith .list (descWith packOne)) ∧ packMove.moved = false
      ∧ blockHeld packUp (.packer 0) 0 packMove (p.src + 128 * p.decUnits * packMove.entry) (128 * p.decUnits) = false
      ∧ p.dstList = 0 ∧ placeOf p.src = .window 0 0x800 ∧ windowRefused packUp act 0 0x800 (128 * p.decUnits) false = none
      ∧ spPoisoned sc 0x800 (128 * p.decUnits) = false ∧ lines ≤ p.frameLines ∧ linesPermitted packUp act 0x1000 lines = true ∧ resultRefused packUp act p packMove.entry = none := by
  and_intros <;> decide +kernel

theorem test_witness_StackReads :
    3 ≤ 8 ∧ errsOk [(143, 0xFF)] = true ∧ inStacks 511 1 = true ∧ ownerAt keyedUp 511 = 3 ∧ ownerAt keyedUp (128 * (511 / 128)) = 3 ∧ lineGone keyedUp 3 = false
      ∧ (metaOf keyedUp 3).key = ownerKey keyedUp 3 ∧ lineGone goneStack (24 * stackSize / 128 - 1) = true
      ∧ eccDecode (xorPattern [] []) = .decoded 0 [] ∧ eccDecode (xorPattern [] [(143, 0xFF)]) = .decoded 1 [] ∧ eccDecode (xorPattern poisonPattern (xorPattern [] [])) = .poison
      ∧ eccDecode (xorPattern [] ((List.range 8).map (fun k => (k, 1)))) = .uncorrectable
      ∧ syndromes [(143, 0xFF), (0, 1), (1, 2), (2, 3)] ≠ syndromes poisonPattern ∧ syndromes ((List.range 5).map (fun k => (k, 1))) ≠ syndromes poisonPattern := by
  and_intros <;> decide +kernel

/-- Stack 23 with its last row marked, first with a spare row left in that bank, then with none. -/
def lastRow : Nat := 2 ^ 26 - 1
def markedStack (used : Nat) : State := { State.reset with mem := { State.reset.mem with stackUnits := [(23, { marked := [5, lastRow], spareRows := [(lastRow / 16384, used)] })] } }

theorem test_witness_StackUpkeep :
    lastRow ∈ (stackOf (markedStack 15) 23).marked ∧ mget 0 (stackOf (markedStack 15) 23).spareRows (lastRow / 16384) < 16
      ∧ lastRow ∈ (stackOf (markedStack 16) 23).marked ∧ 16 ≤ mget 0 (stackOf (markedStack 16) 23).spareRows (lastRow / 16384)
      ∧ inStacks (24 * stackSize - 1) 1 = true ∧ errsOk [] = true ∧ (∀ l ∈ [0, 543], l < 544)
      ∧ lastRow < 2 ^ 26 ∧ 23 < 24 ∧ 63 < 64 ∧ 3 < 4 ∧ 1000 ≤ (mget (0, 0) [(63, (5, 1000))] 63).2 ∧ max 0 7 < (mget (0, 0) [(63, (5, 1000))] 63).1 + 1000000000
      ∧ groupLost (addLanes [] [0, 1]) = true ∧ groupLost (addLanes [] [0]) = false
      ∧ 15 ∉ (calSetOf State.reset ((16 * 1 + 15) * 6144 + 6143)).retired
      ∧ 15 ∈ (calSetOf { State.reset with mem := { State.reset.mem with sets := [((16 * 1 + 15) * 6144 + 6143, { retired := [15] })] } } ((16 * 1 + 15) * 6144 + 6143)).retired := by
  and_intros <;> decide +kernel

/-- The same held line, poisoned. -/
def badUp : State := { calUp with mem := { calUp.mem with sets := [(setKey 384, { lines := [{ heldLine with poison := true }] })] } }

theorem test_witness_AtomicsAndReductions :
    (⟨3, 255⟩ : Source).ok = true ∧ plainFor calUp 3 504 = true ∧ calFind calUp (504 / 128) = some heldLine ∧ 504 / 128 ∉ calUp.host.snoop
      ∧ atomicOk .cas 8 504 = true ∧ inStacks 504 8 = true ∧ heldLine.poison = false ∧ plainFor badUp 3 504 = true
      ∧ calFind badUp (504 / 128) = some { heldLine with poison := true } ∧ plainFor calUp 3 384 = true ∧ 384 % 128 = 0 ∧ inStacks 384 128 = true ∧ lineGone calUp (504 / 128) = false := by
  and_intros <;> decide +kernel

/-- CXL.mem with one exposure of the first 2 MiB for reading and writing. -/
def exposed : State :=
  { memUp with mem := { memUp.mem with lines := [(3, { key := ownerKey memUp 3 })] }, host := { memUp.host with ideMem := true, exposures := [(0, { word0 := 0x8000000000000000, word1 := 0x1300000001, inForce := true })] } }
def snooped : State := { exposed with host := { exposed.host with snoop := [3] } }

theorem test_witness_CxlMem :
    inStacks 511 1 = true ∧ cachememOn exposed = true ∧ (exposedAt exposed 511).isSome = true ∧ (exposedAt exposed 511).map expWrite = some true ∧ lineGone exposed 3 = false
      ∧ metaOf exposed 3 = { key := ownerKey exposed (ownerAt exposed 384), poison := false, errs := [] } ∧ 511 % 128 + 1 ≤ 128 ∧ calFind exposed 3 = none
      ∧ ownerAt exposed 511 = ownerAt exposed 384 ∧ exposed.host.snoop.length < 65536 ∧ exposedAt exposed (24 * stackSize - 1) = none ∧ inStacks (24 * stackSize - 1) 1 = true
      ∧ 3 ∈ snooped.host.snoop ∧ (∀ w ∈ snooped.host.heldWrites, w.addr / 128 ≠ 3) ∧ snooped.colls = [] := by
  and_intros <;> decide +kernel

/-! ### Commands of the host -/

/-- Queue 0 holds one command in flight, fetched with someHdr; windows in force let partition 3 and the module reach the host. -/
def hq : Queue := { newQueue 0 0 0x8000 0x9000 4 4 63 with sqHead := 6, sqTail := 6, cqTail := 15, inFlight := [(5, 9)] }
def winP : HostWin := { devBase := 0x400000000000, size := 0x100000, hostAddr := 0x10000, owner := 3, kind := 1, flags := 7 }
def winM : HostWin := { winP with devBase := 0x400000100000, hostAddr := 0x200000, owner := 8 }
def hosted : State := { memUp with host := { memUp.host with queues := [(0, some hq)], nextRing := 1, winNow := [(0, winP), (1, winM)] } }
def modHdr : CmdHdr := { someHdr with partition := 8 }
def vfHdr : CmdHdr := { someHdr with fn := 4 }
def hostDst : Nat := 0x400000000000
def modDst : Nat := 0x400000100000

theorem test_witness_StatusReplies :
    queueOf? hosted someHdr.queue = some hq ∧ hq.ring = someHdr.ring ∧ hosted.host.ideIoFailed = false
      -- the ring of another life of the queue, and no ring at all
      ∧ hq.ring ≠ { someHdr with ring := 1 }.ring ∧ queueOf? hosted 255 = none
      ∧ commandOf (.partDestroy vfHdr 7 false) = some (0x0102, vfHdr) ∧ (Instr.partDestroy vfHdr 7 false).ok = true ∧ gateHolds hosted (.partDestroy vfHdr 7 false) vfHdr = false
      ∧ vfHdr.fn ≠ 0 ∧ scopeOf 0x0102 = some .pf
      ∧ commandOf (.nop { vfHdr with partition := 4 }) = some (1, { vfHdr with partition := 4 }) ∧ (Instr.nop { vfHdr with partition := 4 }).ok = true ∧ 4 + 1 ≠ vfHdr.fn := by
  and_intros <;> decide

theorem test_witness_AdminCommands :
    CmdReady hosted (.nop vfHdr) vfHdr ∧ CmdReady hosted (.identify modHdr modDst) modHdr ∧ DstReady hosted modHdr (modDst + 0x100000 - 128) 128
      ∧ CmdReady hosted (.capRead someHdr capBodies.length hostDst) someHdr ∧ (capBody capBodies.length).isSome = true ∧ (capBody 1).isSome = true
      ∧ DstReady hosted someHdr hostDst (capHeaderBody 1).length ∧ DstReady hosted someHdr hostDst (capHeaderBody capBodies.length).length
      ∧ CmdReady hosted (.queueCreate vfHdr 64 32 4 12 15) vfHdr ∧ 15 < vectors vfHdr.fn ∧ freeQueue hosted = some 9 ∧ createdQueues hosted vfHdr.fn < (partOf hosted (vfHdr.fn - 1)).maxQueues
      ∧ CmdReady hosted (.queueDelete someHdr 255) someHdr ∧ queueOf? { hosted with host := { hosted.host with queues := [(255, some hq)] } } 255 = some hq ∧ hq.owner = someHdr.fn
      ∧ longPending hosted (deletes 255) = false := by
  unfold CmdReady DstReady; and_intros <;> decide +kernel

/-- A key blob of partition 3 with the module's identity. -/
def keyBlob (kind n : Nat) : List Byte :=
  leBytes 0x4B42 2 ++ leBytes kind 1 ++ leBytes 3 1 ++ leBytes 1 4 ++ moduleIdentity ++ List.replicate n 0
/-- Partition 3 owns no range. -/
def rangeless : State := { hosted with mem := { hosted.mem with ranges := [] } }

theorem test_witness_PartitionCommands :
    CmdReady hosted (.partCreate modHdr 7 15 1 65535 32 1) modHdr ∧ (partOf hosted 7).present = false ∧ tickPending hosted (createsPart 7) = false
      ∧ CmdReady rangeless (.partDestroy modHdr 3 true) modHdr ∧ (partOf { rangeless with ctxs := [] } 3).present = true ∧ holdsCtx { rangeless with ctxs := [] } 3 = false
      ∧ longPending rangeless (destroysPart 3) = false
      ∧ CmdReady rangeless (.keyInstall someHdr (keyBlob 0 472)) someHdr ∧ (keyBlob 0 472).length = 496 ∧ rangesOf rangeless 3 = []
      ∧ CmdReady hosted (.dumpKeySet vfHdr []) vfHdr ∧ CmdReady hosted (.dumpKeySet vfHdr (keyBlob 1 440)) vfHdr ∧ (keyBlob 1 440).length = 464
      ∧ CmdReady hosted (.attestQuote modHdr [] 0xFFFFFFFF modDst 0x100000) modHdr ∧ 96 + 48 * (selected 0xFFFFFFFF).length + 8240 ≤ 0x100000
      ∧ (∀ r ∈ selected 0xFFFFFFFF, mayQuote modHdr r = true) ∧ DstReady hosted modHdr modDst (96 + 48 * (selected 0xFFFFFFFF).length + 8240) := by
  unfold CmdReady DstReady; and_intros <;> decide +kernel

theorem test_witness_PartitionCommands_blobs (k0 : Config.blobKey (keyBlob 0 472) = some (1, 2)) (k1 : Config.blobKey (keyBlob 1 440) = some (1, 1)) :
    (∀ c ∈ blobChecks someHdr (keyBlob 0 472) 0 (partOf rangeless 3).seqMem, c = none) ∧ (∀ c ∈ blobChecks vfHdr (keyBlob 1 440) 1 (partOf hosted 3).seqDump, c = none) := by
  have i0 : bytesAt (keyBlob 0 472) 8 16 = moduleIdentity := by rfl
  have i1 : bytesAt (keyBlob 1 440) 8 16 = moduleIdentity := by rfl
  have l0 : (keyBlob 0 472).length = 496 := by decide +kernel
  have l1 : (keyBlob 1 440).length = 464 := by decide +kernel
  have f0 : fieldAt (keyBlob 0 472) 0 2 = 0x4B42 ∧ fieldAt (keyBlob 0 472) 2 1 = 0 ∧ fieldAt (keyBlob 0 472) 3 1 = 3 ∧ fieldAt (keyBlob 0 472) 4 4 = 1
      ∧ zeroSpan (keyBlob 0 472) 0x18 8 = true := by decide
  have f1 : fieldAt (keyBlob 1 440) 0 2 = 0x4B42 ∧ fieldAt (keyBlob 1 440) 2 1 = 1 ∧ fieldAt (keyBlob 1 440) 3 1 = 3 ∧ fieldAt (keyBlob 1 440) 4 4 = 1
      ∧ zeroSpan (keyBlob 1 440) 0x18 8 = true := by decide
  have p0 : (partOf rangeless 3).seqMem = 0 := by decide
  have p1 : (partOf hosted 3).seqDump = 0 := by decide
  constructor
  · simp [blobChecks, need, blobHalves, k0, i0, l0, f0, p0, someHdr]
  · simp [blobChecks, need, blobHalves, k1, i1, l1, f1, p1, vfHdr, someHdr]

/-- A staged image in slot B. -/
def stagedUp : State := { hosted with rot := { hosted.rot with staged := true }, flash := { hosted.flash with slotB := { valid := true } } }

theorem test_witness_FirmwareAndConfiguration :
    CmdReady hosted (.fwStage modHdr modDst 4096) modHdr ∧ modDst < 2 ^ 48 ∧ SrcReady hosted modHdr modDst 4096 ∧ longPending hosted stages = false
      ∧ hosted.rot.activationPending = false ∧ peekPoison hosted 8 modDst 4096 = false
      ∧ CmdReady stagedUp (.fwActivate modHdr false) modHdr ∧ stagedUp.rot.staged = true ∧ (fwSlot stagedUp (inactiveSlot stagedUp)).valid = true
      ∧ stagedUp.rot.activationPending = false ∧ longPending stagedUp stages = false
      ∧ CmdReady hosted (.cfgRead modHdr 0x20) modHdr ∧ (cfgKey 0x20).isSome = true ∧ CmdReady hosted (.cfgWrite modHdr 1 4) modHdr ∧ cfgKey 1 = some (4, 168, 24) ∧ 4 ≤ 168
      ∧ cfgKey 2 = some (20, 10000, 200) ∧ journalRoom hosted = true ∧ CmdReady hosted (.cfgCompact modHdr 2) modHdr ∧ longPending hosted isCompact = false := by
  unfold CmdReady SrcReady; and_intros <;> decide +kernel

/-- The next entry, and a context of partition 3 whose state entry is the first MiB of its range, with two free spill frames. -/
def nextRange : RangeEntry := { range3 with base := 0x200000, context := 0xFFFF, plain := false, landing := true }
def stateEntry : SourceEntry := { base := 0, size := 0x200000, host := 0, kind := 1, hint := 0, landing := false, plain := true, prewarm := false, reserved := none }
def kvCtx : Ctx := { plainCtx with sources := [stateEntry], pages := [pageOf_ .free true 0x8000, pageOf_ .free true 0xA000] }
def kvUp : State :=
  { hosted with ctxs := [(31, some kvCtx)], host := { hosted.host with mem := writeBytes (writeBytes [] 0x10000 (leBytes 0x1000 8 ++ leBytes 0x3000 8)) 0x11000 (leBytes 0xA000 8 ++ leBytes 0x8000 8) } }

theorem test_witness_MemoryCommands :
    CmdReady hosted (.bulkLoad vfHdr hostDst 0 128) vfHdr ∧ inStacks 0 1 = true ∧ hostCheck hosted vfHdr hostDst 128 false = none ∧ ownsSpan hosted 3 0 128 = true
      ∧ longPending hosted (worksOver 0 128) = false
      ∧ CmdReady hosted (.bulkStore vfHdr (0x200000 - 128) hostDst 128) vfHdr ∧ inStacks (0x200000 - 128) 1 = true ∧ hostCheck hosted vfHdr hostDst 128 true = none
      ∧ ownsSpan hosted 3 (0x200000 - 128) 128 = true
      ∧ CmdReady hosted (.calderaInval vfHdr 0 0x200000) vfHdr ∧ 0 % granule = 0 ∧ 0x200000 % granule = 0 ∧ ownsSpan hosted 3 0 0x200000 = true ∧ inStacks 0 0x200000 = true
      ∧ CmdReady hosted (.scrubRange vfHdr 0 0x200000 1) vfHdr ∧ busyFootprint hosted 0 0x200000 = false
      ∧ CmdReady hosted (.rangeAttr someHdr 255 nextRange) someHdr ∧ nextRange.base % granule = 0 ∧ nextRange.size % granule = 0 ∧ inOneStack nextRange.base nextRange.size = true
      ∧ nextRange.owner ≤ 8 ∧ (nextRange.landing && nextRange.plain) = false ∧ rangeOverlap hosted 255 nextRange = false ∧ mayChangeRange hosted someHdr 255 nextRange = true
      ∧ mayChangeRange hosted vfHdr 0 { range3 with hint := 1 } = true ∧ boundEntry hosted (rangeOf hosted 255) = false ∧ tickPending hosted (changesRange 255) = false := by
  unfold CmdReady; and_intros <;> decide +kernel

theorem test_witness_MemoryCommands_pages :
    let fs := kvFrames (peekObj kvUp 3 hostDst 16) 2
    let gs := kvFrames (peekObj kvUp 3 (hostDst + 0x1000) 16) 2
    CmdReady kvUp (.kvPagesMap vfHdr 31 0 0 2 hostDst) vfHdr ∧ ctxOf kvUp 31 = some kvCtx ∧ kvCtx.state = .resident ∧ SrcReady kvUp vfHdr hostDst 16 ∧ peekPoison kvUp 3 hostDst 16 = false
      ∧ (∀ a ∈ fs, a < 2 ^ 48 ∧ a % 128 = 0 ∧ ownsSpan kvUp 3 a 1 = true) ∧ tickPending kvUp (mapsPages 31) = false ∧ (∀ a ∈ fs, inStateEntry kvCtx a (frameBytes kvCtx false) = true)
      ∧ framesMeet kvCtx fs (frameBytes kvCtx false) = false ∧ (kvCtx.pages.filter (·.mapped)).length + 2 ≤ kvCtx.params.pageEntries
      ∧ gs = [0xA000, 0x8000] ∧ pageAt kvCtx 0xA000 true = some (pageOf_ .free true 0xA000) ∧ pageAt kvCtx 0x8000 true = some (pageOf_ .free true 0x8000)
      ∧ (∀ e ∈ gs.zipIdx, e.1 ∉ gs.drop (e.2 + 1)) := by
  unfold CmdReady SrcReady; and_intros <;> decide +kernel

/-- A code table record of slot 2 with two one-bit codes of an alphabet, and a slot with two banks. -/
def codeHead (gen : Nat) : List Byte := leBytes 2 1 ++ leBytes 8 1 ++ leBytes gen 2 ++ leBytes 0 8
def codeBody : List Byte := leBytes 0x21 1 ++ List.replicate 2047 0
def codeRec (gen : Nat) : List Byte := codeHead gen ++ (leBytes (crc32c (codeHead gen ++ codeBody)) 4 ++ codeBody)
def codeTab (gen : Nat) : CodeTable := { generation := gen, expBits := 8, lengths := [1, 2] }
def tabCtx : Ctx := { plainCtx with tables := [(2, { bank0 := some (codeTab 65535), bank1 := some (codeTab 0) })] }
def tabUp : State := { hosted with ctxs := [(31, some tabCtx)] }

theorem nibble_zero (pre : List Byte) (b : Byte) (m k : Nat) (hp : pre.length = 16) (h : 2 ≤ k) :
    bits (fieldAt (pre ++ (b :: List.replicate m 0)) (0x10 + k / 2) 1) (4 * (k % 2)) 4 = 0 := by
  obtain ⟨j, hj⟩ : ∃ j, k / 2 = j + 1 := ⟨k / 2 - 1, by omega⟩
  rw [hj, fieldAt, ← hp, ← List.drop_drop, List.drop_left, List.drop_succ_cons, List.drop_replicate, List.take_replicate, leNat_zeros]
  simp [bits]

theorem lengths_two (pre : List Byte) (m n : Nat) (hp : pre.length = 16) :
    recordLengths (pre ++ (0x21 :: List.replicate m 0)) (n + 2) = 1 :: 2 :: List.replicate n 0 := by
  apply List.ext_getElem
  · simp [recordLengths]
  · intro k h1 h2
    simp only [recordLengths, List.getElem_map, List.getElem_range]
    match k with
    | 0 => simp [fieldAt, ← hp, leNat, bits]
    | 1 => simp [fieldAt, ← hp, leNat, bits]
    | k + 2 =>
      rw [nibble_zero pre _ m (k + 2) hp (by omega)]
      simp

theorem codeRec_sound (g : Nat) : recordDefect (codeRec g) = none := by
  have e : codeRec g = (codeHead g ++ leBytes (crc32c (codeHead g ++ codeBody)) 4) ++ (0x21 :: List.replicate 2047 0) := by
    rw [codeRec, codeBody, List.append_assoc]; rfl
  have crc : fieldAt (codeRec g) 0xC 4 = crc32c (codeHead g ++ codeBody) := by
    have c : crc32c (codeHead g ++ codeBody) < 256 ^ 4 := Nat.lt_of_lt_of_le (crc32c_lt _) (by decide)
    have h := fieldAt_append (codeHead g) codeBody _ 4 c
    rwa [show (codeHead g).length = 0xC by simp [codeHead]] at h
  have b0 : bytesAt (codeRec g) 0 12 = codeHead g := by rfl
  have b1 : bytesAt (codeRec g) 0x10 2048 = codeBody := by
    have e : (codeRec g).drop 0x10 = codeBody := rfl
    rw [bytesAt, e, List.take_of_length_le (by decide +kernel), show 2048 - codeBody.length = 0 by decide +kernel, List.replicate_zero, List.append_nil]
  have f : fieldAt (codeRec g) 0 1 = 2 ∧ fieldAt (codeRec g) 1 1 = 8 ∧ fieldAt (codeRec g) 4 8 = 0 := by
    refine ⟨?_, ?_, ?_⟩ <;> simp [fieldAt, codeRec, codeHead, leBytes, leNat]
  have l : recordLengths (codeRec g) 4096 = 1 :: 2 :: List.replicate 4094 0 := by
    rw [e]; exact lengths_two _ 2047 4094 (by rfl)
  simp only [recordDefect, b0, b1, crc, l, f.1, f.2.1, f.2.2]
  rw [if_neg (by simp)]
  decide +kernel

theorem test_witness_CodecCommands_load :
    ctxOf tabUp 31 = some tabCtx ∧ tabCtx.state ≠ .destroying ∧ CmdReady tabUp (.tableLoad vfHdr 31 (codeRec 0)) vfHdr ∧ recordDefect (codeRec 0) = none
      ∧ recordSlot (codeRec 0) = 2 ∧ slotBusy (tableSlot tabCtx 2) = false ∧ awaitedSlot tabUp 31 tabCtx 2 = false
      ∧ activeTable (tableSlot tabCtx 2) = some (codeTab 65535) ∧ (recordTable (codeRec 0)).generation = (65535 + 1) % 65536 := by
  refine ⟨rfl, by decide, by unfold CmdReady; and_intros <;> decide, codeRec_sound 0, ?_, by decide, by decide, by decide, ?_⟩
  · simp [recordSlot, fieldAt, codeRec, codeHead, leBytes, leNat]
  · simp [recordTable, fieldAt, codeRec, codeHead, leBytes, leNat]

/-- An array of 64-byte items of partition 3, encoded into frames beside it. -/
def encode : EncodeParams :=
  { context := 31, format := 1, modeReq := 1, slot := 15, decUnits := 64, padOk := false, seqBase := 0, count := 1, src := 0, dst := 0x4000, dstBytes := 65 * 128, index := 0x10000 }

theorem test_witness_CodecCommands :
    let t := tableSlot tabCtx 2
    CmdReady tabUp (.tableActivate vfHdr 31 2 (frameNow tabUp + 2)) vfHdr ∧ frameNow tabUp + 2 < 2 ^ 48 ∧ 2 ≤ framesAhead tabUp (frameNow tabUp + 2) ∧ framesAhead tabUp (frameNow tabUp + 65536) ≤ 65536
      ∧ activeTable t = some (codeTab 65535) ∧ (if t.active then t.bank0 else t.bank1) = some (codeTab 0) ∧ t.pendingSwitch = none ∧ awaitedSlot tabUp 31 tabCtx 2 = false
      ∧ CmdReady tabUp (.encodeRange vfHdr encode) vfHdr ∧ encode.count * (encode.decUnits + 1) * 128 ≤ encode.dstBytes ∧ ownsSpan tabUp 3 0 (128 * 64) = true ∧ plainSpan tabUp 0 (128 * 64) = true
      ∧ ownsSpan tabUp 3 0x4000 (65 * 128) = true ∧ ownsSpan tabUp 3 0x10000 8 = true ∧ tabCtx.state = .resident ∧ (planeParams 1).isSome = true
      ∧ CmdReady tabUp (.decodeCheck vfHdr 31 0 64 0 hostDst) vfHdr ∧ SrcReady tabUp vfHdr hostDst 128 ∧ SrcReady tabUp vfHdr (hostDst + 8) (8 * 16) := by
  unfold CmdReady SrcReady; and_intros <;> decide +kernel

/-! ### A schedule image of one bucket and one row without entries -/

def imgBody : List Byte :=
  leBytes 0x53435848 4 ++ leBytes 0x100 2 ++ leBytes 0x100 2 ++ leBytes 16384 8 ++ [8, 1] ++ leBytes 1 2 ++ leBytes 0 4 ++ leBytes 0 8 ++ leBytes 0 2 ++ leBytes 0 6
def imgDir (c0 c1 c3 : Nat) : List Byte :=
  leBytes 4096 6 ++ leBytes 1024 6 ++ leBytes c0 4 ++ leBytes 8192 6 ++ leBytes 32 6 ++ leBytes c1 4 ++ List.replicate 16 0 ++ leBytes 12288 6 ++ leBytes 24 6 ++ leBytes c3 4
    ++ List.replicate 148 0
def imgRow : List Byte := leBytes 0 4 ++ leBytes 1 4 ++ leBytes 0 2 ++ leBytes 4 2 ++ List.replicate 16 0
def imgBucket : List Byte := [0, 0] ++ leBytes 1 2 ++ leBytes 1 4 ++ leBytes 1 4 ++ leBytes 0 4 ++ leBytes 1 4 ++ List.replicate 4 0

/-- The image: its three sections stand at 4096, 8192 and 12288. -/
def smallImage : List Byte :=
  (imgBody ++ imgDir 1214729159 1214729159 1419609406) ++ (leBytes 2530263761 4 ++ (List.replicate 3840 0 ++ (List.replicate 1020 0 ++ (leBytes 3057765858 4 ++ (List.replicate 3072 0
    ++ (imgRow ++ (leBytes 1881279819 4 ++ (List.replicate 4064 0 ++ (imgBucket ++ List.replicate 4072 0)))))))))

theorem crc_zeros : crcRun 0x82F63B78 0xFFFFFFFF (List.replicate 1020 0) = 1237201437 := by
  have e : List.replicate 1020 (0 : Byte) = List.replicate 255 0 ++ (List.replicate 255 0 ++ (List.replicate 255 0 ++ List.replicate 255 0)) := by
    simp only [List.replicate_append_replicate]
  have a : crcRun 0x82F63B78 0xFFFFFFFF (List.replicate 255 0) = 3929728358 := by decide +kernel
  have b : crcRun 0x82F63B78 3929728358 (List.replicate 255 0) = 3830750836 := by decide +kernel
  have c : crcRun 0x82F63B78 3830750836 (List.replicate 255 0) = 1218594573 := by decide +kernel
  have d : crcRun 0x82F63B78 1218594573 (List.replicate 255 0) = 1237201437 := by decide +kernel
  rw [e, crcRun_append, crcRun_append, crcRun_append, a, b, c, d]

theorem crc_layout : crc32c (List.replicate 1020 0) = 3057765858 ∧ crc32c (List.replicate 1020 0 ++ leBytes 3057765858 4) = 1214729159 := by
  constructor
  · rw [crc32c, crc_zeros]; decide
  · rw [crc32c, crcRun_append, crc_zeros]; decide +kernel

theorem image_header : firstFail (headerChecks smallImage 16384) = none := by
  have t : smallImage.take 0xFC = imgBody ++ imgDir 1214729159 1214729159 1419609406 := by decide +kernel
  have c : crc32c (imgBody ++ imgDir 1214729159 1214729159 1419609406) = 2530263761 := by decide +kernel
  rw [headerChecks, t, c]
  decide +kernel

theorem image_directory : firstFail (directoryChecks smallImage) = none := by
  have s0 : section_ smallImage 0 = List.replicate 1020 0 ++ leBytes 3057765858 4 := by decide +kernel
  have c : ∀ n ∈ List.range 7, img_ (decide (secLen smallImage n = 0 ∨ crc32c (section_ smallImage n) = secCrc smallImage n)) stBadCrc (dirOff n + 12) = none := by
    intro n hn
    by_cases h0 : n = 0
    · rw [h0, s0, crc_layout.2]; decide +kernel
    · have : n ∈ [1, 2, 3, 4, 5, 6] := by simp at hn ⊢; omega
      revert n; decide +kernel
  have d : ∀ x ∈ (List.range 7).flatMap (sectionChecks smallImage), x = none := by decide +kernel
  rw [firstFail, directoryChecks, List.findSome?_eq_none_iff]
  intro x hx
  rcases List.mem_append.mp hx with h | h
  · exact d x h
  · obtain ⟨n, hn, rfl⟩ := List.mem_map.mp h; exact c n hn

theorem image_layout : firstFail (layoutChecks smallImage) = none := by
  have s0 : (section_ smallImage 0).take 0x400 = List.replicate 1020 0 ++ leBytes 3057765858 4 := by decide +kernel
  have t0 : (List.replicate 1020 0 ++ leBytes 3057765858 4).take 0x3FC = List.replicate 1020 0 := by decide +kernel
  rw [layoutChecks, s0, t0, crc_layout.1]
  decide +kernel

theorem image_rest : firstFail (bucketChecks smallImage) = none ∧ firstFail (allRowChecks smallImage granule) = none ∧ (tileOffsets smallImage).flatMap (tileChecks smallImage) = []
    ∧ firstFail (tableChecks plainCtx smallImage) = none ∧ firstFail (gradientChecks smallImage) = none ∧ firstFail (expertChecks smallImage) = none
    ∧ firstFail (collectiveChecks smallImage 0) = none := by
  and_intros <;> decide +kernel

theorem image_sound : imageDefect hosted plainCtx smallImage 16384 = none := by
  have r := image_rest
  have h := image_header
  have d := image_directory
  have l := image_layout
  have last : img_ (decide (imgMinPeriod smallImage ≤ hosted.frames.cfg.periodUs)) stParamConflict 0x10 = none := by decide +kernel
  unfold firstFail at *
  rw [imageDefect, firstFail]
  simp only [List.findSome?_append, h, d, l, r.1, show plainCtx.params.descUnits * granule = granule from rfl, r.2.1, r.2.2.1, r.2.2.2.1, r.2.2.2.2.1, r.2.2.2.2.2.1,
    show hosted.grp.rank = 0 from rfl, r.2.2.2.2.2.2, last, List.findSome?_nil, List.findSome?_cons, Option.none_or, id]

/-- The image stands in the host's memory behind the window of partition 3. -/
def loadUp : State := { hosted with host := { hosted.host with mem := writeBytes [] 0x10000 smallImage } }

theorem loadUp_image : (readObj loadUp 3 hostDst 16384).2 = (smallImage, false) := by
  have n : smallImage.length = 16384 := by decide +kernel
  rw [readObj_host loadUp 3 hostDst 16384 0x10000 (by decide) ?_ ?_]
  · show (readBytes (writeBytes [] 0x10000 smallImage) 0x10000 16384, false) = _
    rw [← n, readBytes_writeBytes]
  · intro o h
    exact placeOf_host _ (by simp [hostDst]) (by simp only [hostDst]; omega)
  · intro t k o m h
    have a : winP.devBase.toNat = 0x400000000000 := by decide
    have z : winP.size.toNat = 0x100000 := by decide
    have w : windowFor t 3 (hostDst + o) m false = some winP := by
      have c (w : HostWin) (hw : w.kind = 1) : (carried t w.kind.toNat false && atsOk t w (hostDst + o) m) = true := by
        simp only [carried, cachememOn, ioOn, atsOk, k, hw]; rfl
      rw [windowFor, k, show loadUp.host.winNow.map (·.2) = [winP, winM] from rfl]
      apply List.find?_cons_of_pos
      rw [Bool.and_assoc, c winP rfl, a, z, show bit winP.flags.toNat 0 = true from rfl, decide_eq_true (show 0x400000000000 ≤ hostDst + o by unfold hostDst; omega),
        decide_eq_true (show hostDst + o + m ≤ 0x400000000000 + 0x100000 by unfold hostDst; omega)]
      rfl
    refine ⟨?_, ?_⟩
    · rw [hostTarget, w]
      show some (winP.hostAddr.toNat + (hostDst + o - winP.devBase.toNat)) = _
      rw [a, show winP.hostAddr.toNat = 0x10000 from rfl, show hostDst + o - 0x400000000000 = o by unfold hostDst; omega]
    · rw [cacheTranslation, w]; simp [winP]


/-! ### Contexts and schedules -/

/-- The entries of a new context: weights in the second 2 MiB of its partition's range, the control range beside them. -/
def weightEntry : SourceEntry := { stateEntry with base := 0x200000, kind := 0 }
def ctlEntry : SourceEntry := { stateEntry with base := 0x400000, size := 0x800000, kind := 3 }
def createUp : State :=
  { hosted with
    ctxs := [(30, some plainCtx)]
    mem := { hosted.mem with ranges := [(0, { range3 with base := 0x200000, context := 0xFFFF }), (255, { range3 with base := 0x400000, size := 0x800000, context := 0xFFFF })] } }
def newParams (id : Nat) : CtxCreateParams := { noParams with requestedId := id, priority := 3, frameLines := 65, sessionSlots := 4096, sources := [weightEntry, ctlEntry] }

theorem test_witness_ContextCommands_create :
    let p := newParams 31
    let q := newParams 0xFF
    CmdReady createUp (.ctxCreate vfHdr p) vfHdr ∧ CmdReady createUp (.ctxCreate vfHdr q) vfHdr ∧ freeCtx createUp = some 0 ∧ (∀ e ∈ p.sources, ∀ f ∈ sourceFields e 0x40, f = none)
      ∧ (p.group = false) ∧ ctxOf createUp 31 = none ∧ 31 ∉ pendingIds createUp ∧ p.sources.filter (fun e => e.kind == 3) = [ctlEntry] ∧ controlNeed p ≤ ctlEntry.size
      ∧ coinciding createUp weightEntry = some 0 ∧ coinciding createUp ctlEntry = some 255 ∧ (∀ n ∈ [0, 255], (rangeOf createUp n).owner = 3 ∧ (rangeOf createUp n).context = 0xFFFF)
      ∧ (∀ e ∈ p.sources.zipIdx, entryMeets createUp p.sources e = false) ∧ (allCtxs createUp).length + (pendingIds createUp).length < 32
      ∧ ((allCtxs createUp).filter (fun e => e.2.partition == 3)).length + pendingOf createUp 3 < (partOf createUp 3).maxContexts
      ∧ (residents createUp).length + (pendingIds createUp).length < 8 := by
  unfold CmdReady; and_intros <;> decide +kernel

theorem test_witness_ContextCommands :
    ctxOf hosted 31 = some plainCtx ∧ CmdReady hosted (.ctxDestroy vfHdr 31 true) vfHdr ∧ longPending hosted (destroysCtx 31) = false
      ∧ CmdReady hosted (.ctxPin vfHdr 31 1) vfHdr ∧ tickPending hosted (pinsCtx 31) = false ∧ pinnedCount hosted + hosted.host.ticking.countP (fun p => pins p.op) < 7
      ∧ CmdReady hosted (.ctxEvict vfHdr 31) vfHdr ∧ plainCtx.pinned = false ∧ plainCtx.unevictable = false ∧ plainCtx.change = none ∧ longPending hosted (evictsCtx 31) = false
      ∧ CmdReady hosted (.ctxQuery vfHdr 31 hostDst) vfHdr ∧ DstReady hosted vfHdr hostDst 576
      ∧ CmdReady hosted (.acctRead vfHdr 0 31 hostDst) vfHdr ∧ CmdReady hosted (.acctRead vfHdr 1 3 hostDst) vfHdr ∧ DstReady hosted vfHdr (hostDst + 0x100000 - 768) 768 := by
  unfold CmdReady DstReady; and_intros <;> decide +kernel

theorem test_witness_ScheduleCommands_load :
    ctxOf loadUp 31 = some plainCtx ∧ plainCtx.partition = someHdr.partition ∧ CmdReady loadUp (.schedLoad someHdr 31 hostDst 16384) someHdr ∧ SrcReady loadUp someHdr hostDst 16384
      ∧ plainCtx.state = .resident ∧ unitsWhole loadUp = true ∧ plainCtx.switchPending = false ∧ longPending loadUp (loads 31) = false ∧ tickPending loadUp (unloads 31) = false
      ∧ 16384 ≤ plainCtx.params.imageUnits * granule ∧ peekPoison loadUp 3 hostDst 16384 = false ∧ imageDefect loadUp plainCtx (peekObj loadUp 3 hostDst 16384) 16384 = none
      ∧ activeBank plainCtx = none := by
  have i : peekObj loadUp 3 hostDst 16384 = smallImage := congrArg Prod.fst loadUp_image
  have p : peekPoison loadUp 3 hostDst 16384 = false := congrArg Prod.snd loadUp_image
  rw [i, show imageDefect loadUp plainCtx smallImage 16384 = imageDefect hosted plainCtx smallImage 16384 from rfl]
  unfold CmdReady SrcReady
  exact ⟨rfl, rfl, by and_intros <;> decide, by decide, rfl, by decide, rfl, by decide, by decide, by decide, p, image_sound, rfl⟩

/-- The context runs that image; two normal frames are free, and the last step was number 7. The manifest of step 8 has one session. -/
def stepCtx : Ctx :=
  { plainCtx with bankA := some { image := smallImage, generation := 0 }, imageActive := true, lastSeq := some 7, pages := [pageOf_ .free false 0, pageOf_ .free false 0x1000] }
def manifestHead : List Byte :=
  leBytes 0x4D41 2 ++ [0, 0] ++ leBytes 1 2 ++ leBytes 0 2 ++ leBytes 8 4 ++ leBytes 1 4 ++ leBytes 0x1000 6 ++ leBytes 0 2 ++ leBytes 0x2000 6 ++ List.replicate 30 0
def manifestTail : List Byte := leBytes 3 2 ++ [0, 3] ++ leBytes 0 4 ++ leBytes 1 4 ++ List.replicate 20 0
def stepManifest : List Byte := manifestHead ++ leBytes (crc32c (manifestHead ++ manifestTail)) 4 ++ manifestTail
def stepUp : State := { hosted with ctxs := [(31, some stepCtx)], host := { hosted.host with mem := writeBytes [] 0x10000 stepManifest } }

theorem stepUp_manifest : (readObj stepUp 3 hostDst 96).2 = (stepManifest, false) := by decide +kernel

theorem step_manifest_sound (hp : Config.pagesPerRow (modelOf stepCtx) = 2) : ∀ k ∈ manifestChecks stepUp vfHdr 31 stepCtx stepManifest, k = none := by
  have n : stepNeed stepCtx (sessRecs stepManifest) = 2 := by
    have r : (sessRecs stepManifest).map (fun r => (touchedRows r).length) = [1] := by decide +kernel
    have e : stepNeed stepCtx (sessRecs stepManifest) = (((sessRecs stepManifest).map (fun r => (touchedRows r).length)).map (fun k => k * Config.pagesPerRow (modelOf stepCtx))).sum := by
      rw [List.map_map]; rfl
    rw [e, r, hp]; rfl
  rw [manifestChecks, n]
  decide +kernel

theorem test_witness_ScheduleCommands_step (hp : Config.pagesPerRow (modelOf stepCtx) = 2) :
    ctxOf stepUp 31 = some stepCtx ∧ CmdReady stepUp (.stepSubmit vfHdr 31 96 hostDst) vfHdr ∧ SrcReady stepUp vfHdr hostDst 96 ∧ unitsWhole stepUp = true
      ∧ peekPoison stepUp 3 hostDst 96 = false ∧ ∀ k ∈ manifestChecks stepUp vfHdr 31 stepCtx (peekObj stepUp 3 hostDst 96), k = none := by
  have i : peekObj stepUp 3 hostDst 96 = stepManifest := congrArg Prod.fst stepUp_manifest
  have p : peekPoison stepUp 3 hostDst 96 = false := congrArg Prod.snd stepUp_manifest
  rw [i]
  unfold CmdReady SrcReady
  exact ⟨rfl, by and_intros <;> decide, by decide, by decide, p, step_manifest_sound hp⟩

/-- Settings at the ends of their ranges that leave a stretched frame below half a period. -/
def frameSet : FrameParams := { periodUs := 80, quantumUs := 8, maxQuanta := 4, lateLead := 40, source := 2, syncOutEn := true }
/-- The keystone of a group of two, with a member of rank 1. -/
def keystone : State := { hosted with grp := { hosted.grp with state := .keystone, size := 2, members := [0, 1] } }
def queuedCtx : Ctx := { stepCtx with queue := [someStep], bankB := some { image := [], generation := 1 } }
def abortUp : State := { hosted with ctxs := [(31, some queuedCtx)] }

theorem test_witness_ScheduleCommands :
    CmdReady stepUp (.kernelLaunch vfHdr 31 0 0 (2 ^ 48 - 1)) vfHdr ∧ (findBucket (activeImage stepCtx) 0).getD [] ≠ [] ∧ bucketPhase ((findBucket (activeImage stepCtx) 0).getD []) < 2
      ∧ stepCtx.queue.length < 16 ∧ CmdReady abortUp (.stepAbort vfHdr 31 1) vfHdr ∧ hasStep queuedCtx 1 = true
      ∧ CmdReady stepUp (.schedUnload vfHdr 31 1) vfHdr ∧ stepCtx.imageActive = true ∧ stepCtx.queue = [] ∧ stepCtx.inFlight = none
      ∧ CmdReady abortUp (.schedUnload vfHdr 31 0) vfHdr ∧ (inactiveBank queuedCtx).isSome = true
      ∧ CmdReady hosted (.frameConfig someHdr frameSet) someHdr ∧ isKeystone hosted = true ∧ hosted.frames.announced = none ∧ hosted.frames.cfg.periodUs ≤ frameSet.periodUs
      ∧ CmdReady keystone (.frameConfig someHdr frameSet) someHdr ∧ isKeystone keystone = true ∧ keystone.grp.state = .keystone ∧ 1 < keystone.grp.size
      ∧ longestPeriod hosted ≤ 8 := by
  unfold CmdReady; and_intros <;> decide +kernel

/-! ### Group, power, check values, health, ends of commands -/

/-- Rank 0 of a group of two over port 13. -/
def formParams : GroupFormParams :=
  { groupId := 1, size := 2, rank := 0, rejoin := false, source := 1, keystoneOrder := [0, 1, 0xFF, 0xFF], portMap := List.replicate 13 0xFF ++ [1]
    identities := [moduleIdentity, List.replicate 16 2] }
/-- The same module as a member of a group of sixteen whose keystone is rank 1, and as the keystone of sixteen with port 13 up. -/
def upPort : Port := { state := .up, lanes := 9, everUp := true, peerRank := 1 }
def member16 : State := { hosted with grp := { hosted.grp with state := .member, size := 16, rank := 0, members := List.range 16 } }
def keystone16 : State := { hosted with grp := { hosted.grp with state := .keystone, size := 16, rank := 0, members := List.range 16 }, ports := [(13, upPort)] }

theorem test_witness_GroupCommands :
    CmdReady hosted (.groupForm someHdr formParams) someHdr ∧ formParams.ok = true ∧ (∀ c ∈ formFields formParams, c = none) ∧ hosted.grp.state = .standalone
      ∧ CmdReady member16 (.groupLeave someHdr) someHdr ∧ member16.grp.state = .member ∧ groupWork member16 = false ∧ tickPending member16 leaves = false
      ∧ CmdReady keystone16 (.groupLeave someHdr) someHdr ∧ keystone16.grp.state = .keystone ∧ groupWork keystone16 = false ∧ tickPending keystone16 leaves = false
      ∧ CmdReady keystone16 (.memberExclude someHdr 15) someHdr ∧ 15 ∈ keystone16.grp.members ∧ 15 ≠ keystone16.grp.rank ∧ tickPending keystone16 (excludes 15) = false
      ∧ CmdReady keystone16 (.linkTrain someHdr 0x3FFF 0) someHdr ∧ longPending keystone16 (trainsPorts 0x3FFF) = false ∧ braked keystone16.power = false ∧ groupStepRuns keystone16 = false
      ∧ CmdReady keystone16 (.linkTrain someHdr 0x3FFF 1) someHdr ∧ CmdReady keystone16 (.linkKeyRotate someHdr 0x2000 true) someHdr
      ∧ (∀ k ∈ maskPorts 0x2000, portUp (portOf keystone16 k) = true ∧ (portOf keystone16 k).rotateTx = false ∧ (portOf keystone16 k).rotateRx = false) := by
  unfold CmdReady; and_intros <;> decide +kernel

theorem test_witness_GroupCommands_identity : formParams.identities.getD formParams.rank [] = moduleIdentity := rfl

/-- Stream 15 of partition 3 in use, with an 8-bit alive of which 255 comes next, and its record in the host's memory. -/
def cvStream : Stream := { inUse := true, poly := 3, running := 0x1122334455667788, checkAlive := true, expected := 255, byteCount := 9 }
def cvUp : State := { hosted with parts := [(3, { present := true, maxContexts := 4, maxQueues := 4, streams := [(15, cvStream)] })] }
def cvStored : State := { hosted with host := { hosted.host with mem := writeBytes [] 0x10000 (streamRecord cvStream 3 15) } }
def cvGiven (start : Bool) : CvRunParams :=
  { stream := 15, start := start, final := true, alive16 := false, checkAlive := true, poly := 3, alive := 255, src := hostDst, bytes := if start then 0 else 128 }

theorem test_witness_PowerAndCheckCommands :
    CmdReady hosted (.powerCapSet someHdr 1200) someHdr ∧ CmdReady hosted (.powerPrioritySet someHdr 2 0 1) someHdr ∧ CmdReady hosted (.powerRead modHdr modDst) modHdr
      ∧ DstReady hosted modHdr modDst 64 ∧ CmdReady hosted (.vfTableRead modHdr modDst) modHdr ∧ CmdReady hosted (.calibrate someHdr) someHdr ∧ braked hosted.power = false
      ∧ thermalLimited hosted = false
      ∧ CmdReady cvUp (.cvRun vfHdr (cvGiven false)) vfHdr ∧ streamOf cvUp 3 15 = cvStream ∧ SrcReady cvUp vfHdr hostDst 128 ∧ longPending cvUp (runsStream 3 15) = false
      ∧ 255 % aliveSpan cvStream.alive16 = cvStream.expected ∧ CmdReady hosted (.cvRun vfHdr (cvGiven true)) vfHdr ∧ (cvGiven true).bytes = 0 ∧ (cvGiven true).final = true
      ∧ CmdReady cvUp (.cvSave vfHdr 15 hostDst) vfHdr ∧ DstReady cvUp vfHdr hostDst 32
      ∧ CmdReady cvStored (.cvRestore vfHdr 15 hostDst) vfHdr ∧ SrcReady cvStored vfHdr hostDst 32 ∧ (streamOf cvStored 3 15).inUse = false ∧ peekPoison cvStored 3 hostDst 32 = false := by
  unfold CmdReady DstReady SrcReady; and_intros <;> decide +kernel

theorem test_witness_PowerAndCheckCommands_record :
    let r := peekObj cvStored 3 hostDst 32
    fieldAt r 0x1C 4 = crc32c (r.take 0x1C) ∧ fieldAt r 0 2 = 0x5643 ∧ fieldAt r 2 1 < 4 ∧ fieldAt r 4 1 = 3 ∧ recordStream r = cvStream := by
  decide +kernel

/-- A dump of one part. -/
def someDump : Dump := { id := 9, hold := true, frame := 4, cls := 1, number := 255, verdict := 2, parts := [] }
def dumped : State := { hosted with health := { hosted.health with dumps := [someDump] } }
theorem test_witness_HealthAndDebugCommands :
    CmdReady hosted (.resetDomain someHdr 0 4095) someHdr ∧ 4095 < domainCount 0 ∧ (⟨0, 4095⟩ : Domain) ∉ hosted.health.resetting ∧ CmdReady hosted (.resetDomain someHdr 4 1) someHdr
      ∧ CmdReady hosted (.resetDomain someHdr 5 0) someHdr ∧ (⟨5, 0⟩ : Domain) ∉ hosted.health.resetting
      ∧ CmdReady hosted (.healthRead modHdr modDst 0x1000) modHdr ∧ (healthRecord hosted).length ≤ 0x1000 ∧ DstReady hosted modHdr modDst (healthRecord hosted).length
      ∧ CmdReady hosted (.hangPolicySet someHdr 2) someHdr ∧ CmdReady hosted (.spareMapRead modHdr modDst) modHdr ∧ DstReady hosted modHdr modDst 736
      ∧ CmdReady hosted (.marginRun modHdr 23 2 modDst) modHdr ∧ DstReady hosted modHdr modDst 64 ∧ (∀ e ∈ hosted.mem.ranges, e.2.size = 0 ∨ stackNo e.2.base ≠ 23)
      ∧ longPending hosted (marginsStack 23) = false
      ∧ CmdReady hosted (.traceConfig someHdr 3 modDst 65536) someHdr ∧ isHostAddr modDst = true ∧ (windowFor hosted 8 modDst 65536 true).isSome = true ∧ traceRingSize 65536 = true
      ∧ tickPending hosted isTraceConfig = false := by
  unfold CmdReady DstReady; and_intros <;> decide +kernel

theorem test_witness_HealthAndDebugCommands_reads :
    CmdReady hosted (.counterRead someHdr 0 4095 1 hostDst) someHdr ∧ 4095 + 1 ≤ classInstances 0 ∧ DstReady hosted someHdr hostDst (1 * classRecord 0)
      ∧ CmdReady hosted (.counterRead vfHdr 7 0 1 hostDst) vfHdr ∧ DstReady hosted vfHdr hostDst (1 * classRecord 7) ∧ ¬ (3 ≤ 7 ∧ 7 ≤ 5) ∧ runningPart hosted = some 3
      ∧ CmdReady hosted (.waitgraphRead modHdr modDst 0x4000) modHdr ∧ (graphRecord hosted.health.graph).length ≤ 0x4000 ∧ DstReady hosted modHdr modDst (graphRecord hosted.health.graph).length
      ∧ CmdReady dumped (.dumpRead someHdr 9 hostDst 4096) someHdr ∧ dumpOf dumped 9 = some someDump ∧ (dumpReply someHdr someDump).length ≤ 4096
      ∧ DstReady dumped someHdr hostDst (dumpReply someHdr someDump).length
      ∧ CmdReady keystone16 (.stepGate someHdr 1 65535) someHdr ∧ keystone16.grp.state = .keystone ∧ 16 ≤ keystone16.grp.members.length := by
  unfold CmdReady DstReady; and_intros <;> decide +kernel

/-- A long command without an outcome, alone. -/
def longOf (i : Instr) (h : CmdHdr) : LongCmd := { op := i, image := [], hdr := h, accepted := 0, reply := none }
def longUp (l : LongCmd) : State := { hosted with host := { hosted.host with long := [l], queues := [(0, some hq), (255, some { hq with inFlight := [] })] } }

theorem test_witness_LongCommandEnds :
    (∀ l ∈ [longOf (.queueDelete someHdr 255) someHdr, longOf (.scrubRange vfHdr 0 0x200000 1) vfHdr, longOf (.calderaInval vfHdr 0 0x200000) vfHdr,
        longOf (.bulkLoad vfHdr hostDst 0 128) vfHdr, { longOf (.calibrate someHdr) someHdr with reply := some (stDone, 5, 6) }],
      (longUp l).host.long.find? (fun m => m.hdr.queue == l.hdr.queue && m.hdr.sqPos == l.hdr.sqPos) = some l)
      ∧ queueOf? (longUp (longOf (.queueDelete someHdr 255) someHdr)) 255 = some { hq with inFlight := [] } ∧ 255 ≠ someHdr.queue
      ∧ hostTarget hosted 3 hostDst 128 false = some 0x10000
      ∧ (∀ j, 0 / 128 ≤ j → j < (0 + 128) / 128 → lineGone hosted j = false ∧ calFind hosted j = none) := by
  refine ⟨by decide +kernel, by decide, by decide, by decide +kernel, fun j _ h => ?_⟩
  have : j = 0 := by omega
  subst this; decide +kernel

theorem test_witness_LongCommandEnds_scrub : ∀ j, 0 / 128 ≤ j → j < (0 + 0x200000) / 128 → lineGone hosted j = false := by
  intro j _ h
  have e : hosted.mem.stackUnits = [] := rfl
  simp [lineGone, stackOf, e, mget]
  exact ⟨by decide, by simp [Stack.reset]⟩

theorem test_witness_DoorbellsAndReads :
    queueOf? hosted 0 = some hq ∧ hq.owner = 0 ∧ hq.enabled = true ∧ 15 < 2 ^ hq.sqLog2 ∧ 2 ^ hq.sqLog2 ≤ 16 ∧ 15 < 2 ^ hq.cqLog2
      ∧ (15 + 16 - hq.cqHead) % 16 ≤ (hq.cqTail + 16 - hq.cqHead) % 16 ∧ (fnOf hosted 8).dbFault < 2 ^ 32 := by decide

/-! ### The host's registers, tables and rings -/

/-- Function 8's admin ring is out of use with good bases; its event ring too; the same with both in use. -/
def ringOff : State := setFn hosted 8 { fnOf hosted 8 with aqSqBase := 0x40, aqCqBase := 0x40, evqBase := 0x40 }
def ringOn : State :=
  let s := setQueue ringOff 8 (some (newQueue 1 8 0x40 0x40 4 12 255))
  setFn s 8 { fnOf s 8 with aqEnable := true, evqEnable := true, evqEnabled := true }

theorem test_witness_RingRegisters :
    aqEnabled ringOff 8 = false ∧ (fnOf ringOff 8).aqSqBase ≠ 0 ∧ (fnOf ringOff 8).aqCqBase ≠ 0 ∧ (fnOf ringOff 8).evqEnabled = false ∧ (fnOf ringOff 8).evqBase ≠ 0
      ∧ queueOf? ringOn 8 = some (newQueue 1 8 0x40 0x40 4 12 255) ∧ aqEnabled ringOn 8 = true ∧ (fnOf ringOn 8).evqEnabled = true := by decide

/-- Entry 127 but for its flags, which come as the last byte; and the first word of exposure 63. -/
def readyWin : HostWin := { devBase := 0x400000200000, size := 0x200000, hostAddr := 0x300000, owner := 8, kind := 2 }
def tableUp : State := { hosted with host := { hosted.host with windows := [(0, winP), (127, readyWin)], exposures := [(63, { word1 := 0x0300000001 })] } }

theorem test_witness_HostTables :
    let w := windowAt tableUp 127
    let new := winOf (((winBytes w).take 26 ++ leBytes 7 1 ++ (winBytes w).drop (26 + 1)).take 32)
    let m : Exposure := { exposureAt tableUp 63 with word0 := 0x8000000000200000 &&& 0x8000FFFFFFFFFFFF }
    bit w.flags.toNat 0 = false ∧ bit new.flags.toNat 0 = true ∧ winDefect new = false ∧ winOverlap tableUp 127 new = false
      ∧ expValid (exposureAt tableUp 63) = false ∧ expValid m = true ∧ expDefect m = false ∧ expOverlap tableUp 63 m = false
      ∧ expValid (exposureAt exposed 0) = true ∧ bit (0xFFFFFFFFFFFFFFFF : BitVec 64).toNat 63 = true := by decide

theorem test_witness_CxlPort :
    0 < 8 ∧ 8 < 9 ∧ 8 ∈ [1, 2, 4, 8] ∧ 64 ∈ [16, 32, 64] ∧ State.reset.rot.spdm.session = false
      ∧ { hosted with rot := { hosted.rot with spdm := { hosted.rot.spdm with session := true } } }.rot.spdm.session = true := by decide

/-- A NOP of function 0, queue 0, alive 0, at entry 15 of the submission ring; one that is ordered; one whose crc fails. -/
def nopHead (flags : Nat) : List Byte := leBytes 1 2 ++ leBytes flags 1 ++ [3] ++ leBytes 32 2 ++ [0, 0] ++ leBytes 0 2 ++ leBytes 0 2 ++ leBytes 7 4 ++ List.replicate 12 0
def nopPacket (flags : Nat) : List Byte := nopHead flags ++ leBytes (crc32c (nopHead flags)) 4
def fetchQ : Queue := { hq with sqHead := 15, sqTail := 0, cqTail := 0, phase := true }
def fetchUp (packet : List Byte) (busy : List (Nat × Nat)) : State :=
  { hosted with host := { hosted.host with linkUp := true, queues := [(0, some { fetchQ with inFlight := busy })], mem := writeBytes [] (0x8000 + 64 * 15) packet } }

theorem test_witness_PacketFetch :
    let p := ringBytes (fetchUp (nopPacket 2) []) fetchQ 15 32
    let h := headerOf { fetchQ with inFlight := [] } 0 p
    let o := ringBytes (fetchUp (nopPacket 3) [(5, 9)]) fetchQ 15 32
    let g := headerOf fetchQ 0 o
    fetches (fetchUp (nopPacket 2) []) = true ∧ turn (fetchUp (nopPacket 2) []) = some 0 ∧ fieldAt (ringBytes (fetchUp (nopPacket 2) []) fetchQ 15 64) 4 2 = 32
      ∧ 1 ≤ ringSpan fetchQ.sqLog2 fetchQ.sqHead fetchQ.sqTail ∧ packetCrcOk p = true ∧ checkPacket { fetchQ with inFlight := [] } 0 h p = .command (.nop h) ∧ h.ordered = false
      ∧ turn (fetchUp (nopPacket 3) [(5, 9)]) = some 0 ∧ packetCrcOk o = true ∧ checkPacket fetchQ 0 g o = .command (.nop g) ∧ g.ordered = true
      ∧ packetCrcOk (ringBytes (fetchUp (nopHead 2 ++ leBytes 5 4) []) fetchQ 15 32) = false
      ∧ fetches (fetchUp (nopPacket 2) []) = true ∧ turn { fetchUp (nopPacket 2) [] with host := { (fetchUp (nopPacket 2) []).host with queues := [(0, some hq)] } } ≠ some 0 := by
  decide +kernel

/-! ### Frames, rows and recovery -/

/-- A module that runs, alone: the next tick is planned at 20 µs. The same where its last frame was in overrun, and with SYNC_IN as source. -/
def timed : State := { up with frames := { up.frames with planned := 20000 } }
def overrunUp : State := { timed with frames := { timed.frames with overrun := true, overrunRun := 16 } }
def syncUp : State := { timed with frames := { timed.frames with cfg := { timed.frames.cfg with source := 2 } } }
def freeUp : State := { syncUp with frames := { syncUp.frames with freeRun := true, syncLost := true } }
/-- A cell that still runs its tile. -/
def busyUp : State := { timed with cells := [(4095, { active := true })] }

theorem test_witness_FrameTimer :
    ticking timed = true ∧ tickSource timed = 0 ∧ timed.grp.lateRanks = [] ∧ anyOverrun timed = false ∧ timed.health.hangAt = none
      ∧ ticking overrunUp = true ∧ anyOverrun overrunUp = true ∧ overrunUp.frames.stretch < overrunUp.frames.cfg.maxQuanta
      ∧ overrunUp.frames.cfg.maxQuanta ≤ { overrunUp.frames with stretch := 4 }.stretch
      ∧ ticking syncUp = true ∧ tickSource syncUp = 2 ∧ syncUp.grp.tickInfo = none ∧ syncUp.frames.lastTick + (periodNs syncUp.frames.cfg - 2000) ≤ 18000
      ∧ 17999 < syncUp.frames.lastTick + (periodNs syncUp.frames.cfg - 2000) ∧ syncUp.frames.freeRun = false ∧ 2 * syncUp.frames.lastTick + 3 * periodNs syncUp.frames.cfg ≤ 2 * 30000
      ∧ syncUp.grp.announced = [] ∧ syncUp.frames.announced = none ∧ syncUp.host.ticking = []
      ∧ ticking freeUp = true ∧ tickSource freeUp ≠ 0 ∧ freeUp.frames.lastTick + periodNs freeUp.frames.cfg ≤ 20000
      ∧ timed.frames.checked = false ∧ checkAt timed ≤ 19000 ∧ frameComplete timed = true ∧ deadlineMissed timed = false ∧ ticking busyUp = true ∧ frameComplete busyUp = false := by
  and_intros <;> decide

/-- A step waits in context 31, which has the small image; one runs, in an image whose row is damaged; both at row 0. -/
def rowCtx : Ctx := { stepCtx with queue := [someStep] }
def badRowCtx : Ctx := { stepCtx with bankA := some { image := smallImage.set (8192 + 4) 9, generation := 0 }, inFlight := some { someStep with rowCount := 2, row := 0 } }
def rowUp (x : Ctx) : State := { hosted with ctxs := [(31, some x)] }

theorem test_witness_RowsAndRecovery_fetch :
    ticking (rowUp rowCtx) = true ∧ fetchCtx (rowUp rowCtx) = some 31 ∧ fetchCtx { rowUp rowCtx with residency := {} } = some 31 ∧ fetchTarget rowCtx = some (0, false)
      ∧ (fetchRow (rowUp rowCtx) 31 rowCtx (fetchStep rowCtx) 0).isSome = true
      ∧ fetchTarget badRowCtx = some (0, true) ∧ AbortCause.rowFetch ∉ badRowCtx.abortNext := by
  and_intros <;> decide +kernel

theorem test_witness_RowsAndRecovery_crc :
    let row := (bankRead (rowUp badRowCtx) badRowCtx 8192 32).getD []
    bankRead (rowUp badRowCtx) badRowCtx 8192 32 = some row ∧ bankRead (rowUp badRowCtx) badRowCtx 8192 (32 + 8 * fieldAt row 8 2) = some row
      ∧ secOff (activeImage badRowCtx) 1 + ((section_ (activeImage badRowCtx) 1).length - (rowsFrom (section_ (activeImage badRowCtx) 1) 0).length) = 8192
      ∧ crc32c (rowCrcBytes row) ≠ fieldAt row 0x1C 4 := by
  and_intros <;> decide +kernel

/-- The control range stands at 0, its bank behind the partition's range; and a row of 16 entries whose second line is poisoned. -/
def ctlCtx : Ctx := { stepCtx with sources := [{ stateEntry with kind := 3 }] }
def cutUp : State :=
  { rowUp ctlCtx with mem := { memUp.mem with ranges := [(0, { range3 with size := 0x400000 })], bytes := [(0x202008, 16)], lines := [(0x202000 / 128, { key := ownerKey memUp 3 }), (0x202080 / 128, { key := ownerKey memUp 3, poison := true })] } }

theorem test_witness_RowsAndRecovery_control :
    bankRead (rowUp ctlCtx) ctlCtx 8192 32 = none ∧ (bankRead cutUp ctlCtx 8192 32).map (fun h => fieldAt h 8 2) = some 16 ∧ bankRead cutUp ctlCtx 8192 160 = none
      ∧ (activeBank rowCtx).isSome = true ∧ ((fetchRow (rowUp rowCtx) 31 rowCtx (fetchStep rowCtx) 0).map (fun p => p.2)) = some [] := by
  and_intros <;> decide +kernel

/-- A context to reconcile, one whose weight block at the last place is to be reloaded without a host copy, and one with a copy. -/
def reconcileCtx : Ctx := { stepCtx with reconcile := true }
def reloadCtx (host : Nat) : Ctx := { plainCtx with sources := [{ stateEntry with kind := 0, host := host }], reload := [0x1F0000] }

theorem test_witness_RowsAndRecovery :
    isKeystone overrunUp = true ∧ 16 ≤ overrunUp.frames.overrunRun ∧ { running openCtx with frames := overrunUp.frames }.residency.current = some 31
      ∧ { openCtx with inFlight := some someStep }.inFlight ≠ none ∧ AbortCause.overrun ∉ openCtx.abortNext ∧ timed.frames.overrunRun < 16 ∧ (∀ e ∈ timed.grp.overrunRanks, e.2 < 16)
      ∧ alive hosted = true ∧ reconcileCtx.reconcile = true ∧ workIdle (rowUp reconcileCtx) 31 = true ∧ (rowUp reconcileCtx).residency.current = some 31 ∧ mapWf Cell.reset (rowUp reconcileCtx).cells = true
      ∧ stepCtx.reconcile = false ∧ (reloadCtx 0).reload = [0x1F0000] ∧ entryOf (reloadCtx 0) 0x1F0000 = some { stateEntry with kind := 0, host := 0 }
      ∧ ticking State.reset = false := by
  and_intros <;> decide +kernel

theorem test_witness_RowsAndRecovery_reload :
    let x : Ctx := { reloadCtx hostDst with reload := [0x8000] }
    (reloadBlock (rowUp x) 31 0x8000).isSome = true ∧ x.reload = [0x8000] := by decide +kernel

/-! ### Links, messages and collectives -/

/-- A module whose port 13 is as given; a port that trains, with lane 8 failed. -/
def linked (x : Port) : State := { hosted with ports := [(13, x)] }
def trainPort (phase : Nat) : Port := { state := .training, phase := phase, lanes := if phase < 3 then 0 else 8, failedLanes := [8] }
/-- Flits that stand in the replay buffer, the older at its last replay; a port with them, whose next flit to take is the last number. -/
def oldFlit (n k : Nat) : TxFlit := { seq := n, vc := 0, recPos := 0, phase := false, payload := [], replays := k, op := none }
def busyPort : Port := { upPort with recvSeq := 4095, unacked := [oldFlit 4094 63, oldFlit 4095 0] }
def dataHead : FlitHead := { seq := 4095, ack := 4094, nak := false, vc := 3, recPos := 3, phase := false, crVc := 3, crTotal := 2047, ltype := 0 }
/-- A data flit in order, one beyond it, one that asks for a replay, a link control flit, and one whose check value is wrong. -/
def dataFlit : List Byte := flitBytes dataHead [1]
def aheadFlit : List Byte := flitBytes { dataHead with seq := 0 } [1]
def nakFlit : List Byte := flitBytes { dataHead with ltype := 1, nak := true, ack := 4093 } []
def askFlit : List Byte := flitBytes { dataHead with ltype := 2 } []
def badFlit : List Byte := dataFlit.take 248 ++ leBytes (crc64 (dataFlit.take 248) ^^^ 1) 8

theorem test_witness_LinkEvents_training :
    (∀ k ∈ [1, 2, 3, 4, 5], (portOf (linked (trainPort k)) 13).state = .training ∧ (portOf (linked (trainPort k)) 13).phase = k)
      ∧ 4 ≤ 9 - ((trainPort 2).failedLanes ++ ([0, 1, 2, 3].filter (fun l => !(trainPort 2).failedLanes.contains l))).length
      ∧ 9 - ((trainPort 2).failedLanes ++ ([0, 1, 2, 3, 4].filter (fun l => !(trainPort 2).failedLanes.contains l))).length < 4 ∧ upPort.state ≠ .training
      ∧ peerAsDescribed (linked (trainPort 5)) 13 = true
      ∧ peerAsDescribed { linked (trainPort 5) with grp := { hosted.grp with form := some formParams } } 13 = false
      ∧ portUp (portOf (linked upPort) 13) = true ∧ 8 ∉ upPort.failedLanes ∧ portUp (portOf (linked (trainPort 1)) 13) = false := by
  and_intros <;> decide

theorem test_witness_LinkEvents_flits :
    portUp busyPort = true ∧ headOf dataFlit = dataHead ∧ dataHead.ltype = 0 ∧ dataHead.nak = false ∧ dataHead.seq = busyPort.recvSeq ∧ waitingRecs busyPort = 0
      ∧ (headOf aheadFlit).seq ≠ busyPort.recvSeq ∧ (headOf aheadFlit).nak = false ∧ (headOf askFlit).ltype = 2 ∧ (headOf askFlit).nak = false
      ∧ (headOf nakFlit).ltype = 1 ∧ (headOf nakFlit).nak = true ∧ busyPort.unacked ≠ [] ∧ ∀ f ∈ busyPort.unacked, f.seq ≠ (headOf nakFlit).ack := by
  and_intros <;> decide +kernel

theorem test_witness_LinkEvents_crc :
    (∀ f ∈ [dataFlit, aheadFlit, nakFlit, askFlit], f.length = 256 ∧ flitGood f = true) ∧ badFlit.length = 256 ∧ flitGood badFlit = false := by
  have n : (dataFlit.take 248).length = 248 := by rw [List.length_take, show dataFlit.length = 256 from (flitGood_flitBytes _ _).1]; rfl
  have c := crc64_lt (dataFlit.take 248)
  have x : crc64 (dataFlit.take 248) ^^^ 1 ≠ crc64 (dataFlit.take 248) := fun h => by
    have := congrArg (crc64 (dataFlit.take 248) ^^^ ·) h
    simp only [← Nat.xor_assoc, Nat.xor_self, Nat.zero_xor] at this
    cases this
  refine ⟨?_, by rw [badFlit, List.length_append, n, length_leBytes], ?_⟩
  · intro f hf
    simp only [List.mem_cons, List.not_mem_nil, or_false] at hf
    rcases hf with rfl | rfl | rfl | rfl <;> exact flitGood_flitBytes _ _
  · rw [badFlit, flitGood_append _ _ n (Nat.xor_lt_two_pow c (by decide)), decide_eq_false x]

/-- A short record of one flit, as the peer at the other end sends it under the first key. -/
def sealed : List Byte × List Byte := recordSeal {} [] 0xFF 3 1 (List.replicate 16 7)
def rxFlit (payload : List Byte) : RxFlit := { seq := 4095, vc := 3, recPos := 0, phase := false, payload := payload }
def rxPort (payload : List Byte) : Port := { upPort with peerId := [], peerPort := 0xFF, rx := [rxFlit payload] }

theorem test_witness_LinkEvents_records :
    firstRecord 4 (rxPort []).rx = some [rxFlit []] ∧ firstRecord 4 upPort.rx = none
      ∧ (recordPlain (rxPort (sealed.1 ++ sealed.2)) [rxFlit (sealed.1 ++ sealed.2)]) = some (0, List.replicate 16 7)
      ∧ recordPlain (rxPort []) [rxFlit []] = none
      ∧ upPort.tagFailedOnce = false ∧ { upPort with tagFailedOnce := true }.tagFailedOnce = true
      ∧ upPort.rotateTx = false ∧ upPort.tx.counter < keyLimit ∧ keyLimit ≤ { upPort with tx := { counter := 2 ^ 40 } }.tx.counter := by
  and_intros <;> decide +kernel

/-- Context 31 belongs to the group and runs; rank 1 is reached over port 13. -/
def groupCtx : Ctx := { openCtx with group := true }
def groupUp (x : Coll) : State :=
  { keystone16 with
    ctxs := [(31, some groupCtx)], colls := [(1, x)], mem := memUp.mem, residency := { keystone16.residency with current := some 31 }
    grp := { keystone16.grp with size := 2, members := [0, 1], form := some formParams } }
def someMsg : Msg :=
  { port := 13, srcRank := 1, dstRank := 0, partition := 3, context := 31, elem := 0, redop := 1, poison := 0, addr := 0x100, length := 128, reserved := false, opId := 4, frame := 0
    body := List.replicate 16 0, data := List.replicate 128 1 }
def request : Msg := { someMsg with length := 0, data := [], body := leBytes 0x100 6 ++ leBytes 0 2 ++ leBytes 896 2 ++ leBytes 0 6, addr := 0x400 }
def postMsg : Msg := { request with addr := 0, body := leBytes 4095 2 ++ [63, 0] ++ leBytes 65535 2 ++ leBytes 0 10 }
def fenceMsg : Msg := { request with addr := 0, body := leBytes 7 4 ++ leBytes 0 12 }
/-- The keystone has started the operations below 5. -/
def dataUp : State := groupUp { nextId := 5 }

/-- A contribution of an operation that has not started is held. -/
def dataHeld : State := groupUp { nextId := 5, held := [(1, { someMsg with opId := 5 })] }
/-- The state in which a message is looked at. -/
def taken (s : State) (m : Msg) : State := resumeColl (account (received s m) m.context (acGlonyRx + m.port) (48 + m.data.length)) (portEngine m.port)

theorem test_witness_DataMessages :
    MsgArrives dataUp someMsg ∧ msgKnown dataUp someMsg = true ∧ dataOk someMsg = true ∧ findOp (taken dataUp someMsg) 1 4 = none ∧ mustWait (taken dataUp someMsg) 0 someMsg = false
      ∧ (writeLines (taken dataUp someMsg) (msgActor someMsg) 0x100 (msgLines someMsg)).2 = none
      ∧ (writeLines (taken dataUp { someMsg with partition := 4 }) (msgActor { someMsg with partition := 4 }) 0x100 (msgLines someMsg)).2 = some 0x100
      ∧ (redOf someMsg.elem someMsg.redop).isSome = true ∧ mustWait (taken dataUp someMsg) 1 someMsg = false ∧ notPlain (taken dataUp someMsg) 3 0x100 128 = none
      ∧ notPlain (taken dataUp someMsg) 3 0x200000 128 ≠ none
      ∧ MsgArrives dataHeld someMsg ∧ msgKnown dataHeld someMsg = true ∧ mustWait (taken dataHeld someMsg) 0 someMsg = true
      ∧ MsgArrives (groupUp {}) someMsg ∧ msgKnown (groupUp {}) someMsg = true ∧ tooEarly (taken (groupUp {}) someMsg) someMsg = true := by
  unfold MsgArrives; and_intros <;> decide +kernel

theorem test_witness_DataMessages_bare :
    MsgArrives dataUp request ∧ msgKnown dataUp request = true ∧ fieldAt request.body 8 2 = 896 ∧ fieldAt request.body 6 2 = 0 ∧ fieldAt request.body 10 6 = 0
      ∧ (collRead (taken dataUp request) (msgActor request) request.addr 896).2.2 = none
      ∧ MsgArrives dataUp postMsg ∧ msgKnown dataUp postMsg = true ∧ fieldAt postMsg.body 0 2 = 4095 ∧ fieldAt postMsg.body 2 1 = 63 ∧ fieldAt postMsg.body 3 1 = 0 ∧ fieldAt postMsg.body 6 10 = 0
      ∧ mustWait (taken dataUp postMsg) 4 postMsg = false ∧ (findOp (taken dataUp postMsg) 1 4).isSome = false ∧ 4 < (collOf (taken dataUp postMsg) 1).nextId
      ∧ cellGuard (taken dataUp postMsg) 3 = true ∧ MsgArrives (groupUp {}) postMsg ∧ mustWait (taken (groupUp {}) postMsg) 4 postMsg = false ∧ (collOf (taken (groupUp {}) postMsg) 1).nextId ≤ 4
      ∧ MsgArrives dataUp fenceMsg ∧ msgKnown dataUp fenceMsg = true ∧ fieldAt fenceMsg.body 4 12 = 0 ∧ mustWait (taken dataUp fenceMsg) 11 fenceMsg = false
      ∧ MsgArrives dataHeld fenceMsg ∧ msgKnown dataHeld fenceMsg = true ∧ mustWait (taken dataHeld fenceMsg) 11 fenceMsg = true
      ∧ MsgArrives dataUp { someMsg with reserved := true } ∧ msgKnown dataUp { someMsg with reserved := true } = false := by
  unfold MsgArrives; and_intros <;> decide +kernel

/-- A record of an operation: opcode, deadline, peer, whether it posts locally, its ranks, its wait and its post word. -/
def collRaw (op deadline peer loc ranks waitW postW : Nat) : List Byte :=
  [BitVec.ofNat 8 op, 0, 0, BitVec.ofNat 8 deadline, BitVec.ofNat 8 peer, BitVec.ofNat 8 loc, 0, 0] ++ leBytes ranks 8 ++ leBytes 0x100 8 ++ leBytes 0x200 8 ++ leBytes 128 4
    ++ leBytes 0x2000 4 ++ leBytes waitW 8 ++ leBytes postW 8 ++ leBytes 0 8
def collOp (id : Nat) (raw : List Byte) (started : Bool) : CollOp :=
  { raw := raw, context := 31, step := 0, opId := id, startFrame := 0, joined := false, granted := false, started := started, fence := [], after := [], gathering := false, posted := false, timedOut := false, failedOnce := false, waitAt := {} }
def sendOp : CollOp := collOp 4 (collRaw 0 2 0 0 3 0 0) false
def fenceOp : CollOp := collOp 4 (collRaw 7 2 0 0 3 0 0) false
/-- An operation that waits for a semaphore, one of rank 0 alone that is done, the same with a local post of one to semaphore 63 of cell 4095. -/
def heldOp : CollOp := collOp 4 (collRaw 0 2 0 0 3 (4095 * 2 ^ 52 + 2 ^ 30) 0) false
def doneOp : CollOp := collOp 4 (collRaw 0 2 0 0 1 0 0) true
def postOp : CollOp := collOp 4 (collRaw 0 2 0 1 1 0 (4095 * 2 ^ 52 + 63 * 2 ^ 46 + 2 ^ 30)) true
def waitOp : CollOp := { sendOp with started := true }
def opUp (o : CollOp) : State := { groupUp { ops := [o], nextId := 5 } with frames := { up.frames with counter := 5 } }

/-- The same wait at the head of its semaphore's queue, satisfied and not. -/
def queuedOp : CollOp := { heldOp with joined := true }
def queuedOpUp (v : Nat) : State := { opUp queuedOp with cells := [(4095, { semQ := [(0, [.collective 1 4 1])], sem := [(0, { value := v })] })] }

theorem test_witness_CollectiveOperations :
    (∀ o ∈ [sendOp, fenceOp, heldOp, doneOp, postOp, waitOp, queuedOp], (collOf (opUp o) 1).ops[0]? = some o ∧ findOp (opUp o) 1 o.opId = some o)
      ∧ sendOp.started = false ∧ sendOp.failedOnce = false ∧ ¬ 16 ≤ inProgress (collOf (opUp sendOp) 1) ∧ sendOp.joined = false ∧ opReady (opUp sendOp) sendOp = true
      ∧ opCode sendOp = 0 ∧ opPeer sendOp = (opUp sendOp).grp.rank ∧ (collOf (opUp sendOp) 1).held = [] ∧ missingRanks (opUp sendOp) (collOf (opUp sendOp) 1) sendOp ≠ []
      ∧ opReady (opUp fenceOp) fenceOp = true ∧ opCode fenceOp = 7 ∧ othersOf (opUp fenceOp) fenceOp = [1] ∧ fencePorts (opUp fenceOp) 1 = [13]
      ∧ opReady (opUp { fenceOp with joined := true }) { fenceOp with joined := true } = false
      ∧ queuedOp.joined = true ∧ queuedOp.granted = false ∧ opCode queuedOp ≠ 7 ∧ opWord queuedOp 0x28 = (4095, 0, 1)
      ∧ (∀ v, (mget [] (cellOf (queuedOpUp v) 4095).semQ 0).head? = some (.collective 1 4 1)) ∧ 1 ≤ (semOf (cellOf (queuedOpUp 1) 4095) 0).value ∧ (semOf (cellOf (queuedOpUp 0) 4095) 0).value < 1
      ∧ opDone (opUp doneOp) 1 doneOp = true ∧ (opWord doneOp 0x30).2.2 = 0
      ∧ opDone (opUp postOp) 1 postOp = true ∧ opWord postOp 0x30 = (4095, 63, 1) ∧ opLocal postOp = true ∧ receives (opUp postOp) postOp = false ∧ opCode postOp ≠ 7
      ∧ cellGuard (opUp postOp) (collActor (opUp postOp) 1 31).owner = true
      ∧ opDone (opUp waitOp) 1 waitOp = false ∧ opDeadline waitOp + 3 ≤ opAge (opUp waitOp) waitOp ∧ opAge (opUp waitOp) { waitOp with startFrame := 1 } < opDeadline waitOp + 3 := by
  and_intros <;> first | decide +kernel | (intro v; rfl)

/-- A member that takes its ticks from the messages of rank 1, with port 13 up; and messages of the group. -/
def memberUp : State := { member16 with ports := [(13, upPort)], grp := { member16.grp with keystoneRank := 1 } }
def control (src frame : Nat) (body : List Byte) : Msg :=
  { someMsg with srcRank := src, partition := 8, context := 0xFFFF, redop := 0, addr := 0, length := 0, data := [], frame := frame, body := body ++ List.replicate (16 - body.length) 0 }
def joinUp (p : GroupFormParams) : State := { linked upPort with grp := { hosted.grp with state := .joining, form := some p, formHdr := some someHdr, reach := [(0, 3), (1, 3)] } }

theorem test_witness_ControlMessages :
    MsgArrives memberUp (control 1 1 []) ∧ ctlOk (control 1 1 []) = true ∧ memberUp.grp.announced = [] ∧ memberUp.grp.state = .member ∧ ticking memberUp = true ∧ tickSource memberUp = 1
      ∧ 2 ^ 47 ≤ (frameNow memberUp + 2 ^ 48 - (control 1 1 []).frame) % 2 ^ 48 ∧ memberUp.frames.lastTick + (periodNs memberUp.frames.cfg - 2000) ≤ 18000 ∧ memberUp.health.hangAt = none
      ∧ memberUp.grp.tickMore = false ∧ (frameNow memberUp + 2 ^ 48 - (control 1 0 []).frame) % 2 ^ 48 < 2 ^ 47
      ∧ (control 1 0 []).frame = frameNow memberUp ∧ keystone16.grp.state ≠ .member ∧ MsgArrives keystone16 (control 15 0 [1])
      ∧ fromMember keystone16 (control 15 0 [1]) = true ∧ bit (fieldAt (control 15 0 [1]).body 0 1) 0 = true ∧ 15 ∉ keystone16.grp.lateRanks ∧ fromMember memberUp (control 15 0 [1]) = false
      ∧ fieldAt (control 15 0 [0x17]).body 0 1 < 32 ∧ bit (fieldAt (control 15 0 [0x17]).body 0 1) 3 = false ∧ keystone16.grp.abortAsk = []
      ∧ MsgArrives (joinUp formParams) (control 1 0 [1, 0, 0, 0, 0, 1, 0, 0, 3])
      ∧ fieldAt (control 1 0 [1, 0, 0, 0, 0, 1, 0, 0, 3]).body 0 4 = formParams.groupId ∧ fieldAt (control 1 0 [1, 0, 0, 0, 0, 1, 0, 0, 3]).body 5 1 = 1 ∧ 1 ≠ (joinUp formParams).grp.rank
      ∧ fieldAt (control 1 0 [2]).body 0 4 ≠ formParams.groupId ∧ MsgArrives keystone16 { control 15 0 [] with reserved := true }
      ∧ mget 0 { keystone16.grp with missed := [(15, 8)] }.missed 15 = 8 ∧ 15 ∈ keystone16.grp.members ∧ 15 ∉ keystone16.grp.lost := by
  unfold MsgArrives; and_intros <;> decide +kernel

theorem test_witness_ControlMessages_relay :
    let m : Msg := { control 1 0 [] with dstRank := 5 }
    let two : State := { memberUp with ports := [(12, upPort), (13, upPort)], grp := { memberUp.grp with form := some { formParams with portMap := List.replicate 12 0xFF ++ [5, 1] } } }
    MsgArrives memberUp m ∧ ctlOk m = true ∧ m.dstRank ≠ memberUp.grp.rank ∧ memberUp.grp.state ≠ .standalone ∧ m.length = 0 ∧ leNat m.body = 0
      ∧ portTo (received memberUp m) 5 (some 13) = none ∧ MsgArrives two m ∧ portTo (received two m) 5 (some 13) = some 12 := by
  unfold MsgArrives; and_intros <;> decide +kernel

theorem test_witness_ControlMessages_join :
    (joinUp formParams).grp.state = .joining ∧ (joinUp formParams).grp.startFrame = none ∧ (joinUp formParams).grp.announced = []
      ∧ chooseKeystone (joinUp formParams) formParams = some 0 ∧ formParams.rejoin = false
      ∧ chooseKeystone (joinUp { formParams with size := 3 }) { formParams with size := 3 } = none := by decide +kernel

theorem test_witness_ControlMessages_form : (joinUp formParams).grp.form = some formParams ∧ (joinUp formParams).grp.formHdr = some someHdr := ⟨rfl, rfl⟩

/-! ### Residency, power and temperature, management -/

/-- Contexts whose footprints meet: 30 waits outside with a step, 31 is resident, idle and, where so said, pinned. -/
def idleCtx (pin : Bool) : Ctx := { openCtx with sources := [stateEntry], pinned := pin }
def outsideCtx : Ctx := { openCtx with sources := [stateEntry], state := .evicted, residentSlot := false, queue := [someStep] }
def resUp (x y : Ctx) : State := { hosted with ctxs := [(30, some x), (31, some y)], residency := { hosted.residency with current := none, graceRunning := true } }
/-- A context on its way out whose state entry has, or has not, a host window behind it; one on its way in. -/
def leaving (host : Nat) : Ctx := { plainCtx with state := .evicting, sources := [{ stateEntry with size := 0x80000, host := host }] }
def arriving (kind host : Nat) : Ctx := { plainCtx with state := .admitting, sources := [{ stateEntry with size := 0x80000, kind := kind, host := host }] }

theorem test_witness_ResidencyEvents :
    let s := resUp outsideCtx (idleCtx true)
    s.residency.graceRunning = true ∧ (graceCtx s).map (·.1) = some 30 ∧ hosted.residency.graceRunning = false ∧ ctxOf s 30 = some outsideCtx ∧ outsideCtx.state = .evicted ∧ wantsRun outsideCtx = true
      ∧ canAdmitCtx s outsideCtx = false ∧ (∀ e ∈ residents s, runnable s e.1 e.2 = false) ∧ inTheWay s outsideCtx ≠ [] ∧ (∀ e ∈ inTheWay s outsideCtx, pinnedCtx e.2 = true) ∧ plainCtx.state ≠ .evicted
      ∧ (∀ e ∈ inTheWay (resUp outsideCtx (idleCtx false)) outsideCtx, pinnedCtx e.2 = false)
      ∧ (leaving hostDst).state = .evicting ∧ (leaving hostDst).change = none ∧ (resUp (leaving hostDst) plainCtx).residency.current ≠ some 30
      ∧ (∀ e ∈ (leaving hostDst).sources, (hostTarget (resUp (leaving hostDst) plainCtx) 3 e.host e.size true).isSome = true)
      ∧ (∀ e ∈ (leaving 0).sources, e.kind = 1 ∧ hostTarget (resUp (leaving 0) plainCtx) 3 e.host e.size true = none) ∧ evictWaits (resUp (leaving 0) plainCtx) 30 = false
      ∧ (arriving 2 0).state = .admitting ∧ (arriving 2 0).change = none
      ∧ (∀ e ∈ (arriving 2 0).sources, e.kind = 2 ∧ e.base % 128 = 0 ∧ e.size % 128 = 0 ∧ (stackOf (resUp (arriving 2 0) plainCtx) (stackNo e.base)).state ≠ .outOfService)
      ∧ (∀ e ∈ (arriving 1 0).sources, e.kind ≠ 2 ∧ hostTarget (resUp (arriving 1 0) plainCtx) 3 e.host e.size false = none) ∧ (reloadCtx 0).reload ≠ []
      ∧ (∀ e ∈ (arriving 2 0).sources, (stackOf calDead (stackNo e.base)).state = .outOfService) := by
  and_intros <;> decide +kernel

/-- A module that brakes already, one that is off, one whose line is low. -/
def offUp : State := { hosted with mgmt := { hosted.mgmt with powerState := .off } }
def lowUp : State := { hosted with power := { hosted.power with lineLow := true, toggle := true } }

theorem test_witness_PowerSupply :
    alive offUp = false ∧ alive hosted = true ∧ alive lowUp = true ∧ lowUp.power.lineLow = true ∧ lowUp.power.toggle = true ∧ hosted.power.toggle = false ∧ hosted.power.lineLow = false
      ∧ braked hosted.power = false ∧ hosted.mgmt.powerState = .on ∧ hosted.mgmt.powerState ≠ .off ∧ hosted.mgmt.powerState ≠ .latched ∧ offUp.mgmt.powerState = .off
      ∧ mapWf Stack.reset hosted.mem.stackUnits = true := by
  and_intros <;> decide +kernel

/-- Every sensor at 25 °C but die sensor 31, in units of 0.1 °C. -/
def dieAt (t : Int) : List Int := List.replicate 31 250 ++ [t]
def stacksAt (t : Int) : List Int := List.replicate 23 250 ++ [t]

theorem test_witness_Sensors :
    alive offUp = false ∧ alive hosted = true ∧ { hosted.power with calEst := 5 }.calEst ≠ 0 ∧ 3 * min 1031 1000 < 100 * (max 1031 1000 - min 1031 1000)
      ∧ 100 * (max 1030 1000 - min 1030 1000) ≤ 3 * min 1030 1000 ∧ hosted.power.disagree0 = false ∧ { hosted.power with disagree1 := true }.disagree1 = true
      ∧ 1150 ≤ hottest ((List.range 32).map (sensorOr (dieAt 1150))) ∧ 1050 ≤ hottest ((List.range 24).map (sensorOr (stacksAt 1050)))
      ∧ ¬ (1150 ≤ hottest ((List.range 32).map (sensorOr (dieAt 1149))) ∨ 1050 ≤ hottest ((List.range 24).map (sensorOr (stacksAt 1049)))) := by
  and_intros <;> decide +kernel

theorem test_witness_ManagementAndTestPort :
    127 < 128 ∧ hosted.mgmt.auxOk = true ∧ hosted.mgmt.dynAddr = none ∧ { hosted.mgmt with dynAddr := some 127 }.dynAddr ≠ none ∧ { hosted.mgmt with auxOk := false }.auxOk = false
      ∧ { hosted.mgmt with busErr := 0xFFFFFFFF }.busErr < 2 ^ 32 ∧ (3 : BitVec 32).toNat % 4 = 3 ∧ (4 : BitVec 32).toNat % 4 = 0 := by
  and_intros <;> decide +kernel

/-! ### Boot, health, SPDM -/

/-- A firmware image of three pages without payload, of the kind of slots A and B. -/
def fwHead : List Byte := leBytes 0x57465848 4 ++ leBytes 0x3000 4 ++ leBytes 0x3000 8 ++ leBytes 2 4 ++ leBytes 1 4 ++ leBytes 0 8
def fwImage : List Byte := fwHead ++ (sha384 [] ++ List.replicate 12208 0)
def bootUp : State := { hosted with mgmt := { hosted.mgmt with inReset := true }, ready := false, flash := { hosted.flash with slotA := { image := fwImage, valid := true } } }
def bootRead : State := readJournal { bootUp with mgmt := { bootUp.mgmt with rstIn := false, inReset := false } }

theorem fwImage_sound : fwWellFormed fwImage 0 = true := by
  have n : (sha384 []).length = 48 := by decide +kernel
  have h : bytesAt fwImage 0x20 48 = sha384 [] := by
    rw [bytesAt, fwImage, List.drop_left' (by decide : fwHead.length = 0x20), List.take_left' n, n]
    simp
  have d : fwImage.drop 0x3000 = [] := by decide +kernel
  unfold fwWellFormed
  rw [h, d]
  simp only [decide_true, Bool.and_true]
  decide +kernel

theorem test_witness_ResetBootAndHangs_boot (hr : Config.rsaVerifies fwImage = true) (hs : Config.slhVerifies fwImage = true) :
    bootUp.mgmt.powerState = .on ∧ bootUp.mgmt.inReset = true ∧ selectedJournal bootUp.flash = some [] ∧ (bootOrder bootRead.rot).find? (bootable bootRead) = some 0
      ∧ journalSlot [] = 0 := by
  have o : bootOrder bootRead.rot = [0, 1, 2] := by decide +kernel
  have i : (fwSlot bootRead 0).image = fwImage := by rfl
  have b : bootable bootRead 0 = true := by
    have r : ¬ fwSvn fwImage < mget 0 bootRead.flash.rollback (fieldAt fwImage 0x19 1) := by decide +kernel
    have v : fwVerdict bootRead fwImage 0 = (stDone, 0) := by simp [fwVerdict, hr, hs, fwImage_sound, r]
    rw [bootable, i, show slotKind 0 = 0 from rfl, v]; decide
  exact ⟨rfl, rfl, by decide +kernel, by rw [o, List.find?_cons, b], by decide⟩

/-- Nothing to boot; a module about to be ready; one whose power cycle does not come back. -/
def emptyUp : State := { bootUp with flash := {} }
def aboutUp : State := { hosted with ready := false, rot := { hosted.rot with booted := true } }
def cycleUp : State := { aboutUp with health := { aboutUp.health with moduleResetCause := 6 } }

theorem test_witness_ResetBootAndHangs :
    let read := readJournal { emptyUp with mgmt := { emptyUp.mgmt with rstIn := false, inReset := false } }
    selectedJournal emptyUp.flash = some [] ∧ (bootOrder read.rot).find? (bootable read) = none ∧ emptyUp.mgmt.powerState = .on ∧ emptyUp.mgmt.inReset = true
      ∧ ¬ (aboutUp.mgmt.powerState = .on ∧ (aboutUp.mgmt.inReset = true ∨ aboutUp.rot.booted = false ∧ aboutUp.rot.halted = false))
      ∧ aboutUp.mgmt.powerState = .on ∧ aboutUp.mgmt.inReset = false ∧ aboutUp.ready = false ∧ aboutUp.rot.halted = false ∧ hosted.ready = true
      ∧ cycleUp.ready = false ∧ cycleUp.health.moduleResetCause = 6 ∧ cycleUp.mgmt.powerState = .on ∧ aboutUp.health.moduleResetCause ≠ 6 := by
  and_intros <;> decide +kernel

/-- The last cell has stood for four frames while context 31 runs a step; port 13 for eight with a flit outstanding. -/
def hungUp : State :=
  { running { openCtx with inFlight := some someStep } with
    cells := [(4095, { active := true, progress := 7 })], ports := [(13, { busyPort with progress := 1 })]
    health := { up.health with watch := mset (0, 0) (mset (0, 0) [] (unitKey (.cell 4095)) (8, 0)) (unitKey (.port 13)) (2, 0) }, frames := { up.frames with ticks := 8 } }
def sampled (policy : Nat) : State := { hosted with health := { hosted.health with sampling := true, policy := policy, target := some ⟨0, 4095⟩, lastDump := 65535 } }
/-- The last cell is being reset; core 3 of die 1 has missed once. -/
def resetUp : State := { hosted with health := { hosted.health with resetting := [⟨0, 4095⟩] }, residency := { hosted.residency with current := none } }
def missUp : State := { hosted with health := { hosted.health with coreMiss := [(7, 1)] } }

theorem test_witness_ResetBootAndHangs_hangs :
    unitOk (.cell 4095) = true ∧ windowMissed hungUp (.cell 4095) = true ∧ unitOk (.port 13) = true ∧ windowMissed hungUp (.port 13) = true ∧ windowMissed hosted (.cell 4095) = false
      ∧ hungUp.health.recovering = false ∧ { hungUp.health with recovering := true }.recovering = true ∧ hungUp.residency.current = some 31
      ∧ hosted.health.sampling = false ∧ (sampled 1).health.sampling = true ∧ (sampled 1).health.policy = 1 ∧ (sampled 0).health.target = some ⟨0, 4095⟩
      ∧ bit (coresOf hosted.health 1) 3 = true ∧ mget 0 hosted.health.coreMiss 7 = 0 ∧ mget 0 missUp.health.coreMiss 7 ≠ 0 ∧ 5 + 1 < mget 0 missUp.health.coreMiss 7 + 3600000000000
      ∧ bit (coresOf { hosted.health with coresDie1 := 7 } 1) 3 = false ∧ (⟨0, 4095⟩ : Domain) ∈ resetUp.health.resetting ∧ resetUp.residency.current = none
      ∧ domainOk ⟨0, 4095⟩ = true ∧ (⟨0, 4095⟩ : Domain) ∉ hosted.health.resetting ∧ cycleUp.ready = false ∧ mget 0 hosted.health.dieState 1 = 0
      ∧ mget 0 { hosted.health with dieState := [(1, 1)] }.dieState 1 ≠ 0 := by
  and_intros <;> decide +kernel

/-- A responder as far as a session, and one after a signature. -/
def spdmUp (x : Spdm) : State := { hosted with rot := { hosted.rot with booted := true, spdm := x } }
def talked : Spdm := { version := true, caps := true, algs := true, exchange := true, handshake := true, signed := some [1] }

theorem test_witness_SpdmResponder (h0 : 0 < Config.certLength 0) (h1 : 0 < Config.certLength 1) :
    answers hosted = false ∧ answers (spdmUp talked) = true ∧ talked.version = true ∧ talked.caps = true ∧ talked.algs = true ∧ talked.exchange = true ∧ talked.session = false
      ∧ talked.handshake = true ∧ talked.signed = some [1] ∧ { talked with session := true }.session = true ∧ ({} : Spdm).algs = false ∧ 0 < Config.certLength 0 ∧ 0 < Config.certLength 1
      ∧ 1 ≤ 6 ∧ 6 ≤ 6 ∧ 6 < 7 ∧ 7 ≠ 0xFF ∧ 1 ≠ 0 :=
  ⟨by decide, by decide, rfl, rfl, rfl, rfl, rfl, rfl, rfl, rfl, rfl, h0, h1, by decide, by decide, by decide, by decide, by decide⟩

/-! ### Ticks and steps -/

/-- A slot of tables that holds nothing, with a load that waits; a context with two queued steps. -/
def loadTab : Ctx := { plainCtx with tables := [(2, { pendingLoad := some (codeTab 9) })] }
def otherStep : Step := { someStep with hdr := { someHdr with sqPos := 6 }, seq := some 2 }
def twoSteps : Ctx := { stepCtx with queue := [otherStep, someStep] }

theorem test_witness_TickChanges :
    (∀ p ∈ hosted.host.ticking, hosted.frames.ticks < p.atTick) ∧ ctxOf (rowUp loadTab) 31 = some loadTab ∧ (mget TableSlot.reset loadTab.tables 2).pendingLoad ≠ none
      ∧ activeTable (mget TableSlot.reset loadTab.tables 2) = none ∧ twoSteps.group = false ∧ twoSteps.inFlight = none ∧ (∃ t ∈ twoSteps.queue, namesStep 1 t = true)
      ∧ twoSteps.queue.Pairwise (fun t y => t.hdr ≠ y.hdr) ∧ hasStep twoSteps 9 = false ∧ (rangeOf calUp 0).owner ≠ 0xFF ∧ nextRange.owner + 1 ≠ (rangeOf calUp 0).owner
      ∧ calFind calUp 3 = some heldLine ∧ lineIn (rangeOf calUp 0).base (rangeOf calUp 0).size heldLine = true ∧ hosted.obs.traceRing ≠ modDst
      ∧ unloadable stepCtx 1 = true ∧ unloadable twoSteps 1 = false := by
  and_intros <;> decide +kernel

/-- A step that needs a page more than there are; a training step with its latch set; one replayed three times. -/
def wideStep : Step := { someStep with need := 3, started := false }
def trainStep (latch : Bool) : Step := { someStep with phase := 3, latch := latch }

theorem test_witness_StepLife :
    { stepCtx with queue := [wideStep] }.queue = wideStep :: [] ∧ freeFrames stepCtx < wideStep.need ∧ otherStep.need ≤ freeFrames stepCtx ∧ otherStep.phase ≠ 3
      ∧ { stepCtx with inFlight := some (trainStep true) }.inFlight = some (trainStep true) ∧ (trainStep true).phase = 3 ∧ (trainStep false).latch = false ∧ (trainStep false).sessions = []
      ∧ [AbortCause.overrun].any hardCause = true ∧ (trainStep true).replays < 3 ∧ 3 ≤ { someStep with replays := 3 }.replays ∧ stepCtx.change = none := by
  and_intros <;> decide +kernel

/-! ### Tile words, written out from Tables 4-4 to 4-12 -/

/-- A word decodes to an operation, whose fields are in range and which encodes to the word. -/
def spells (w : Nat) (op : TileOp) : Bool := decide (decodeTile w = some op) && decide (encodeTile op = w) && op.ok

/-- The RUN of the worked tile program of chapter 04, 0x1008_8008_0300_0008. -/
def exampleRun : RunOp :=
  { acc := false, ta := false, tb := false, fmtA := 1, fmtB := 1, raElem := 0, raScale := 0, rbElem := 1, rbScale := 0, mMinus1 := 3, bank := 0, accRow := 0, kUnits := 8 }

/-- Its DRAIN: class 1 and sub 1, fmt_out 1 at 53, rd_elem 3 at 49, fusion 1 at 41, rf 2 at 37, rows_minus_1 3 at 22, out_pitch 4
at 4. -/
def exampleDrain : DrainOp :=
  { sat := false, fmtOut := 1, rdElem := 3, rdScale := 0, fusion := 1, rf := 2, bank := 0, accRow := 0, rowsMinus1 := 3, statMode := 0, statSlot := 0, outPitch := 4 }

theorem test_words_mma :
    spells 0x1008800803000008 (.run exampleRun) = true
      ∧ spells (0x1000000000000000 + 0x0400000000000000 + 0x0020000000000000 + 0x0006000000000000 + 0x0000020000000000 + 0x0000004000000000 + 0x00C00000 + 0x40) (.drain exampleDrain) = true := by
  decide +kernel

theorem test_words_vec :
    -- VLD v1, a3, BF16, −16: vd 1 at 51, ra 3 at 38, fmt 1 at 34
    spells (0x2000000000000000 + 0x0008000000000000 + 0x000000C000000000 + 0x0000000400000000 + 0xFFFFFFF0) (.vld 1 3 1 (-16)) = true
      -- VST v2, a15, FP32, saturating: vop 1 at 54, vs1 2 at 48, ra 15 at 38, sat at 33
      ∧ spells (0x2000000000000000 + 0x0040000000000000 + 0x0002000000000000 + 0x000003C000000000 + 0x0000000200000000 + 0x80) (.vst 2 15 0 true 0x80) = true
      -- VFMA v7, v6, v5, v4: vop 5, vd 7, vs1 6 at 48, vs2 5 at 45, vs3 4 at 42
      ∧ spells (0x2000000000000000 + 0x0140000000000000 + 0x0038000000000000 + 0x0006000000000000 + 0x0000A00000000000 + 0x0000100000000000) (.vfma 7 6 5 4) = true
      -- VMSK v0, v1, a2, 1.0: vop 0x10
      ∧ spells (0x2000000000000000 + 0x0400000000000000 + 0x0001000000000000 + 0x0000008000000000 + 0x3F800000) (.vmsk 0 1 2 0x3F800000) = true := by
  decide +kernel

theorem test_words_sfu_stat_move :
    -- LOG2 v3, v5: fn 1 at 56, vd at 53, vs at 50
    spells (0x3000000000000000 + 0x0100000000000000 + 0x0060000000000000 + 0x0014000000000000) (.log2 3 5) = true
      -- STAT SUM slot 7, v1, 64 lanes: sub 2 at 57, slot at 54, v at 51, lanes − 1 at 45
      ∧ spells (0x4000000000000000 + 0x0400000000000000 + 0x01C0000000000000 + 0x0008000000000000 + 0x0007E00000000000) (.statSum 7 1 64) = true
      -- STAT CLR of slots 0 and 7: mask at 37
      ∧ spells (0x4000000000000000 + 0x0000102000000000) (.statClr 0x81) = true
      -- MOVE FLAGS a9: sub 1 at 58, ra at 54
      ∧ spells (0x5000000000000000 + 0x0400000000000000 + 0x0240000000000000) (.moveFlags 9) = true := by
  decide +kernel

theorem test_words_sequencer :
    -- SEM_WAIT s63, 2, peek
    spells (0x6000000000000000 + 0x0FC0000000000000 + 0x0000008000000000 + 0x0000002000000000) (.semWait 63 2 true) = true
      -- SEM_POST s3, 1, to cell 37
      ∧ spells (0x7000000000000000 + 0x00C0000000000000 + 0x0000004000000000 + 0x0000002000000000 + 0x000000004A000000) (.semPost 3 1 true 37) = true
      ∧ spells 0x8F00000000000000 (.swap 15) = true
      -- LOOP BEGIN k3 of 256 operations: sub 0, k at 54, body − 1 at 46
      ∧ spells (0x9000000000000000 + 0x00C0000000000000 + 0x003FC00000000000) (.loopBegin 3 256) = true
      -- LOOP ASET a2, 0x2000 and LOOP AADD a2, −1
      ∧ spells 0x9220000000002000 (.loopAset 2 0x2000) = true ∧ spells 0x93200000FFFFFFFF (.loopAadd 2 (-1)) = true
      -- FENCE of the drain queue: mask bit [58]
      ∧ spells 0xA400000000000000 (.fence 0x10) = true := by
  decide +kernel

/-- R7 and R94: an all-zero word, the reserved classes, and a bit that an operation does not use. -/
theorem test_words_refused :
    decodeTile 0 = none ∧ decodeTile 0xB000000000000000 = none ∧ decodeTile 0x8F00000000000001 = none ∧ decodeTile 0x2440000000000000 = none
      ∧ decodeTile 0xA400000000000000 ≠ none ∧ decodeTile 0x94000000000000000 = none := by
  decide +kernel

theorem test_table_words : decodeTableWord 64 0x1008800803000008 = none ∧ State.withFetchWord State.reset 64 5 = State.reset := by decide

/-! ### Ill-formed terms, one for each check of WellFormed.lean -/

theorem test_illformed_run :
    ({ smallRun with fmtA := 14 } : RunOp).inRange = false ∧ ({ smallRun with raScale := 2 } : RunOp).inRange = false
      ∧ ({ smallRun with mMinus1 := 1 } : RunOp).inRange = false ∧ ({ smallRun with kUnits := 0 } : RunOp).inRange = false
      ∧ ({ smallRun with fmtA := 0, fmtB := 0 } : RunOp).classOk = false ∧ ({ smallRun with fmtB := 2 } : RunOp).classOk = false
      ∧ ({ blockRun with ta := true } : RunOp).classOk = false ∧ ({ blockRun with kUnits := 3 } : RunOp).aligned = false
      ∧ ({ smallRun with bank := 2 } : RunOp).ok = false := by decide

theorem test_illformed_drain :
    ({ smallDrain with fmtOut := 14 } : DrainOp).inRange = false ∧ ({ smallDrain with rdScale := 1 } : DrainOp).inRange = false
      ∧ ({ smallDrain with fusion := 10 } : DrainOp).inRange = false ∧ ({ smallDrain with fusion := 5 } : DrainOp).inRange = false
      ∧ ({ smallDrain with statMode := 3 } : DrainOp).inRange = false ∧ ({ smallDrain with statMode := 0 } : DrainOp).inRange = false
      ∧ ({ smallDrain with outPitch := 0 } : DrainOp).inRange = false ∧ ({ smallDrain with rowsMinus1 := 4 } : DrainOp).inRange = false
      ∧ ({ smallDrain with fmtOut := 8, outPitch := 1 } : DrainOp).aligned = true ∧ ({ smallDrain with fmtOut := 10, outPitch := 0 } : DrainOp).ok = false := by decide

theorem test_illformed_tile :
    (TileOp.vld 8 0 0 0).ok = false ∧ (TileOp.vld 0 16 0 0).ok = false ∧ (TileOp.vld 0 0 14 0).ok = false ∧ (TileOp.statMax 0 0 0).ok = false
      ∧ (TileOp.statSum 0 0 65).ok = false ∧ (TileOp.semWait 64 1 false).ok = false ∧ (TileOp.semWait 0 0 false).ok = false
      ∧ (TileOp.semPost 0 1 false 1).ok = false ∧ (TileOp.semPost 0 1 true 4096).ok = false ∧ (TileOp.swap 16).ok = false
      ∧ (TileOp.loopBegin 4 1).ok = false ∧ (TileOp.loopBegin 0 257).ok = false ∧ (TileOp.loopKset 0 65536).ok = false ∧ (TileOp.fence 0).ok = false := by decide

theorem test_illformed_units :
    (Engine.mover 4096).ok = false ∧ (Engine.gather 256).ok = false ∧ (Engine.packer 256).ok = false ∧ (Source.mk 9 0).ok = false ∧ (Source.mk 0 256).ok = false
      ∧ (HangUnit.port 14).ok = false ∧ (HangUnit.expander 256).ok = false ∧ (Domain.mk 0 4096).ok = false ∧ (Domain.mk 2 770).ok = false
      ∧ (Domain.mk 5 1).ok = false ∧ (Domain.mk 6 0).ok = false ∧ (PhaseEnd.passed [9] 0 (List.replicate 16 0) 0 (List.replicate 48 0)).ok = false := by decide

/-- A header that fits, and one that each check refuses. -/
def hdr0 : CmdHdr := { fn := 0, queue := 0, ring := 0, sqPos := 0, tag := 0, alive := 0, ordered := false, irq := false, partition := 8 }

theorem test_illformed_headers :
    hdr0.ok = true ∧ ({ hdr0 with fn := 9 } : CmdHdr).ok = false ∧ ({ hdr0 with queue := 256 } : CmdHdr).ok = false ∧ ({ hdr0 with sqPos := 4096 } : CmdHdr).ok = false
      ∧ ({ hdr0 with tag := 2 ^ 32 } : CmdHdr).ok = false ∧ ({ hdr0 with alive := 65536 } : CmdHdr).ok = false ∧ ({ hdr0 with partition := 9 } : CmdHdr).ok = false
      ∧ Instr.ok (.nop { hdr0 with fn := 9 }) = false ∧ Instr.ok (.powerCapSet hdr0 65536) = false ∧ Instr.ok (.attestQuote hdr0 [] 0 0 0) = false := by
  decide

theorem test_illformed_steps :
    Instr.ok (.vadd 4096 0 0 0) = false ∧ Instr.ok (.vadd 0 0 0 8) = false ∧ Instr.ok (.semWaitGrant 0 64) = false ∧ Instr.ok (.sequencerWaitEnd 4096 []) = false
      ∧ Instr.ok (.put ⟨0, 0⟩ 0 [] false) = false ∧ Instr.ok (.get ⟨0, 0⟩ (2 ^ 48) 1 []) = false ∧ Instr.ok (.creditAdd ⟨0, 0⟩ 0 32 0) = false
      ∧ Instr.ok (.lineReduction ⟨0, 0⟩ .fadd32 0 []) = false ∧ Instr.ok (.calderaWayRetire 0 0 0 17) = false ∧ Instr.ok (.railFault 0) = false
      ∧ Instr.ok (.rowRepair 24 0) = false ∧ Instr.ok (.thermalSample [] []) = false ∧ Instr.ok (.challenge 0 []) = false := by
  decide

/-! ### Worked examples of spec/ -/

/-- Chapter 03: one rounding per group, and truncation under cancellation (BF16 codes). -/
theorem test_groupSum_examples :
    (let x := fun (a b : Nat) => (product (elemValue .bf16 a) (elemValue .bf16 b)).1
     (groupSum ([x 0x3F80 0x3F80, x 0x3980 0x3980, x 0x3980 0x3980] ++ List.replicate 13 (x 0 0))).1 = 0x3F800001
      ∧ (groupSum ([x 0x4480 0x4480, x 0xC480 0x4480, x 0x38C0 0x3800] ++ List.replicate 13 (x 0 0))).1 = 0) := by
  decide +kernel

/-- Chapter 03: 470, 464 and 455 in E4M3, and the quantized block of largest magnitude 20.0 (R77). -/
theorem test_conversion_examples :
    convertPlain .e4m3 true (.fin false 470 0) = (0x7E, { ofl := true }) ∧ convertPlain .e4m3 true (.fin false 464 0) = (0x7E, {})
      ∧ convertPlain .e4m3 true (.fin false 455 0) = (0x7E, {})
      ∧ ((quantBlock .e4m3 ([f32Value 0x41A00000, f32Value 0x3E99999A, f32Value 0xBF800000] ++ List.replicate 13 (f32Value 0))).1
          , (quantBlock .e4m3 ([f32Value 0x41A00000, f32Value 0x3E99999A, f32Value 0xBF800000] ++ List.replicate 13 (f32Value 0))).2.1.take 3) = (0x7B, [0x7A, 0x4A, 0xD8]) := by
  decide +kernel

/-- Chapter 05: the two sums of R125's examples: sum, mean, variance and mean square. -/
theorem test_statistics_examples :
    (slotRead (slotSum {} [0x3F800000, 0x40000000, 0x40400000, 0x40800000]).1).1.take 7 = [0xFF800000, 0x41200000, 0x40800000, 0x40200000, 0x3FA00000, 0x40F00000, 0x40000000]
      ∧ ((slotRead (slotSum {} (List.replicate 64 0x7BC00000)).1).1.drop 1).take 5 = [0x7EC00000, 0x42800000, 0x7BC00000, 0, 0x7F800000]
      ∧ (slotRead (slotSum {} (List.replicate 64 0x7BC00000)).1).2 = { ofl := true } := by
  decide +kernel

/-- R114: exact results of the special function unit. -/
theorem test_sfu_exact :
    sfuExp2 0x80000000 = (0x3F800000, {}) ∧ sfuExp2 0xC3150000 = (0x00000001, {}) ∧ sfuExp2 0x42FE0000 = (0x7F000000, {})
      ∧ sfuLog2 0x3F800000 = (0, {}) ∧ sfuLog2 0x00000001 = (0xC3150000, {}) ∧ sfuLog2 0x7F000000 = (0x42FE0000, {})
      ∧ sfuExp2 0x7FC00000 = (0x7FC00000, {}) ∧ sfuLog2 0xBF800000 = (0x7FC00000, { nv := true }) ∧ sfuLog2 0 = (0xFF800000, {}) := by
  decide +kernel

/-- Chapter 10: the lengths of the example's five symbols, its codes, its first byte and its layout. -/
def exampleLengths : List Nat := 5 :: (List.replicate 123 0 ++ [4, 2, 1, 3])

theorem test_codec_example :
    (codeOf (canonical exampleLengths) 126 = some (1, 0) ∧ codeOf (canonical exampleLengths) 125 = some (2, 2) ∧ codeOf (canonical exampleLengths) 127 = some (3, 6)
      ∧ codeOf (canonical exampleLengths) 124 = some (4, 14) ∧ codeOf (canonical exampleLengths) 0 = some (5, 30))
      ∧ bytesOfBits true 2 [false, true, false, true, true, false, false, true, true, true, false] = [0x9A, 0xFB]
      ∧ planeParts 1 512 7 122 = (128, 192, 640, 640) ∧ linesFor 640 8 = 6 := by
  decide +kernel

/-- Chapter 09: address 0x0013_4567_8880 is stack 1, die 0, slice 5, set 5,361. -/
theorem test_address_example : stackNo 0x001345678880 = 1 ∧ dieOf 0x001345678880 = 0 ∧ sliceOf 0x001345678880 = 5 ∧ setOf 0x001345678880 = 5361 := by
  decide

/-- The check values of Table 18-1 over the nine bytes "123456789". -/
def digits : List Byte := [0x31, 0x32, 0x33, 0x34, 0x35, 0x36, 0x37, 0x38, 0x39]

theorem test_crc_checks :
    crc32c digits = 0xE3069283 ∧ cvFinish 0 (cvRunBytes 0 (polyInit 0) digits) = 0x29B1 ∧ cvFinish 1 (cvRunBytes 1 (polyInit 1) digits) = 0xCBF43926
      ∧ cvFinish 2 (cvRunBytes 2 (polyInit 2) digits) = 0xE3069283 ∧ cvFinish 3 (cvRunBytes 3 (polyInit 3) digits) = 0x6C40DF5F0B497347 := by
  decide +kernel

/-! ### Steps -/

theorem test_step_idle : step State.reset = .next State.reset := rfl

theorem test_step_takes_the_front :
    step { State.reset with pending := [.vbcast 0 1 0x3F800000, .vneg 0 1 1] } = exec (.vbcast 0 1 0x3F800000) { State.reset with pending := [.vneg 0 1 1] } := rfl

/-- A witness for StepRunsFront and for the invariant of every step: the state after reset. -/
theorem test_reset_memories : MemoriesCanonical State.reset := by
  unfold MemoriesCanonical; decide

end Sys2Proof.Machine
end

section
/-! PROOFS. Doorbells, the read of a function's doorbell fault counter, and the power alarms (R5, R319, R334, R342, R405): what each
register access does to the queue, the function or the alarms it names. -/

namespace Sys2Proof.Machine

open Sys2Proof

/-! ### A function's own queue -/

theorem ownQueue_eq_some_iff {s : State} {fn q : Nat} {x : Queue} : ownQueue s fn q = some x ↔ queueOf? s q = some x ∧ x.owner = fn := by
  unfold ownQueue
  cases queueOf? s q with
  | none => simp
  | some y =>
    by_cases hy : y.owner = fn
    · simp only [hy, if_true, Option.some.injEq]
      exact ⟨fun h => ⟨h, h ▸ hy⟩, And.left⟩
    · simp only [hy, if_false, reduceCtorEq, Option.some.injEq, false_iff, not_and]
      exact fun h => h ▸ hy

/-! ### Doorbells (R334) -/

/-- A doorbell's 12 bits hold every entry number of a ring. -/
theorem bell_of_lt {v : Nat} (h : v < 4096) : bell v = v := Nat.mod_eq_of_lt h

theorem setTail_of_entry {s : State} {fn q v : Nat} {x : Queue} (hx : ownQueue s fn q = some x) (he : x.enabled = true) (hv : v < 2 ^ x.sqLog2) :
    setTail s fn q v = setQueue s q (some { x with sqTail := v }) := by
  simp [setTail, hx, he, hv]

/-- Every tail that R334 has ignored: the queue is not the function's own, it is not enabled, or the value is no entry of its ring. -/
theorem setTail_of_ignored {s : State} {fn q v : Nat} (h : ∀ x, ownQueue s fn q = some x → x.enabled = true → 2 ^ x.sqLog2 ≤ v) :
    setTail s fn q v = dbFault s fn := by
  unfold setTail
  cases hx : ownQueue s fn q with
  | none => rfl
  | some x =>
    by_cases he : x.enabled = true
    · simp [he, Nat.not_lt.2 (h x hx he)]
    · simp [he]

/-- A completion head that is an entry of the ring and does not pass the device's tail is taken. -/
theorem setCqHead_of_entry {s : State} {fn q v : Nat} {x : Queue} (hx : ownQueue s fn q = some x) (he : x.enabled = true) (hv : v < 2 ^ x.cqLog2)
    (hp : (v + 2 ^ x.cqLog2 - x.cqHead) % 2 ^ x.cqLog2 ≤ (x.cqTail + 2 ^ x.cqLog2 - x.cqHead) % 2 ^ x.cqLog2) :
    setCqHead s fn q v = setQueue s q (some { x with cqHead := v }) := by
  simp [setCqHead, hx, he, hv, hp]

/-- The state once the host's earlier writes to its memory are visible (R319). -/
def hostPosted (s : State) (posted : List (Nat × Byte)) : State :=
  { s with host := { s.host with mem := posted.foldl (fun m e => writeBytes m e.1 [e.2]) s.host.mem } }

@[simp] theorem hostPosted_nil (s : State) : hostPosted s [] = s := rfl
@[simp] theorem queueOf?_hostPosted (s : State) (posted : List (Nat × Byte)) (q : Nat) : queueOf? (hostPosted s posted) q = queueOf? s q := rfl
@[simp] theorem ownQueue_hostPosted (s : State) (posted : List (Nat × Byte)) (fn q : Nat) : ownQueue (hostPosted s posted) fn q = ownQueue s fn q := rfl

theorem exec_hxDbell {fn q v : Nat} (hf : fn < 9) (hq : q < 256) (hv : v < 4096) (posted : List (Nat × Byte)) (s : State) :
    exec (.hxDbell fn q v posted) s = .next (setTail (hostPosted s posted) fn q v) := by
  change execHxDbell fn q v posted s = _
  simp [execHxDbell, hostPosted, bell_of_lt hv, Nat.not_le.2 hf, Nat.not_le.2 hq]

theorem exec_hxCqdb {fn q v : Nat} (hf : fn < 9) (hq : q < 256) (hv : v < 4096) (s : State) :
    exec (.hxCqdb fn q v) s = .next (setCqHead s fn q v) := by
  change execHxCqdb fn q v s = _
  simp [execHxCqdb, bell_of_lt hv, Nat.not_le.2 hf, Nat.not_le.2 hq]

theorem exec_hxEvqHead {fn v : Nat} (hf : fn < 9) (hv : v < 4096) (s : State) : exec (.hxEvqHead fn v) s = .next (setEvqHead s fn v) := by
  change execHxEvqHead fn v s = _
  simp [execHxEvqHead, bell_of_lt hv, Nat.not_le.2 hf]

/-- A tail of an own ring changes that queue's tail, after the posted writes, and nothing else. -/
theorem hxDbell_of_entry {s : State} {fn q v : Nat} {x : Queue} (posted : List (Nat × Byte)) (hf : fn < 9) (hq : q < 256)
    (hx : ownQueue s fn q = some x) (he : x.enabled = true) (hv : v < 2 ^ x.sqLog2) (hb : v < 4096) :
    exec (.hxDbell fn q v posted) s = .next (setQueue (hostPosted s posted) q (some { x with sqTail := v })) := by
  rw [exec_hxDbell hf hq hb, setTail_of_entry ((ownQueue_hostPosted ..).trans hx) he hv]

/-! ### The doorbell fault counter (R5) -/

/-- While the counter is within its field, a read shows it as it is. -/
theorem rcField_of_lt {s : State} {w n : Nat} (h : n < 2 ^ w) : rcField s w n = n := if_pos h

/-- The read of HX_HIF_DB_FAULT_CNT: its value, and the state with the counter cleared and one free draw used. -/
theorem regRead_dbFault {s : State} {fn : Nat} (h : (fnOf s fn).dbFault < 2 ^ 32) :
    regRead s fn 0x200 = (modFn { s with freeCount := s.freeCount + 1 } fn (fun f => { f with dbFault := 0 }), (fnOf s fn).dbFault) := by
  simp [regRead, fnReg, rc1, rcField_of_lt h]

theorem exec_rcRegisterRead {fn : Nat} (hf : fn < 9) (offset : Nat) (s : State) :
    exec (.rcRegisterRead fn offset) s = .next { (regRead s fn offset).1 with resp := { data := leBytes (regRead s fn offset).2 8 } } := by
  change execRcRegisterRead fn offset s = _
  have h10 : ¬ 10 ≤ fn := by omega
  simp [execRcRegisterRead, h10, Nat.ne_of_lt hf]

/-- A read of HX_HIF_DB_FAULT_CNT answers the counter and clears it, using up one free draw. -/
theorem rcRegisterRead_dbFault {s : State} {fn : Nat} (hf : fn < 9) (h : (fnOf s fn).dbFault < 2 ^ 32) :
    exec (.rcRegisterRead fn 0x200) s = .next { modFn s fn (fun f => { f with dbFault := 0 }) with
      freeCount := s.freeCount + 1, resp := { data := leBytes (fnOf s fn).dbFault 8 } } := by
  rw [exec_rcRegisterRead hf, regRead_dbFault h]
  rfl

/-! ### The power alarms (R405) -/

theorem exec_hxPwrAlarm_physical (value : BitVec 64) (s : State) : exec (.hxPwrAlarm 0 value) s = .next (clearAlarm s value) := rfl

theorem exec_hxPwrAlarm_virtual {fn : Nat} (hf : fn < 9) (h : fn ≠ 0) (value : BitVec 64) (s : State) : exec (.hxPwrAlarm fn value) s = .next s := by
  change execHxPwrAlarm fn value s = _
  simp [execHxPwrAlarm, Nat.not_le.2 hf, h]

/-- Settles O39, clause by clause from what each access does to the queue, the function or the alarms it names. -/
theorem doorbellsAndReads : Obligations.DoorbellsAndReads := by
  unfold Obligations.DoorbellsAndReads
  intro s fn q v posted value x hf hq mine n
  have own : mine → ownQueue s fn q = some x ∧ x.enabled = true := fun ⟨hx, ho, he⟩ => ⟨ownQueue_eq_some_iff.2 ⟨hx, ho⟩, he⟩
  refine ⟨fun hm hv hb => ?tail, fun hm hv hb => ?tooLarge, fun hm hv hb hp => ?head, fun hb => ?eventHead, fun hc => ?counter, ?alarm,
    fun h0 => exec_hxPwrAlarm_virtual hf h0 value s⟩
  case tail =>
    obtain ⟨hx, he⟩ := own hm
    refine ⟨_, hxDbell_of_entry posted hf hq hx he hv hb, queueOf?_setQueue_self .., fun j hj => ?_, rfl, rfl⟩
    rw [queueOf?_setQueue, if_neg hj, queueOf?_hostPosted]
  case tooLarge =>
    obtain ⟨hx, -⟩ := own hm
    have noEntry : ∀ y, ownQueue s fn q = some y → y.enabled = true → 2 ^ y.sqLog2 ≤ v :=
      fun y hy _ => Option.some.inj (hx.symm.trans hy) ▸ hv
    refine ⟨_, exec_hxDbell hf hq hb [] s, ?_⟩
    rw [hostPosted_nil]
    exact setTail_of_ignored noEntry
  case head =>
    obtain ⟨hx, he⟩ := own hm
    exact ⟨_, exec_hxCqdb hf hq hb s, setCqHead_of_entry hx he hv hp⟩
  case eventHead => exact ⟨_, exec_hxEvqHead hf hb s, rfl⟩
  case counter => exact ⟨_, rcRegisterRead_dbFault hf hc, rfl, fnOf_modFn_self s fn (fun f => { f with dbFault := 0 }), rfl⟩
  case alarm => exact exec_hxPwrAlarm_physical value s

end Sys2Proof.Machine
end

section
/-! PROOFS. The state after a module reset (R34, R60, R88, R152, R160, R190, R300, R359, R364, R399, R400): what each accessor of a unit finds in
it. No unit is listed, so that each reads as the unit after its own reset. -/

namespace Sys2Proof.Machine

open Sys2Proof

/-! ### The units of the state after reset -/

@[simp] theorem cellOf_reset (c : Nat) : cellOf State.reset c = Cell.reset := rfl
@[simp] theorem ctxOf_reset (c : Nat) : ctxOf State.reset c = none := rfl
@[simp] theorem partOf_reset (p : Nat) : partOf State.reset p = Part.reset := rfl
@[simp] theorem queueOf?_reset (q : Nat) : queueOf? State.reset q = none := rfl
@[simp] theorem portOf_reset (p : Nat) : portOf State.reset p = Port.reset := rfl
@[simp] theorem readByte_mem_reset (a : Nat) : readByte State.reset.mem.bytes a = 0 := rfl

/-! ### A cell after reset -/

@[simp] theorem aReg_reset (i : Nat) : aReg Cell.reset i = 0 := rfl
@[simp] theorem kReg_reset (i : Nat) : mget 0 Cell.reset.k i = 0 := rfl
@[simp] theorem vReg_reset (i : Nat) : vReg Cell.reset i = zeroLanes := rfl
@[simp] theorem spByte_reset (c o : Nat) : spByte State.reset c o = 0 := rfl
@[simp] theorem semOf_reset (j : Nat) : semOf Cell.reset j = Sem.reset := rfl
@[simp] theorem creditOf_reset (j : Nat) : creditOf Cell.reset j = Credit.reset := rfl
@[simp] theorem slotOf_reset (i : Nat) : slotOf Cell.reset i = StatSlot.reset := rfl
@[simp] theorem moverLedger_reset : Cell.reset.mover.ledger = { accepted := 0, completed := 0, failed := 0, cancelled := 0 } := rfl

/-- Every cell after reset: its registers, scratchpad, semaphores, credits, statistics slots and ledger. -/
theorem cell_after_reset (c i : Nat) :
    aReg (cellOf State.reset c) i = 0 ∧ mget 0 (cellOf State.reset c).k i = 0 ∧ vReg (cellOf State.reset c) i = zeroLanes
      ∧ spByte State.reset c i = 0 ∧ (semOf (cellOf State.reset c) i).value = 0 ∧ (creditOf (cellOf State.reset c) i).value = 0
      ∧ slotOf (cellOf State.reset c) i = StatSlot.reset
      ∧ (cellOf State.reset c).mover.ledger = { accepted := 0, completed := 0, failed := 0, cancelled := 0 } := by
  rw [cellOf_reset]
  exact ⟨aReg_reset i, kReg_reset i, vReg_reset i, spByte_reset c i, congrArg Sem.value (semOf_reset i), congrArg Credit.value (creditOf_reset i),
    slotOf_reset i, moverLedger_reset⟩

/-- Every port after reset is down, with no lanes and no peer known (Table 13-11). -/
theorem port_after_reset (p : Nat) :
    (portOf State.reset p).state = .down ∧ (portOf State.reset p).lanes = 0 ∧ (portOf State.reset p).peerRank = 0xFF
      ∧ (portOf State.reset p).peerPort = 0xFF := by
  rw [portOf_reset]
  exact ⟨rfl, rfl, rfl, rfl⟩

/-- No partition exists after reset (R364). -/
theorem part_after_reset (p : Nat) : (partOf State.reset p).present = false := by rw [partOf_reset]; rfl

/-! ### Frames, group, power and health -/

/-- The default frame (Table 2-10). -/
theorem frameCfg_reset :
    State.reset.frames.cfg = { lateLead := 10, periodUs := 20, quantumUs := 2, maxQuanta := 4, syncOutEn := false, source := 0 } := rfl

/-- After reset no frame has passed (R34), so that none was late, stretched or in overrun. -/
theorem frameCounters_reset :
    State.reset.frames.lateCnt = 0 ∧ State.reset.frames.stretchCnt = 0 ∧ State.reset.frames.overrunCnt = 0 ∧ State.reset.frames.syncOverrunCnt = 0
      ∧ State.reset.frames.syncLostCnt = 0 ∧ State.reset.frames.droopCnt = 0 := ⟨rfl, rfl, rfl, rfl, rfl, rfl⟩

/-- A module after reset stands alone (R300). -/
theorem group_reset : State.reset.grp.state = .standalone ∧ State.reset.grp.size = 1 := ⟨rfl, rfl⟩

/-- The default cap (R400) and order of priority (R359), and no gain correction (R399). -/
theorem power_reset :
    State.reset.power.cap = 3600 ∧ State.reset.power.order0 = 2 ∧ State.reset.power.order1 = 1 ∧ State.reset.power.order2 = 0
      ∧ State.reset.power.gainPpm = 0 := ⟨rfl, rfl, rfl, rfl, rfl⟩

/-- Settles O59, unit by unit: each accessor finds nothing listed in the state after reset, and reads the unit's own reset value. -/
theorem resetState : Obligations.ResetState := by
  unfold Obligations.ResetState
  intro s
  obtain ⟨late, stretch, overrun, syncOverrun, syncLost, droop⟩ := frameCounters_reset
  obtain ⟨alone, size⟩ := group_reset
  obtain ⟨cap, order0, order1, order2, gain⟩ := power_reset
  have noCommand : s.pending = [] := rfl
  have frameZero : s.frames.counter = 0 := rfl
  have noWindows : s.host.windows = [] ∧ s.host.exposures = [] := ⟨rfl, rfl⟩
  have policy : s.health.policy = 0 := rfl
  exact ⟨noCommand, reset_memory, readByte_mem_reset, frameZero, frameCfg_reset, late, stretch, overrun, syncOverrun, syncLost, droop,
    cell_after_reset, ctxOf_reset, part_after_reset, queueOf?_reset, noWindows.1, noWindows.2, port_after_reset, alone, size, cap, order0, order1,
    order2, gain, policy⟩

end Sys2Proof.Machine
end

section
/-! PROOFS. Queued operations of a cell (R91, R93, R108): what an issued operation leaves in its cell, which of the cell a scratchpad read
settles, and what an operation that is not the next one leaves. -/

namespace Sys2Proof.Machine

open Sys2Proof

/-! ### An operation that is not the next one of its tile -/

theorem issueOp_notNext {s : State} {cell : Nat} {op : TileOp} (errs : RowErrs) (hc : cellOk cell = true) (ho : op.ok = true)
    (hn : canIssue (cellOf s cell) op = false) : issueOp s cell op errs = .next s := by
  unfold issueOp
  simp [hc, ho, hn]

/-! ### The results of an operation -/

/-- The cell `d` is `b` but for vector registers, accumulators and statistics slots, which alone take results at the issue. -/
def ResultsOnly (b d : Cell) : Prop := ∃ v acc slots, d = { b with v := v, acc := acc, slots := slots }

theorem ResultsOnly.refl (b : Cell) : ResultsOnly b b := ⟨_, _, _, rfl⟩

theorem ResultsOnly.setV {b d : Cell} (h : ResultsOnly b d) (i : Nat) (x : List F32) : ResultsOnly b (setV d i x) := by
  obtain ⟨_, _, _, rfl⟩ := h
  exact ⟨_, _, _, rfl⟩

theorem ResultsOnly.setAcc {b d : Cell} (h : ResultsOnly b d) (bank row : Nat) (x : List F32) : ResultsOnly b (setAcc d bank row x) := by
  obtain ⟨_, _, _, rfl⟩ := h
  exact ⟨_, _, _, rfl⟩

/-! ### Starting a queued operation -/

/-- With an operation that has not retired the tile has not ended (R108). -/
theorem retireTile_of_issued {c : Cell} (h : c.issued ≠ []) : retireTile c = c := by
  simp [retireTile, h]

/-- An operation as its effect puts it into its queue. -/
def issuedOf (q : CellQueue) (op : TileOp) (e : OpEffect) : Issued :=
  { q := q, op := op, reads := e.reads, writes := e.writes, feeds := e.feeds, desc := e.desc, flagsAt := e.flagsAt, raised := e.raised }

/-- The cell after the issue of an operation that hands no descriptor over: it stands last in its queue, its bytes are counted, and the
sequencer has moved on. -/
theorem cellOf_startOp {s : State} {cell : Nat} {op : TileOp} {q : CellQueue} {e : OpEffect} (hd : e.desc = none) :
    cellOf (startOp s cell op q e) cell
      = passOp { e.cell with issued := e.cell.issued ++ [issuedOf q op e], held := none, bytes := addCounts e.cell.bytes e.cellCounts } (cellOf s cell).pc := by
  have notRetired : ∀ (b : Cell) (p : Nat), b.issued ≠ [] → retireTile (passOp b p) = passOp b p := fun b p h => retireTile_of_issued h
  have cells : ∀ (t : State) (f : Cluster → Cluster), cellOf (modCluster t (cell / 16) f) cell = cellOf t cell := fun _ _ => rfl
  unfold startOp
  simp only [hd, Option.isSome_none, Bool.false_and, Bool.false_eq_true, if_false]
  rw [notRetired _ _ (by simp)]
  split <;> simp [cells, issuedOf, hd]

/-- The issue counts in the cell's own cluster, and there among the operation counters alone. -/
theorem clusterOf_startOp (s : State) (cell : Nat) (op : TileOp) (q : CellQueue) (e : OpEffect) (n : Nat) :
    clusterOf (startOp s cell op q e) n = { clusterOf s n with ops := (clusterOf (startOp s cell op q e) n).ops }
      ∧ (n ≠ cell / 16 → clusterOf (startOp s cell op q e) n = clusterOf s n) := by
  have clusters : ∀ (t : State) (x : Cell), clusterOf (setCell t cell x) n = clusterOf t n := fun _ _ => rfl
  have draws : clusterOf { s with freeCount := e.draws } n = clusterOf s n := rfl
  unfold startOp
  dsimp only
  split
  · rw [clusters, draws]
    exact ⟨rfl, fun _ => rfl⟩
  · rw [clusterOf_modCluster]
    by_cases hn : n = cell / 16
    · subst hn
      rw [if_pos rfl, clusters, draws]
      exact ⟨rfl, fun h => absurd rfl h⟩
    · rw [if_neg hn, clusters, draws]
      exact ⟨rfl, fun _ => rfl⟩

theorem startOp_onlyCell (s : State) (cell : Nat) (op : TileOp) (q : CellQueue) (e : OpEffect) : OnlyCell s (startOp s cell op q e) cell := by
  obtain ⟨rest, otherCells⟩ := startOp_frame s cell op q e
  exact ⟨rest, otherCells, fun n => (clusterOf_startOp s cell op q e n).1, fun n => (clusterOf_startOp s cell op q e n).2⟩

/-- An operation whose effect leaves results alone in the cell `b` that its reads found has been issued from `b`, with those results. -/
theorem startOp_issuesAs {s : State} {cell : Nat} {op : TileOp} {q : CellQueue} {e : OpEffect} {b : Cell} (hd : e.desc = none)
    (hr : ResultsOnly b e.cell) (hpc : b.pc = (cellOf s cell).pc) :
    IssuesAs s (startOp s cell op q e) cell b (issuedOf q op e)
      ∧ (cellOf (startOp s cell op q e) cell).v = e.cell.v ∧ (cellOf (startOp s cell op q e) cell).acc = e.cell.acc
      ∧ (cellOf (startOp s cell op q e) cell).slots = e.cell.slots := by
  unfold IssuesAs
  rw [cellOf_startOp hd, ← hpc]
  refine ⟨⟨startOp_onlyCell s cell op q e, ?_⟩, rfl, rfl, rfl⟩
  obtain ⟨v, acc, slots, hcell⟩ := hr
  rw [hcell]
  rfl

/-- A free cell that performs a queued operation without a fault answers the state after its issue. -/
theorem issueOp_done {s : State} {cell : Nat} {op : TileOp} {q : CellQueue} {e : OpEffect} (hf : CellFree s cell op q) (ho : op.ok = true)
    (hq : queueOf op = some q) (he : opEffect s cell op = .done e) : issueOp s cell op [] = .next (startOp s cell op q e) := by
  rw [issueOp_queued s cell op q [] hf ho hq, performQueued_done s cell op q e he]

/-! ### What a scratchpad read settles (R93) -/

/-- The cell `d` is `c` after some of the writes of issued operations have been performed. -/
def SettledFrom (c d : Cell) : Prop := ∃ sp poison issued, d = { c with sp := sp, spPoison := poison, issued := issued }

theorem SettledFrom.refl (c : Cell) : SettledFrom c c := ⟨_, _, _, rfl⟩

theorem SettledFrom.trans {c d e : Cell} (h : SettledFrom c d) (h' : SettledFrom d e) : SettledFrom c e := by
  obtain ⟨_, _, _, rfl⟩ := h
  obtain ⟨_, _, _, rfl⟩ := h'
  exact ⟨_, _, _, rfl⟩

/-- Performing writes changes no register, accumulator or slot, nor where the sequencer stands. -/
theorem SettledFrom.registers {c d : Cell} (h : SettledFrom c d) : d.v = c.v ∧ d.acc = c.acc ∧ d.slots = c.slots ∧ d.pc = c.pc := by
  obtain ⟨_, _, _, rfl⟩ := h
  exact ⟨rfl, rfl, rfl, rfl⟩

theorem writePieces_settledFrom (l : List (Nat × List Byte)) (c : Cell) : SettledFrom c (l.foldl (fun c e => writePiece c e.1 e.2 false) c) := by
  induction l generalizing c with
  | nil => exact .refl c
  | cons e t ih => exact SettledFrom.trans ⟨_, _, _, rfl⟩ (ih (writePiece c e.1 e.2 false))

theorem settleList_settledFrom (own : Option CellQueue) (row : Nat) (l : List Issued) (behind : List CellQueue) (n : Nat) (c : Cell) :
    SettledFrom c (settleList own row l behind n c).2.1 := by
  induction l generalizing behind n c with
  | nil => exact .refl c
  | cons i t ih => exact (writePieces_settledFrom _ c).trans (ih _ _ _)

theorem settleRow_settledFrom (own : Option CellQueue) (row n : Nat) (c : Cell) : SettledFrom c (settleRow own row n c).1 :=
  (settleList_settledFrom own row c.issued [] n c).trans ⟨_, _, _, rfl⟩

theorem settleRows_settledFrom (own : Option CellQueue) (rows : List Nat) (n : Nat) (c : Cell) : SettledFrom c (settleRows own rows n c).1 := by
  induction rows generalizing n c with
  | nil => exact .refl c
  | cons r t ih => exact (settleRow_settledFrom own r n c).trans (ih (settleRow own r n c).2 (settleRow own r n c).1)

theorem tileRead_settledFrom (regs : List Region) (c : Cell) (q : CellQueue) (n o len : Nat) : SettledFrom c (tileRead regs c q n o len).cell :=
  settleRows_settledFrom (some q) ((rowSpan o len).map (tileRow regs c.half)) n c

end Sys2Proof.Machine
end

section
/-! PROOFS. Vector arithmetic on registers (R80, R81, R82, Table 4-9): what a lane-by-lane operation leaves, and the maximum and the minimum at NaN
operands and at the two zeros. -/

namespace Sys2Proof.Machine

open Sys2Proof

/-! ### Maximum and minimum (R81) -/

theorem f32Max_of_nan {p q : F32} (h : isNaN32 p = true ∨ isNaN32 q = true) : f32Max p q = nan32 := by
  rw [← Bool.or_eq_true] at h
  exact if_pos h

theorem f32Min_of_nan {p q : F32} (h : isNaN32 p = true ∨ isNaN32 q = true) : f32Min p q = nan32 := by
  rw [← Bool.or_eq_true] at h
  exact if_pos h

/-- +0 lies above −0, whichever operand it is. -/
theorem f32Max_f32Min_zeros :
    f32Max 0 0x80000000 = 0 ∧ f32Max 0x80000000 0 = 0 ∧ f32Min 0 0x80000000 = 0x80000000 ∧ f32Min 0x80000000 0 = 0x80000000 := by decide

/-! ### Lane by lane -/

/-- An operation whose effect is lane by lane writes its lanes to vd where it can be issued; where it is not the next one of its tile,
nothing changes. -/
theorem lanewise_exec {s : State} {cell vd : Nat} {i : Instr} {op : TileOp} {r : List (F32 × Raised)} (hi : exec i s = issueOp s cell op [])
    (ho : op.ok = true) (hq : queueOf op = some .vector) (he : opEffect s cell op = effLanes (cellOf s cell) s.freeCount vd r) :
    (CellFree s cell op .vector → WritesLanes (exec i s) s cell (cellOf s cell) op .vector [] vd r)
      ∧ (cellOk cell = true → canIssue (cellOf s cell) op = false → exec i s = .next s) := by
  rw [hi]
  refine ⟨fun hf => ⟨_, issueOp_done hf ho hq he, ?_⟩, fun hc hn => issueOp_notNext [] hc ho hn⟩
  have results := (ResultsOnly.refl (cellOf s cell)).setV vd (r.map (·.1))
  obtain ⟨issued, hv, hacc, hslots⟩ := startOp_issuesAs (s := s) (op := op) (q := .vector)
    (e := { cell := setV (cellOf s cell) vd (r.map (·.1)), raised := raiseAll (r.map (·.2)), draws := s.freeCount, opCounts := [(16, 64)] }) rfl results rfl
  refine ⟨issued, fun v => ?_, hacc, hslots⟩
  rw [← vReg_setV, vReg, hv, vReg]

/-- Settles O2: each of the twelve operations has a lane-by-lane effect, and `lanewise_exec` says what such an operation leaves. -/
theorem vectorArithmetic : Obligations.VectorArithmetic := by
  unfold Obligations.VectorArithmetic
  refine ⟨fun s cell vd a b d imm hvd ha hb hd => ?lanes, fun p q h => ⟨f32Max_of_nan h, f32Min_of_nan h⟩, f32Max_f32Min_zeros⟩
  have ok2 : (vOk vd && vOk a) = true := by rw [hvd, ha]; rfl
  have ok3 : (vOk vd && vOk a && vOk b) = true := by rw [ok2, hb]; rfl
  have ok4 : (vOk vd && vOk a && vOk b && vOk d) = true := by rw [ok3, hd]; rfl
  exact ⟨lanewise_exec rfl ok3 rfl rfl, lanewise_exec rfl ok3 rfl rfl, lanewise_exec rfl ok3 rfl rfl, lanewise_exec rfl ok4 rfl rfl,
    lanewise_exec rfl ok3 rfl rfl, lanewise_exec rfl ok3 rfl rfl, lanewise_exec rfl ok2 rfl rfl, lanewise_exec rfl ok2 rfl rfl,
    lanewise_exec rfl ok2 rfl rfl, lanewise_exec rfl hvd rfl rfl, lanewise_exec rfl ok2 rfl rfl, lanewise_exec rfl ok2 rfl rfl⟩

end Sys2Proof.Machine
end

section
/-! PROOFS. MMA RUN (R71, R72, R95): the rows of outputs that it writes to its accumulator bank, and what it leaves of the cell. -/

namespace Sys2Proof.Machine

open Sys2Proof

/-! ### Rows of an operand -/

theorem length_chunks_le {α : Type} (n fuel : Nat) (l : List α) : (chunks n fuel l).length ≤ fuel := by
  induction fuel generalizing l with
  | zero => exact Nat.le_refl 0
  | succ fuel ih =>
    unfold chunks
    split
    · exact Nat.zero_le _
    · exact Nat.succ_le_succ (ih _)

/-- An operand of n rows gives no more than n, in either feed and every format. -/
theorem length_operandRows_le (fmt n k : Nat) (t : Bool) (elems scales : List Byte) : (operandRows fmt n k t elems scales).length ≤ n := by
  have normalFeed := length_chunks_le k n (elemCodes (fmtBits fmt) elems)
  unfold operandRows
  cases t with
  | true => simp
  | false => cases fmtBlock fmt <;> simpa using normalFeed

/-! ### Accumulator rows -/

/-- Rows of outputs written to consecutive rows of a bank, the first to row `row`. -/
def putRows (bank row : Nat) (outs : List (List (F32 × Raised))) (c : Cell) : Cell :=
  (outs.zipIdx row).foldl (fun c e => setAcc c bank e.2 (e.1.map (·.1))) c

theorem putRows_cons (bank row : Nat) (os : List (F32 × Raised)) (outs : List (List (F32 × Raised))) (c : Cell) :
    putRows bank row (os :: outs) c = putRows bank (row + 1) outs (setAcc c bank row (os.map (·.1))) := rfl

/-- What MMA RUN does with its outputs, numbered from the first accumulator row. -/
theorem foldl_setAcc_eq_putRows (bank row : Nat) (outs : List (List (F32 × Raised))) (c : Cell) :
    outs.zipIdx.foldl (fun c e => setAcc c bank (row + e.2) (e.1.map (·.1))) c = putRows bank row outs c := by
  have shifted : outs.zipIdx row = outs.zipIdx.map (fun e => (e.1, row + e.2)) := by
    simpa using List.zipIdx_eq_map_add (l := outs) (i := row)
  rw [putRows, shifted, List.foldl_map]

theorem putRows_resultsOnly {b c : Cell} (h : ResultsOnly b c) (bank row : Nat) (outs : List (List (F32 × Raised))) :
    ResultsOnly b (putRows bank row outs c) := by
  induction outs generalizing c row with
  | nil => exact h
  | cons os outs ih => exact ih (h.setAcc bank row _) (row + 1)

theorem putRows_v_slots (bank row : Nat) (outs : List (List (F32 × Raised))) (c : Cell) :
    (putRows bank row outs c).v = c.v ∧ (putRows bank row outs c).slots = c.slots := by
  induction outs generalizing c row with
  | nil => exact ⟨rfl, rfl⟩
  | cons os outs ih => exact ih (row + 1) _

theorem accRowOf_setAcc (c : Cell) (b r : Nat) (x : List F32) (b' r' : Nat) :
    accRowOf (setAcc c b r x) b' r' = if b' * 128 + r' = b * 128 + r then x else accRowOf c b' r' := mget_mset _ _ _ _ _

/-- A row whose place in the accumulators lies outside those written stays. -/
theorem accRowOf_putRows_outside {bank row b r : Nat} {outs : List (List (F32 × Raised))}
    (h : b * 128 + r < bank * 128 + row ∨ bank * 128 + row + outs.length ≤ b * 128 + r) (c : Cell) :
    accRowOf (putRows bank row outs c) b r = accRowOf c b r := by
  induction outs generalizing c row with
  | nil => rfl
  | cons os outs ih =>
    simp only [List.length_cons] at h
    rw [putRows_cons, ih (by omega), accRowOf_setAcc, if_neg (by omega)]

theorem accRowOf_putRows_of_getElem? {bank row i : Nat} {outs : List (List (F32 × Raised))} {os : List (F32 × Raised)}
    (h : outs[i]? = some os) (c : Cell) : accRowOf (putRows bank row outs c) bank (row + i) = os.map (·.1) := by
  induction outs generalizing c row i with
  | nil => simp at h
  | cons o outs ih =>
    rw [putRows_cons]
    cases i with
    | zero =>
      obtain rfl : o = os := by simpa using h
      rw [accRowOf_putRows_outside (by omega), Nat.add_zero, accRowOf_setAcc_self]
    | succ i =>
      rw [← ih (row := row + 1) (i := i) (by simpa using h)]
      congr 1
      omega

/-! ### The operation -/

/-- The rows that a MMA RUN of fitting fields writes end within its bank (Table 4-5). -/
theorem runOp_ok_rows {f : RunOp} (h : f.ok = true) : f.accRow + (f.mMinus1 + 1) ≤ 128 := by
  simp only [RunOp.ok, RunOp.inRange, Bool.and_eq_true, decide_eq_true_eq] at h
  omega

/-- Settles O6: the effect puts its rows of outputs into the bank of the cell as the four reads found it, and those rows lie within the bank. -/
theorem matrixRun : Obligations.MatrixRun := by
  unfold Obligations.MatrixRun
  intro s cell f hf hok c m k ae be aLen bLen aSl bSl ra rb sa sb rows cols g out hA hB hAs hBs alignA alignB cleanA cleanB cleanAs cleanBs
  let outs := rows.zipIdx.map (fun e => out e.2 e.1)
  let e : OpEffect :=
    { cell := outs.zipIdx.foldl (fun c e => setAcc c f.bank (f.accRow + e.2) (e.1.map (·.1))) sb.cell, reads := ra.rows ++ rb.rows ++ sa.rows ++ sb.rows
      raised := raiseAll (outs.map (fun os => raiseAll (os.map (·.2)))), draws := sb.draws
      cellCounts := [(0, aLen + bLen + aSl + bSl)], opCounts := [(f.fmtA, m * k * 32), (30, ceilDiv k g * max m 4)] }
  have effect : opEffect s cell (.run f) = .done e := by
    have inRange : ¬(outOfRange ae aLen || outOfRange be bLen || (aSl != 0 && outOfRange (aReg c f.raScale) aSl)
        || (bSl != 0 && outOfRange (aReg c f.rbScale) bSl)) = true := by
      rcases hAs with h | h <;> rcases hBs with h' | h' <;> simp [hA, hB, h, h']
    have aligned : ¬(ae % 32 ≠ 0 ∨ be % 32 ≠ 0) := by simp [alignA, alignB]
    have clean : ¬(ra.poisoned || rb.poisoned || sa.poisoned || sb.poisoned) = true := by simp [cleanA, cleanB, cleanAs, cleanBs]
    exact (if_neg inRange).trans ((if_neg aligned).trans (if_neg clean))
  have after : e.cell = putRows f.bank f.accRow outs sb.cell := foldl_setAcc_eq_putRows ..
  have found : SettledFrom c sb.cell :=
    (tileRead_settledFrom ..).trans ((tileRead_settledFrom ..).trans ((tileRead_settledFrom ..).trans (tileRead_settledFrom ..)))
  obtain ⟨foundV, foundAcc, foundSlots, foundPc⟩ := found.registers
  obtain ⟨keepsV, keepsSlots⟩ := putRows_v_slots f.bank f.accRow outs sb.cell
  have results : ResultsOnly sb.cell e.cell := after ▸ putRows_resultsOnly (.refl sb.cell) f.bank f.accRow outs
  obtain ⟨issued, hv, hacc, hslots⟩ := startOp_issuesAs (s := s) (op := .run f) (q := .run) (e := e) rfl results foundPc
  rw [after] at hv hacc hslots
  have accRows : ∀ b r, accRowOf (cellOf (startOp s cell (.run f) .run e) cell) b r = accRowOf (putRows f.bank f.accRow outs sb.cell) b r :=
    fun b r => congrArg (fun x => mget zeroAcc x (b * 128 + r)) hacc
  refine ⟨_, issueOp_done hf hok rfl effect, ?issued, hv.trans (keepsV.trans foundV), hslots.trans (keepsSlots.trans foundSlots),
    fun i row hrow => ?written, fun b i outside _ hi => ?kept⟩
  case issued =>
    have raised : e.raised = raiseAll (rows.zipIdx.map (fun e => raiseAll ((out e.2 e.1).map (·.2)))) := congrArg raiseAll (List.map_map ..)
    rw [← raised]
    exact issued
  case written =>
    have output : outs[i]? = some (out i row) := by simp [outs, hrow]
    rw [accRows, accRowOf_putRows_of_getElem? output]
  case kept =>
    have within := runOp_ok_rows hok
    have height : outs.length = rows.length := by simp [outs]
    have fits : rows.length ≤ f.mMinus1 + 1 := length_operandRows_le ..
    rw [accRows, accRowOf_putRows_outside (by omega)]
    exact congrArg (fun x => mget zeroAcc x (b * 128 + i)) foundAcc

end Sys2Proof.Machine
end

section
/-! PROOFS. Trees and special functions (R99, R114, Table 4-9): what an operation that writes one vector register leaves, FP32 codes of exact
values, and the exact cases of exp2 and log2. -/

namespace Sys2Proof.Machine

open Sys2Proof

/-! ### One vector register -/

/-- A queued operation whose effect writes one vector register of the cell `b` as it found it: what its issue leaves. -/
theorem exec_writesRegister {s : State} {cell vd : Nat} {i : Instr} {op : TileOp} {q : CellQueue} {e : OpEffect} {b : Cell} {l : List F32}
    (hi : exec i s = issueOp s cell op []) (ho : op.ok = true) (hq : queueOf op = some q) (he : opEffect s cell op = .done e)
    (hd : e.desc = none) (hl : e.cell = setV b vd l) (hpc : b.pc = (cellOf s cell).pc) (hf : CellFree s cell op q) :
    AnswersWith (exec i s) (fun t => IssuesAs s t cell b (issuedOf q op e)
      ∧ (∀ v, vReg (cellOf t cell) v = if v = vd then l else vReg b v) ∧ (cellOf t cell).acc = b.acc ∧ (cellOf t cell).slots = b.slots) := by
  have results : ResultsOnly b e.cell := hl ▸ (ResultsOnly.refl b).setV vd l
  obtain ⟨issued, hv, hacc, hslots⟩ := startOp_issuesAs (s := s) (op := op) (q := q) hd results hpc
  rw [hl] at hv hacc hslots
  refine ⟨_, hi.trans (issueOp_done hf ho hq he), issued, fun v => ?_, hacc, hslots⟩
  rw [← vReg_setV, vReg, hv, vReg]

/-! ### Shifts and exact codes -/

theorem log2_mul_two_pow {m : Nat} (hm : m ≠ 0) (j : Nat) : Nat.log2 (m * 2 ^ j) = Nat.log2 m + j := by
  rw [Nat.log2_eq_iff (Nat.mul_ne_zero hm (Nat.ne_of_gt (Nat.two_pow_pos j)))]
  have below : 2 ^ (Nat.log2 m + j) ≤ m * 2 ^ j := by
    rw [Nat.pow_add]
    exact Nat.mul_le_mul_right _ (Nat.log2_self_le hm)
  have above : m * 2 ^ j < 2 ^ (Nat.log2 m + j + 1) := by
    rw [Nat.add_right_comm, Nat.pow_add]
    exact Nat.mul_lt_mul_of_pos_right Nat.lt_log2_self (Nat.two_pow_pos j)
  exact ⟨below, above⟩

theorem mul_two_pow_lt {m j k : Nat} (hm : m ≠ 0) (h : Nat.log2 m + j < k) : m * 2 ^ j < 2 ^ k := by
  rw [← Nat.log2_lt (Nat.mul_ne_zero hm (Nat.ne_of_gt (Nat.two_pow_pos j))), log2_mul_two_pow hm]
  exact h

/-- A truncation that loses no bit only moves the exponent. -/
theorem truncShift_mul_two_pow (m j : Nat) {b : Nat} {k : Int} (h : (b : Int) = j + k) : truncShift (m * 2 ^ j) k = m * 2 ^ b := by
  cases k with
  | ofNat i =>
    obtain rfl : b = j + i := by simp only [Int.ofNat_eq_natCast] at h; omega
    rw [truncShift, Nat.shiftLeft_eq, Nat.mul_assoc, Nat.pow_add]
  | negSucc i =>
    obtain rfl : j = b + (i + 1) := by omega
    rw [truncShift, Nat.shiftRight_eq_div_pow, Nat.pow_add, ← Nat.mul_assoc, Nat.mul_div_cancel _ (Nat.two_pow_pos _)]

theorem roundShift_natCast (m j : Nat) : roundShift m (j : Int) = m * 2 ^ j := Nat.shiftLeft_eq m j

/-- The rounding of R75 at FP32: `q` is the weight of the last place. -/
theorem magCode_fp32 {m : Nat} (hm : m ≠ 0) (e : Int) {q : Int} (hq : max ((Nat.log2 m : Int) + e - 23) (-149) = q) :
    magCode .fp32 m e = (q + 149).toNat * 2 ^ 23 + roundShift m (e - q) := by
  subst hq
  exact if_neg hm

/-- The code of m × 2^e is exact where its bits fit: `x` is its exponent field above the subnormals, and `j` places make its mantissa. -/
theorem magCode_fp32_exact {m x j : Nat} {e : Int} (hm : m ≠ 0) (hx : max ((Nat.log2 m : Int) + e - 23) (-149) = (x : Int) - 149)
    (hj : e = (x : Int) - 149 + j) : magCode .fp32 m e = x * 2 ^ 23 + m * 2 ^ j := by
  have field : ((x : Int) - 149 + 149).toNat = x := by omega
  have places : e - ((x : Int) - 149) = j := by omega
  rw [magCode_fp32 hm e hx, field, places, roundShift_natCast]

/-- The value of an FP32 word by its fields (Table 3-1). -/
theorem elemValue_fp32 (w : Nat) : elemValue .fp32 w =
    if w % 2 ^ 31 = 0x7F800000 then .inf (bit w 31)
    else if w % 2 ^ 31 > 0x7F7FFFFF then .nan
    else if w % 2 ^ 31 / 2 ^ 23 = 0 then .fin (bit w 31) (w % 2 ^ 31 % 2 ^ 23) (-149)
    else .fin (bit w 31) (w % 2 ^ 31 % 2 ^ 23 + 2 ^ 23) ((w % 2 ^ 31 / 2 ^ 23 : Nat) - 127 - 23) := by
  simp [elemValue, elemWidth, mantBits, infCode, maxCode, expBias, eq_comm]

/-- The sign bit and the magnitude of a signed code. -/
theorem signed32_toNat (neg : Bool) {c : Nat} (hc : c < 2 ^ 31) :
    bit (signed32 neg c).toNat 31 = neg ∧ (signed32 neg c).toNat % 2 ^ 31 = c := by
  have word : (signed32 neg c).toNat = c + if neg then 2 ^ 31 else 0 := by
    rw [signed32, BitVec.toNat_ofNat, Nat.mod_eq_of_lt]
    split <;> omega
  rw [word, bit, Nat.testBit_eq_decide_div_mod_eq]
  cases neg with
  | false =>
    simp only [Bool.false_eq_true, if_false, decide_eq_false_iff_not]
    omega
  | true =>
    simp only [if_true, decide_eq_true_iff]
    omega

/-- The value of a signed code whose exponent field is in range: exponent field `x` above the subnormals and mantissa `M`. -/
theorem f32Value_signed32 (neg : Bool) {x M : Nat} (hM : M < 2 ^ 24) (hx : x < 254) (h : x = 0 ∨ 2 ^ 23 ≤ M) :
    f32Value (signed32 neg (x * 2 ^ 23 + M)) = .fin neg M ((x : Int) - 149) := by
  obtain ⟨sign, magnitude⟩ := signed32_toNat neg (c := x * 2 ^ 23 + M) (by omega)
  rw [f32Value, elemValue_fp32, sign, magnitude, if_neg (by omega), if_neg (by omega)]
  split
  case isTrue subnormal =>
    have fields : (x * 2 ^ 23 + M) % 2 ^ 23 = M ∧ (x : Int) - 149 = -149 := by omega
    rw [fields.1, fields.2]
  case isFalse normal =>
    have fields : (x * 2 ^ 23 + M) % 2 ^ 23 + 2 ^ 23 = M ∧ (((x * 2 ^ 23 + M) / 2 ^ 23 : Nat) : Int) - 127 - 23 = (x : Int) - 149 := by omega
    rw [fields.1, fields.2]

/-- The value of m × 2^e that is rounded exactly is m × 2^e. -/
theorem f32Value_magCode (neg : Bool) {m x j : Nat} {e : Int} (hm : m ≠ 0) (hx : max ((Nat.log2 m : Int) + e - 23) (-149) = (x : Int) - 149)
    (hj : e = (x : Int) - 149 + j) (hmax : x < 254) : f32Value (signed32 neg (magCode .fp32 m e)) = .fin neg (m * 2 ^ j) ((x : Int) - 149) := by
  have fits : m * 2 ^ j < 2 ^ 24 := mul_two_pow_lt hm (by omega)
  have leading : x = 0 ∨ 2 ^ 23 ≤ m * 2 ^ j := by
    rw [← Nat.le_log2 (Nat.mul_ne_zero hm (Nat.ne_of_gt (Nat.two_pow_pos j))), log2_mul_two_pow hm]
    omega
  rw [magCode_fp32_exact hm hx hj, f32Value_signed32 neg fits hmax leading]

/-! ### Integers and powers of two in FP32 -/

/-- An integer below 2^24 in magnitude is its own FP32 value. -/
theorem intF32_eq_signed32 {n : Int} (hn : n.natAbs < 2 ^ 24) : intF32 n = signed32 (decide (n < 0)) (magCode .fp32 n.natAbs 0) := by
  have inRange : ¬ magCode .fp32 n.natAbs 0 > maxCode .fp32 := by
    by_cases zero : n.natAbs = 0
    · rw [zero]
      decide
    · have top : Nat.log2 n.natAbs < 24 := (Nat.log2_lt zero).2 hn
      have fits : n.natAbs * 2 ^ (23 - Nat.log2 n.natAbs) < 2 ^ 24 := mul_two_pow_lt zero (by omega)
      rw [magCode_fp32_exact zero (x := Nat.log2 n.natAbs + 126) (j := 23 - Nat.log2 n.natAbs) (by omega) (by omega), show maxCode .fp32 = 0x7F7FFFFF from rfl]
      omega
  rw [intF32, roundF32, if_neg inRange]

theorem f32Value_intF32 {n : Int} (h0 : n ≠ 0) (hn : n.natAbs < 2 ^ 24) :
    ∃ j : Nat, f32Value (intF32 n) = .fin (decide (n < 0)) (n.natAbs * 2 ^ j) (-(j : Int)) := by
  have nonzero : n.natAbs ≠ 0 := by omega
  have top : Nat.log2 n.natAbs < 24 := (Nat.log2_lt nonzero).2 hn
  have exponent : ((Nat.log2 n.natAbs + 126 : Nat) : Int) - 149 = -((23 - Nat.log2 n.natAbs : Nat) : Int) := by omega
  refine ⟨23 - Nat.log2 n.natAbs, ?_⟩
  rw [intF32_eq_signed32 hn, f32Value_magCode _ nonzero (x := Nat.log2 n.natAbs + 126) (j := 23 - Nat.log2 n.natAbs) (by omega) (by omega) (by omega), exponent]

theorem log2_one : Nat.log2 1 = 0 := Nat.log2_two_pow (n := 0)

theorem powerOfTwo_eq_signed32 (n : Int) : powerOfTwo n = signed32 false (magCode .fp32 1 n) := by
  simp [powerOfTwo, signed32]

/-- The field above the subnormals and the places of the mantissa of 2^n. -/
theorem powerOfTwo_fields {n : Int} (h : -149 ≤ n) (h' : n ≤ 127) :
    ∃ x j : Nat, max ((Nat.log2 1 : Int) + n - 23) (-149) = (x : Int) - 149 ∧ n = (x : Int) - 149 + j ∧ x < 254 := by
  rw [log2_one]
  exact ⟨(max (n - 23) (-149) + 149).toNat, (n - max (n - 23) (-149)).toNat, by omega, by omega, by omega⟩

theorem f32Value_powerOfTwo {n : Int} (h : -149 ≤ n) (h' : n ≤ 127) :
    ∃ (j : Nat) (e : Int), (j : Int) + e = n ∧ f32Value (powerOfTwo n) = .fin false (2 ^ j) e := by
  obtain ⟨x, j, field, places, hmax⟩ := powerOfTwo_fields h h'
  have value := f32Value_magCode false Nat.one_ne_zero field places hmax
  rw [Nat.one_mul, ← powerOfTwo_eq_signed32] at value
  exact ⟨j, _, by omega, value⟩

/-- The pattern of 2^n: a normal code down to 2^-126, and one mantissa bit below it. -/
theorem powerOfTwo_pattern {n : Int} (h : -149 ≤ n) :
    powerOfTwo n = BitVec.ofNat 32 (if -126 ≤ n then (n + 127).toNat * 2 ^ 23 else 2 ^ (n + 149).toNat) := by
  rw [powerOfTwo]
  congr 1
  split
  case isTrue normal =>
    rw [magCode_fp32_exact Nat.one_ne_zero (x := (n + 126).toNat) (j := 23) (by rw [log2_one]; omega) (by omega)]
    omega
  case isFalse subnormal =>
    rw [magCode_fp32_exact Nat.one_ne_zero (x := 0) (j := (n + 149).toNat) (by rw [log2_one]; omega) (by omega)]
    simp

/-! ### The exact cases of exp2 and log2 (R114) -/

/-- A magnitude with its sign in front. -/
theorem sign_natAbs_mul (n : Int) (k : Nat) :
    (if decide (n < 0) = true then -((n.natAbs * k : Nat) : Int) else ((n.natAbs * k : Nat) : Int)) = n * k := by
  rw [Int.natCast_mul]
  by_cases hn : n < 0
  · rw [if_pos (decide_eq_true hn), Int.ofNat_natAbs_of_nonpos (Int.le_of_lt hn), Int.neg_mul, Int.neg_neg]
  · rw [if_neg (by simpa using hn), Int.natAbs_of_nonneg (Int.not_lt.1 hn)]

/-- An integer is found to be one, however many places its mantissa is moved by. -/
theorem asInteger_mul_two_pow (n : Int) (j : Nat) : asInteger (decide (n < 0)) (n.natAbs * 2 ^ j) (-(j : Int)) = some n := by
  have whole : truncShift (n.natAbs * 2 ^ j) (-(j : Int)) = n.natAbs := by
    rw [truncShift_mul_two_pow _ j (b := 0) (by omega), Nat.pow_zero, Nat.mul_one]
  have back : truncShift n.natAbs (- -(j : Int)) = n.natAbs * 2 ^ j := by
    simpa using truncShift_mul_two_pow n.natAbs 0 (b := j) (k := - -(j : Int)) (by omega)
  have signed := sign_natAbs_mul n 1
  rw [Nat.mul_one, Int.natCast_one, Int.mul_one] at signed
  rw [asInteger, whole, if_pos back, signed]

theorem sfuExp2_of_zero {v : F32} {neg : Bool} {e : Int} (hv : f32Value v = .fin neg 0 e) : sfuExp2 v = (0x3F800000, quiet) := by
  simp only [sfuExp2, hv, if_true]

/-- exp2 of a value that is the integer n, within the exponents of FP32, is the power itself. -/
theorem sfuExp2_of_integer {v : F32} {n : Int} {j : Nat} (hv : f32Value v = .fin (decide (n < 0)) (n.natAbs * 2 ^ j) (-(j : Int))) (h0 : n ≠ 0)
    (h : -149 ≤ n) (h' : n ≤ 127) : sfuExp2 v = (powerOfTwo n, quiet) := by
  have nonzero : n.natAbs ≠ 0 := by omega
  have mantissa : n.natAbs * 2 ^ j ≠ 0 := Nat.mul_ne_zero nonzero (Nat.ne_of_gt (Nat.two_pow_pos j))
  have small : Nat.log2 n.natAbs < 8 := (Nat.log2_lt nonzero).2 (by omega)
  have small' : 0 < n → Nat.log2 n.natAbs < 7 := fun _ => (Nat.log2_lt nonzero).2 (by omega)
  have top : floorLog2 (n.natAbs * 2 ^ j) (-(j : Int)) = Nat.log2 n.natAbs := by
    rw [floorLog2, log2_mul_two_pow nonzero]
    omega
  have notLarge : ¬ ((!decide (n < 0)) = true ∧ (Nat.log2 n.natAbs : Int) ≥ 7) := by
    simp only [Bool.not_eq_true', decide_eq_false_iff_not]
    omega
  have fixed : (if decide (n < 0) = true then -(truncShift (n.natAbs * 2 ^ j) (-(j : Int) + 100) : Int)
      else truncShift (n.natAbs * 2 ^ j) (-(j : Int) + 100)) = n * 2 ^ 100 := by
    rw [truncShift_mul_two_pow _ j (b := 100) (by omega), sign_natAbs_mul, Int.natCast_pow, Int.cast_ofNat_Int]
  have notTiny : ¬ (n * 2 ^ 100 < -150 * 2 ^ 100 ∨ decide (n < 0) = true ∧ (Nat.log2 n.natAbs : Int) ≥ 8) := by omega
  have notHalf : n ≠ -150 := by omega
  simp only [sfuExp2, hv, top, fixed, asInteger_mul_two_pow, if_neg mantissa, if_neg notLarge, if_neg notTiny, if_neg notHalf]

/-- log2 of a value that is a power of two is its exponent. -/
theorem sfuLog2_of_power {v : F32} {j : Nat} {e : Int} (hv : f32Value v = .fin false (2 ^ j) e) (hj : ((j : Int) + e).natAbs < 2 ^ 24) :
    sfuLog2 v = (intF32 (j + e), quiet) := by
  have mantissa : 2 ^ j ≠ 0 := Nat.ne_of_gt (Nat.two_pow_pos j)
  have top : floorLog2 (2 ^ j) e = j + e := by rw [floorLog2, Nat.log2_two_pow]
  have fraction : truncShift (2 ^ j) (23 - (Nat.log2 (2 ^ j) : Int)) = 2 ^ 23 := by
    rw [Nat.log2_two_pow]
    simpa using truncShift_mul_two_pow 1 j (b := 23) (k := 23 - (j : Int)) (by omega)
  simp only [sfuLog2, hv, top, fraction, if_neg mantissa, Bool.false_eq_true, if_false, if_true, intF32_eq_signed32 hj]

theorem sfuExp2_intF32 {n : Int} (h : -149 ≤ n) (h' : n ≤ 127) : (sfuExp2 (intF32 n)).1 = powerOfTwo n := by
  by_cases h0 : n = 0
  · subst h0
    have zero : f32Value (intF32 0) = .fin false 0 (-149) := by decide
    rw [sfuExp2_of_zero zero]
    decide
  · obtain ⟨j, value⟩ := f32Value_intF32 h0 (by omega)
    rw [sfuExp2_of_integer value h0 h h']

theorem sfuLog2_powerOfTwo {n : Int} (h : -149 ≤ n) (h' : n ≤ 127) : (sfuLog2 (powerOfTwo n)).1 = intF32 n := by
  obtain ⟨j, e, rfl, value⟩ := f32Value_powerOfTwo h h'
  rw [sfuLog2_of_power value (by omega)]

/-- Settles O3: the four effects write one register each, and on integers and powers of two exp2 and log2 are exact. -/
theorem vectorTreesAndFunctions : Obligations.VectorTreesAndFunctions := by
  unfold Obligations.VectorTreesAndFunctions
  intro s cell vd a hvd ha
  have ok2 : (vOk vd && vOk a) = true := by rw [hvd, ha]; rfl
  refine ⟨exec_writesRegister (op := .vrsum vd a) rfl ok2 rfl rfl rfl rfl rfl, exec_writesRegister (op := .vrmax vd a) rfl ok2 rfl rfl rfl rfl rfl,
    exec_writesRegister (op := .exp2 vd a) rfl ok2 rfl rfl rfl rfl rfl, exec_writesRegister (op := .log2 vd a) rfl ok2 rfl rfl rfl rfl rfl,
    fun n h h' => ?integers, ?zero, ?negZero, ?one⟩
  case integers =>
    dsimp only
    rw [← powerOfTwo_pattern h]
    exact ⟨sfuExp2_intF32 h h', sfuLog2_powerOfTwo h h'⟩
  case zero => exact congrArg Prod.fst (sfuExp2_of_zero (neg := false) (e := -149) (by decide))
  case negZero => exact congrArg Prod.fst (sfuExp2_of_zero (neg := true) (e := -149) (by decide))
  case one =>
    have one : powerOfTwo 0 = 0x3F800000 := by decide
    rw [← one, sfuLog2_powerOfTwo (by decide) (by decide)]
    decide

end Sys2Proof.Machine
end

section
/-! PROOFS. Row statistics (R100, R120 to R125): the cell as a statistics operation finds it, what the operation leaves of its slots,
and the maximum of a slot. -/

namespace Sys2Proof.Machine

open Sys2Proof

/-! ### Rows of drains that reach their slots (R125) -/

/-- The cells `c` and `d` agree in the vector registers, the accumulators and the place of the sequencer. -/
def SameRegisters (c d : Cell) : Prop := d.v = c.v ∧ d.acc = c.acc ∧ d.pc = c.pc

theorem SameRegisters.trans {c d e : Cell} (h : SameRegisters c d) (h' : SameRegisters d e) : SameRegisters c e := by
  obtain ⟨hv, hacc, hpc⟩ := h
  obtain ⟨hv', hacc', hpc'⟩ := h'
  exact ⟨hv'.trans hv, hacc'.trans hacc, hpc'.trans hpc⟩

theorem feedSlot_sameRegisters (c : Cell) (f : Nat × Bool × List F32) : SameRegisters c (feedSlot c f) := by
  unfold feedSlot
  split <;> exact ⟨rfl, rfl, rfl⟩

theorem foldl_feedSlot_sameRegisters (l : List (Nat × Bool × List F32)) (c : Cell) : SameRegisters c (l.foldl feedSlot c) := by
  induction l generalizing c with
  | nil => exact ⟨rfl, rfl, rfl⟩
  | cons f t ih => exact (feedSlot_sameRegisters c f).trans (ih _)

theorem takeFeeds_sameRegisters (l : List Issued) (k : Nat) (c : Cell) : SameRegisters c (takeFeeds l k c).2 := by
  induction l generalizing k c with
  | nil => exact ⟨rfl, rfl, rfl⟩
  | cons i t ih => exact (foldl_feedSlot_sameRegisters _ c).trans (ih _ _)

/-- Rows that reach their slots change no vector register and no accumulator, nor where the sequencer stands. -/
theorem settled_sameRegisters (c : Cell) (n : Nat) : SameRegisters c (settled c n).1 := by
  unfold settled
  dsimp only
  split
  · exact ⟨rfl, rfl, rfl⟩
  · exact takeFeeds_sameRegisters ..

theorem settled_of_noFeeds {c : Cell} (h : ∀ i ∈ c.issued, i.feeds = []) (n : Nat) : settled c n = (c, n) := by
  have none_left : (c.issued.map (fun i => i.feeds.length)).sum = 0 := by
    simpa only [List.sum_eq_zero_iff_forall_eq_nat, List.forall_mem_map, List.length_eq_zero_iff] using h
  exact if_pos none_left

/-! ### Slots -/

/-- A statistics operation whose effect leaves slots alone in the cell `b` that it found: its issue leaves them as `f` says. -/
theorem exec_writesSlots {s : State} {cell : Nat} {i : Instr} {op : TileOp} {e : OpEffect} {b : Cell} {f : Nat → StatSlot}
    (hi : exec i s = issueOp s cell op []) (ho : op.ok = true) (hq : queueOf op = some .stat) (he : opEffect s cell op = .done e)
    (hd : e.desc = none) (hb : SameRegisters (cellOf s cell) b) (hx : ∃ x, e.cell = { b with slots := x }) (hf : ∀ j, slotOf e.cell j = f j)
    (free : CellFree s cell op .stat) :
    AnswersWith (exec i s) (fun t => IssuesAs s t cell b (issuedOf .stat op e) ∧ (cellOf t cell).acc = (cellOf s cell).acc
      ∧ (cellOf t cell).v = (cellOf s cell).v ∧ ∀ j, slotOf (cellOf t cell) j = f j) := by
  obtain ⟨keepsV, keepsAcc, keepsPc⟩ := hb
  obtain ⟨x, hx⟩ := hx
  obtain ⟨issued, hv, hacc, hslots⟩ := startOp_issuesAs (s := s) (op := op) (q := .stat) hd ⟨b.v, b.acc, x, hx⟩ keepsPc
  refine ⟨_, hi.trans (issueOp_done free ho hq he), issued, ?acc, ?v, fun j => ?slots⟩
  case acc => rw [hacc, hx, ← keepsAcc]
  case v => rw [hv, hx, ← keepsV]
  case slots => rw [← hf, slotOf, hslots, slotOf]

/-- The slots of a list cleared where a mask has their bit, as STAT CLR clears the eight of a cell (`opEffect_statClr`). -/
def clearSlots (mask : BitVec 8) (l : List Nat) (c : Cell) : Cell := l.foldl (fun c i => if bit mask.toNat i then setSlot c i StatSlot.reset else c) c

theorem clearSlots_slotsOnly (mask : BitVec 8) (l : List Nat) (c : Cell) : ∃ x, clearSlots mask l c = { c with slots := x } := by
  induction l generalizing c with
  | nil => exact ⟨c.slots, rfl⟩
  | cons i t ih =>
    obtain ⟨x, hx⟩ := ih (if bit mask.toNat i then setSlot c i StatSlot.reset else c)
    refine ⟨x, hx.trans ?_⟩
    split <;> rfl

theorem slotOf_clearSlots (mask : BitVec 8) (l : List Nat) (c : Cell) (j : Nat) :
    slotOf (clearSlots mask l c) j = if j ∈ l ∧ bit mask.toNat j = true then StatSlot.reset else slotOf c j := by
  induction l generalizing c with
  | nil => simp [clearSlots]
  | cons i t ih =>
    have step : clearSlots mask (i :: t) c = clearSlots mask t (if bit mask.toNat i then setSlot c i StatSlot.reset else c) := rfl
    rw [step, ih]
    by_cases hj : j = i
    · subst hj
      cases marked : bit mask.toNat j <;> simp
    · cases marked : bit mask.toNat i <;> simp [hj, slotOf_setSlot]

/-! ### What each statistics operation does, on the cell as it finds it (R121 to R124) -/

theorem opEffect_statClr (s : State) (cell : Nat) (mask : BitVec 8) : opEffect s cell (.statClr mask) =
    let b := settled (cellOf s cell) s.freeCount
    .done { cell := clearSlots mask (List.range 8) b.1, draws := b.2 } := rfl

theorem opEffect_statMax (s : State) (cell k v n : Nat) : opEffect s cell (.statMax k v n) =
    let b := settled (cellOf s cell) s.freeCount
    .done { cell := setSlot b.1 k (slotMax (slotOf b.1 k) ((vReg b.1 v).take n)), draws := b.2, opCounts := [(19, n)] } := rfl

theorem opEffect_statSum (s : State) (cell k v n : Nat) : opEffect s cell (.statSum k v n) =
    let b := settled (cellOf s cell) s.freeCount
    let x := slotSum (slotOf b.1 k) ((vReg b.1 v).take n)
    .done { cell := setSlot b.1 k x.1, raised := x.2, draws := b.2, opCounts := [(19, n)] } := rfl

theorem opEffect_statRead (s : State) (cell k v : Nat) : opEffect s cell (.statRead k v) =
    let b := settled (cellOf s cell) s.freeCount
    let x := slotRead (slotOf b.1 k)
    .done { cell := setV b.1 v x.1, raised := x.2, draws := b.2 } := rfl

/-! ### The maximum of a slot (R121) -/

theorem f32Max_nan_left (p : F32) : f32Max nan32 p = nan32 := f32Max_of_nan (.inl (by decide))

theorem foldl_f32Max_nan (l : List F32) : l.foldl f32Max nan32 = nan32 := by
  induction l with
  | nil => rfl
  | cons p t ih => rw [List.foldl_cons, f32Max_nan_left, ih]

theorem foldl_f32Max_of_nan {l : List F32} (h : ∃ p ∈ l, isNaN32 p = true) (m : F32) : l.foldl f32Max m = nan32 := by
  obtain ⟨p, hp, nan⟩ := h
  obtain ⟨before, after, rfl⟩ := List.append_of_mem hp
  rw [List.foldl_append, List.foldl_cons, f32Max_of_nan (.inr nan), foldl_f32Max_nan]

/-- What MAX leaves of a slot (R121): without lanes nothing changes. -/
theorem slotMax_eq (x : StatSlot) (l : List F32) :
    slotMax x l = { x with vmax := l.foldl f32Max x.vmax, maxSeen := x.maxSeen || !l.isEmpty } := by
  cases l <;> simp [slotMax]

/-- SUM changes no maximum. -/
theorem slotSum_vmax (x : StatSlot) (l : List F32) : (slotSum x l).1.vmax = x.vmax := by
  unfold slotSum
  dsimp only
  split
  · rfl
  · split
    · rfl
    · split
      · rfl
      · rfl
      · split <;> rfl

/-- Settles O8: each operation's effect on the cell that `settled` finds, `exec_writesSlots` and `exec_writesRegister` for what an issue
leaves of it, and the maximum with a NaN for what MAX leaves of a slot. -/
theorem statistics : Obligations.Statistics := by
  unfold Obligations.Statistics
  intro s cell k v n mask hk hv hn hn' c b lanes slots
  have found : SameRegisters c b := settled_sameRegisters c s.freeCount
  have ⟨keepsV, keepsAcc, keepsPc⟩ := found
  have sameRegs : ∀ j, vReg b j = vReg c j := fun j => congrArg (fun m => mget zeroLanes m j) keepsV
  have lanesFound : lanes = (vReg b v).take n := congrArg (List.take n) (sameRegs v).symm
  clear_value lanes
  subst lanesFound
  have okSlot : vOk k = true := decide_eq_true hk
  have okRead : (TileOp.statRead k v).ok = true := by rw [TileOp.ok, okSlot, hv]; rfl
  have okMax : (TileOp.statMax k v n).ok = true := by rw [TileOp.ok, okSlot, hv, decide_eq_true hn, decide_eq_true hn']; rfl
  have okSum : (TileOp.statSum k v n).ok = true := okMax
  refine ⟨?clr, ?max, ?sum, ?read, fun noFeeds => congrArg Prod.fst (settled_of_noFeeds noFeeds _),
    fun x l => ⟨slotMax_eq x l, fun nan => ?nan, fun held => ?sticky⟩⟩
  case clr =>
    have cleared : ∀ j, slotOf (clearSlots mask (List.range 8) b) j = if j < 8 ∧ bit mask.toNat j = true then StatSlot.reset else slotOf b j := by
      simp [slotOf_clearSlots]
    exact exec_writesSlots rfl rfl rfl (opEffect_statClr s cell mask) rfl found (clearSlots_slotsOnly ..) cleared
  case max => exact exec_writesSlots rfl okMax rfl (opEffect_statMax s cell k v n) rfl found ⟨_, rfl⟩ fun j => slotOf_setSlot ..
  case sum => exact exec_writesSlots rfl okSum rfl (opEffect_statSum s cell k v n) rfl found ⟨_, rfl⟩ fun j => slotOf_setSlot ..
  case read =>
    intro free
    obtain ⟨t, next, issued, register, hacc, hslots⟩ :=
      exec_writesRegister (i := .statRead cell k v) rfl okRead rfl (opEffect_statRead s cell k v) rfl rfl keepsPc free
    exact ⟨t, next, issued, hacc.trans keepsAcc, hslots, fun j => sameRegs j ▸ register j⟩
  case nan =>
    rw [slotMax_eq]
    exact foldl_f32Max_of_nan nan x.vmax
  case sticky =>
    rw [slotSum_vmax, slotMax_eq, held]
    exact ⟨foldl_f32Max_nan l, rfl⟩

end Sys2Proof.Machine
end

section
/-! PROOFS. The turn of a mover's queues (R171): where it stands at the prefetch queue, which a mover does not have, a transfer filed there
comes first and nothing of the list queue is issued. -/

namespace Sys2Proof.Machine

open Sys2Proof

/-- A task of a queue with a codec transfer (operation 1) from stack 0 still to issue, without a wait or a credit. -/
def codecTask (q : EngQueue) : Task :=
  { id := 0, q := q, desc := { raw := leBytes (2 ^ 60) 8 ++ List.replicate 56 0, generation := 0, context := 31, step := 0, tile := 0, misaligned := false }
    issued := 0, ended := 0, queuedWait := false, granted := false, counted := false, written := 0, lastSeq := none, cursor := 0, spillAt := 0
    spillEnd := false, creditWait := false, waitAt := {} }

/-- A mover with a codec transfer to issue in its list queue and none in its tile queue; another one is filed under the prefetch queue, at
which the turn stands. -/
def prefetchTurn : Eng := { tasks := [codecTask .list, codecTask .prefetch], turn := .prefetch }
def prefetchTurnUp : State := { State.reset with cells := [(4095, { mover := prefetchTurn })] }

/-- The queue of the turn comes first and can issue, so the list queue issues nothing. -/
theorem transferIssue_prefetchTurnUp : exec (.transferIssue (.mover 4095) .list []) prefetchTurnUp = .next prefetchTurnUp := rfl

/-- Refutes O16: its second clause asks for the issue without saying at which queue a mover's turn stands. The turn of `prefetchTurnUp`
stands at the prefetch queue, where no step of a module leaves it. -/
theorem not_descriptorsAndTransfers : ¬ Obligations.DescriptorsAndTransfers := by
  unfold Obligations.DescriptorsAndTransfers
  rintro ⟨-, issues, -⟩
  have onlyTask : (unissued (.mover 4095) (engOf prefetchTurnUp (.mover 4095)) .list).head? = some (codecTask .list) := by decide +kernel
  have otherEmpty : unissued (.mover 4095) (engOf prefetchTurnUp (.mover 4095)) (otherQueue .list) = [] := by decide +kernel
  obtain ⟨t, next, -, ⟨x, joined, -⟩, -⟩ := issues prefetchTurnUp (.mover 4095) .list (codecTask .list) [] (by decide)
    (fun _ => Engine.noConfusion) (fun _ _ => otherEmpty) onlyTask (by decide +kernel) (by decide +kernel) (by decide +kernel) (by decide +kernel)
    (by decide +kernel)
  rw [transferIssue_prefetchTurnUp] at next
  cases next
  exact absurd joined (by simp)

end Sys2Proof.Machine
end

section
/-! PROOFS. What the memory path leaves as it was (R18, R200, R209, R210, R283, R321, R323): accesses to the stacks through their caldera, to the
host and to the accounts of contexts change no cell, no cluster and no codec counter. -/

namespace Sys2Proof.Machine

open Sys2Proof

/-- The cells, the clusters and the codec counters: all that a streaming engine's work can be seen in. -/
def units (s : State) : SMap Cell × SMap Cluster × CodecCounts := (s.cells, s.clusters, s.codec)

theorem units_eq_iff {s t : State} : units t = units s ↔ t.cells = s.cells ∧ t.clusters = s.clusters ∧ t.codec = s.codec := by
  simp only [units, Prod.mk.injEq]

theorem units_foldl {α : Type} {f : State → α → State} (h : ∀ s a, units (f s a) = units s) (l : List α) (s : State) : units (l.foldl f s) = units s := by
  induction l generalizing s with
  | nil => rfl
  | cons a t ih => rw [List.foldl_cons, ih, h]

/-! ### Contexts and the host link -/

@[simp] theorem units_guardFault (s : State) (owner : Nat) : units (guardFault s owner) = units s := rfl

@[simp] theorem units_modCtx (s : State) (c : Nat) (f : Ctx → Ctx) : units (modCtx s c f) = units s := by
  unfold modCtx
  split <;> rfl

@[simp] theorem units_abortCtx (s : State) (c : Nat) (cause : AbortCause) : units (abortCtx s c cause) = units s := units_modCtx ..

@[simp] theorem units_abortRunning (s : State) (cause : AbortCause) : units (abortRunning s cause) = units s := by
  unfold abortRunning
  split
  · exact units_abortCtx ..
  · rfl

@[simp] theorem units_account (s : State) (c i n : Nat) : units (account s c i n) = units s := by
  unfold account
  split <;> rfl

@[simp] theorem units_charge (before s : State) (c : Nat) : units (charge before s c) = units s := by
  have add (x : State) (i n : Nat) : units (if n = 0 then x else account x c i n) = units x := by
    split
    · rfl
    · exact units_account ..
  unfold charge
  simp only [add, units_foldl, implies_true]

@[simp] theorem units_cacheTranslation (s : State) (owner addr n : Nat) (write : Bool) : units (cacheTranslation s owner addr n write) = units s := by
  unfold cacheTranslation
  split
  · split <;> rfl
  · rfl

/-! ### The viaduct and the stacks -/

@[simp] theorem units_crossing (s : State) (quarter fromDie toDie n : Nat) : units (crossing s quarter fromDie toDie n) = units s := by
  unfold crossing
  split <;> rfl

@[simp] theorem units_sentTo (s : State) (x : Actor) (cell n : Nat) : units (sentTo s x cell n) = units s := units_crossing ..
@[simp] theorem units_gotFrom (s : State) (x : Actor) (cell n : Nat) : units (gotFrom s x cell n) = units s := units_crossing ..
@[simp] theorem units_countStack (s : State) (k i n : Nat) : units (countStack s k i n) = units s := rfl

@[simp] theorem units_footRead (s : State) (line key : Nat) (errs : List (Nat × Byte)) : units (footRead s line key errs).1 = units s := by
  unfold footRead
  dsimp only
  split
  · rfl
  · split
    · rfl
    · rfl
    · split
      · rfl
      · dsimp only
        split <;> rfl

@[simp] theorem units_footWrite (s : State) (line key : Nat) (data : List Byte) (poison : Bool) : units (footWrite s line key data poison) = units s := by
  unfold footWrite
  dsimp only
  split <;> rfl

@[simp] theorem units_agentRead (s : State) (line : Nat) (errs : List (Nat × Byte)) : units (agentRead s line errs).1 = units s := by
  unfold agentRead
  dsimp only
  split <;> simp

@[simp] theorem units_agentWrite (s : State) (line : Nat) (data : List Byte) (poison : Bool) : units (agentWrite s line data poison) = units s := by
  unfold agentWrite
  dsimp only
  split <;> simp

/-! ### The caldera -/

@[simp] theorem units_setCalSet (s : State) (k : Nat) (x : CalSet) : units (setCalSet s k x) = units s := rfl
@[simp] theorem units_calDrop (s : State) (line : Nat) : units (calDrop s line) = units s := rfl
@[simp] theorem units_calPut (s : State) (l : CalLine) (recent : Bool) : units (calPut s l recent) = units s := rfl
@[simp] theorem units_calPutWritten (s : State) (l : CalLine) (hint : Nat) : units (calPutWritten s l hint) = units s := rfl
@[simp] theorem units_countSlice (s : State) (a i n : Nat) : units (countSlice s a i n) = units s := rfl
@[simp] theorem units_countMiss (s : State) (a : Nat) : units (countMiss s a) = units s := rfl
@[simp] theorem units_writeBack (s : State) (l : CalLine) : units (writeBack s l) = units s := units_agentWrite s l.line l.data l.poison

@[simp] theorem units_cleanLine (s : State) (l : CalLine) : units (cleanLine s l) = units s := by
  unfold cleanLine
  split <;> simp

@[simp] theorem units_calFill (s : State) (line owner : Nat) (keep dirty : Bool) (d : LineData) (recent : Bool) :
    units (calFill s line owner keep dirty d recent).1 = units s := by
  unfold calFill
  dsimp only
  split
  · rfl
  · split <;> simp

@[simp] theorem units_sramError (s : State) (line : Nat) (err : BitErr) : units (sramError s line err) = units s := by
  unfold sramError
  dsimp only
  split
  · rfl
  · split <;> rfl
  · rfl

@[simp] theorem units_dropGone (s : State) (line : Nat) : units (dropGone s line) = units s := by
  unfold dropGone
  split
  · dsimp only
    split <;> rfl
  · rfl

@[simp] theorem units_sliceRead (s : State) (line hint : Nat) (err : BitErr) : units (sliceRead s line hint err).1 = units s := by
  unfold sliceRead
  dsimp only
  split
  · exact units_dropGone ..
  · split
    · split
      · simp
      · split <;> simp
    · split <;> simp

@[simp] theorem units_sliceWrite (s : State) (addr hint : Nat) (bs : List Byte) (poison : Bool) : units (sliceWrite s addr hint bs poison) = units s := by
  unfold sliceWrite
  dsimp only
  split
  · simp
  · split
    · simp
    · split <;> split <;> simp

@[simp] theorem units_endClosing (s : State) : units (endClosing s) = units s := rfl

@[simp] theorem units_snoopLeave (s : State) (line : Nat) : units (snoopLeave s line) = units s := by
  unfold snoopLeave
  rw [units_endClosing, units_foldl fun _ _ => units_sliceWrite ..]
  rfl

@[simp] theorem units_behindHeld (s : State) (line : Nat) : units (behindHeld s line) = units s := by
  unfold behindHeld
  split <;> simp

@[simp] theorem units_classARead (s : State) (src : Source) (addr : Nat) (err : BitErr) : units (classARead s src addr err).1 = units s := by
  unfold classARead
  dsimp only
  split
  · rfl
  · split <;> simp

@[simp] theorem units_classAWrite (s : State) (src : Source) (addr : Nat) (bs : List Byte) (poison : Bool) :
    units (classAWrite s src addr bs poison).1 = units s := by
  unfold classAWrite
  split
  · rfl
  · split
    · rfl
    · simp

end Sys2Proof.Machine
end

section
/-! PROOFS. Engines while accesses are performed (R146, R155, R160, R163, R185, R188): no read and no write takes a transfer from its place, gives it
another task or entry, or takes back that it has moved or that an error was recorded. -/

namespace Sys2Proof.Machine

open Sys2Proof

/-- A transfer goes on: it keeps its task and its entry and, once it has moved, stays moved. -/
structure XferGoesOn (x w : Xfer) : Prop where
  task : w.task = x.task
  entry : w.entry = x.entry
  moved : x.moved = true → w.moved = true

theorem XferGoesOn.refl (x : Xfer) : XferGoesOn x x := ⟨rfl, rfl, id⟩

theorem XferGoesOn.trans {x w z : Xfer} (h : XferGoesOn x w) (h' : XferGoesOn w z) : XferGoesOn x z :=
  ⟨h'.task.trans h.task, h'.entry.trans h.entry, h'.moved ∘ h.moved⟩

/-- An engine goes on: its error records grow in number at most, and each transfer goes on in its place. -/
structure EngGoesOn (y z : Eng) : Prop where
  errors : y.errTotal ≤ z.errTotal
  transfers : ∀ (i : Nat) (x : Xfer), y.xfers[i]? = some x → ∃ w, z.xfers[i]? = some w ∧ XferGoesOn x w

theorem EngGoesOn.refl (y : Eng) : EngGoesOn y y := ⟨Nat.le_refl _, fun _ x h => ⟨x, h, .refl x⟩⟩

theorem EngGoesOn.trans {x y z : Eng} (h : EngGoesOn x y) (h' : EngGoesOn y z) : EngGoesOn x z where
  errors := Nat.le_trans h.errors h'.errors
  transfers := fun i a ha => by
    obtain ⟨b, hb, on⟩ := h.transfers i a ha
    obtain ⟨c, hc, on'⟩ := h'.transfers i b hb
    exact ⟨c, hc, on.trans on'⟩

/-- An engine with the transfers and the records it had. -/
theorem EngGoesOn.of_eq {y z : Eng} (transfers : z.xfers = y.xfers) (errors : z.errTotal = y.errTotal) : EngGoesOn y z :=
  ⟨Nat.le_of_eq errors.symm, fun _ x h => ⟨x, transfers ▸ h, .refl x⟩⟩

theorem xfers_modXfer (y : Eng) (i : Nat) (f : Xfer → Xfer) (j : Nat) :
    (modXfer y i f).xfers[j]? = (y.xfers[j]?).map (fun x => if j = i then f x else x) := by
  simp only [modXfer, List.getElem?_map, List.getElem?_zipIdx, Option.map_map]
  congr 1
  funext x
  simp

theorem EngGoesOn.modXfer {f : Xfer → Xfer} (h : ∀ x, XferGoesOn x (f x)) (y : Eng) (i : Nat) : EngGoesOn y (modXfer y i f) where
  errors := Nat.le_refl _
  transfers := fun j x hx => by
    rw [xfers_modXfer, hx]
    refine ⟨_, rfl, ?_⟩
    split
    · exact h x
    · exact .refl x

/-- Engines and expanders go on between two states. -/
structure GoesOn (s t : State) : Prop where
  engines : ∀ e, EngGoesOn (engOf s e) (engOf t e)
  lanes : ∀ n, (clusterOf t n).expProgress = (clusterOf s n).expProgress

/-- They go on, and the codec counts nothing: the mark of every access and of what follows it. -/
structure Performs (s t : State) : Prop extends GoesOn s t where
  counts : t.codec = s.codec

theorem GoesOn.refl (s : State) : GoesOn s s := ⟨fun _ => .refl _, fun _ => rfl⟩

theorem GoesOn.trans {s t u : State} (h : GoesOn s t) (h' : GoesOn t u) : GoesOn s u :=
  ⟨fun e => (h.engines e).trans (h'.engines e), fun n => (h'.lanes n).trans (h.lanes n)⟩

theorem Performs.refl (s : State) : Performs s s := ⟨.refl s, rfl⟩

theorem Performs.trans {s t u : State} (h : Performs s t) (h' : Performs t u) : Performs s u :=
  ⟨h.toGoesOn.trans h'.toGoesOn, h'.counts.trans h.counts⟩

theorem Performs.foldl {α : Type} {f : State → α → State} (h : ∀ s a, Performs s (f s a)) (l : List α) (s : State) : Performs s (l.foldl f s) := by
  induction l generalizing s with
  | nil => exact .refl s
  | cons a t ih => exact (h s a).trans (ih (f s a))

/-- The same for a run that carries something beside the state. -/
theorem Performs.foldl_fst {α β : Type} {f : State × β → α → State × β} (h : ∀ a c, Performs a.1 (f a c).1) (l : List α) (a : State × β) :
    Performs a.1 (l.foldl f a).1 := by
  induction l generalizing a with
  | nil => exact .refl a.1
  | cons c t ih => exact (h a c).trans (ih (f a c))

/-! ### Updates of the state -/

theorem engOf_congr {s t : State} (cells : t.cells = s.cells) (clusters : t.clusters = s.clusters) (e : Engine) : engOf t e = engOf s e := by
  cases e <;> simp only [engOf, cellOf, clusterOf, cells, clusters]

theorem clusterOf_congr {s t : State} (clusters : t.clusters = s.clusters) (n : Nat) : clusterOf t n = clusterOf s n :=
  congrArg (fun m => mget Cluster.reset m n) clusters

theorem GoesOn.of_clusters {s t : State} (cells : t.cells = s.cells) (clusters : t.clusters = s.clusters) : GoesOn s t :=
  ⟨fun e => engOf_congr cells clusters e ▸ .refl _, fun n => by rw [clusterOf_congr clusters]⟩

theorem Performs.of_units {s t : State} (h : units t = units s) : Performs s t := by
  obtain ⟨cells, clusters, codec⟩ := units_eq_iff.1 h
  exact ⟨.of_clusters cells clusters, codec⟩

theorem performs_guardFault (s : State) (owner : Nat) : Performs s (guardFault s owner) := .of_units (units_guardFault ..)

theorem performs_setCell {s : State} {c : Nat} {x : Cell} (h : EngGoesOn (cellOf s c).mover x.mover) : Performs s (setCell s c x) := by
  refine ⟨⟨fun e => ?_, fun _ => rfl⟩, rfl⟩
  cases e with
  | mover k =>
    simp only [engOf, cellOf_setCell]
    split
    next same => exact same ▸ h
    next => exact .refl _
  | gather n => exact .refl _
  | packer n => exact .refl _

/-- A change of a cell that leaves its mover as it was. -/
theorem performs_modCell {s : State} {c : Nat} {f : Cell → Cell} (h : (f (cellOf s c)).mover = (cellOf s c).mover) : Performs s (modCell s c f) :=
  performs_setCell (h ▸ .refl _)

/-- What a cluster's change keeps of it, it keeps of every cluster. -/
theorem modCluster_rel {R : Cluster → Cluster → Prop} (refl : ∀ x, R x x) {s : State} {n : Nat} {f : Cluster → Cluster}
    (h : R (clusterOf s n) (f (clusterOf s n))) (k : Nat) : R (clusterOf s k) (clusterOf (modCluster s n f) k) := by
  rw [clusterOf_modCluster]
  split
  next same => exact same ▸ h
  next => exact refl _

theorem performs_modCluster {s : State} {n : Nat} {f : Cluster → Cluster} (gather : EngGoesOn (clusterOf s n).gather (f (clusterOf s n)).gather)
    (packer : EngGoesOn (clusterOf s n).packer (f (clusterOf s n)).packer) (lanes : (f (clusterOf s n)).expProgress = (clusterOf s n).expProgress) :
    Performs s (modCluster s n f) := by
  refine ⟨⟨fun e => ?_, modCluster_rel (R := fun x y => y.expProgress = x.expProgress) (fun _ => rfl) lanes⟩, rfl⟩
  cases e with
  | mover c => exact .refl _
  | gather k => exact modCluster_rel (R := fun x y => EngGoesOn x.gather y.gather) (fun _ => .refl _) gather k
  | packer k => exact modCluster_rel (R := fun x y => EngGoesOn x.packer y.packer) (fun _ => .refl _) packer k

theorem performs_setEng {s : State} {e : Engine} {y : Eng} (h : EngGoesOn (engOf s e) y) : Performs s (setEng s e y) := by
  cases e with
  | mover c => exact performs_setCell h
  | gather n => exact performs_modCluster (f := fun x => { x with gather := y }) h (.refl _) rfl
  | packer n => exact performs_modCluster (f := fun x => { x with packer := y }) (.refl _) h rfl

theorem performs_modEng {s : State} {e : Engine} {f : Eng → Eng} (h : EngGoesOn (engOf s e) (f (engOf s e))) : Performs s (modEng s e f) :=
  performs_setEng h

theorem performs_countCell (s : State) (c i n : Nat) : Performs s (countCell s c i n) := performs_modCell rfl
theorem performs_countErr (s : State) (cluster i n : Nat) : Performs s (countErr s cluster i n) := performs_modCluster (.refl _) (.refl _) rfl
theorem performs_countOp (s : State) (cluster i n : Nat) : Performs s (countOp s cluster i n) := performs_modCluster (.refl _) (.refl _) rfl

/-! ### The windows -/

theorem spWrite_mover (c : Cell) (o : Nat) (bs : List Byte) (poison : Bool) : (spWrite c o bs poison).mover = c.mover := by
  unfold spWrite
  generalize pieces (bs.length / rowBytes + 2) o bs = l
  induction l generalizing c with
  | nil => rfl
  | cons e t ih => exact ih _

theorem SettledFrom.mover {c d : Cell} (h : SettledFrom c d) : d.mover = c.mover := by
  obtain ⟨_, _, _, rfl⟩ := h
  rfl

theorem postSem_mover (c : Cell) (j inc : Nat) : (postSem c j inc).mover = c.mover := by
  unfold postSem
  dsimp only
  split
  · rfl
  · split <;> rfl

theorem addCredit_mover (c : Cell) (j u : Nat) : (addCredit c j u).mover = c.mover := by
  unfold addCredit
  dsimp only
  split <;> rfl

theorem performs_rowError (s : State) (cell row : Nat) (err : BitErr) : Performs s (rowError s cell row err) := by
  unfold rowError
  split
  · exact .refl s
  · exact Performs.trans (performs_modCell rfl) (performs_countErr ..)
  · exact performs_modCell rfl

theorem performs_strikeRows (s : State) (cell : Nat) (rows : List Nat) (errs : RowErrs) : Performs s (strikeRows s cell rows errs) := by
  unfold strikeRows
  exact .foldl (fun _ _ => performs_rowError ..) _ s

theorem performs_settleSpan (s : State) (cell o n : Nat) : Performs s (settleSpan s cell o n) := by
  have counted (m : Nat) : Performs s { s with freeCount := m } := .of_units rfl
  refine (counted _).trans (performs_setCell ?_)
  exact (settleRows_settledFrom none (rowSpan o n) s.freeCount (cellOf s cell)).mover ▸ .refl _

theorem performs_sameRow (s : State) (cell o n : Nat) : Performs s (sameRow s cell o n) := by
  unfold sameRow
  dsimp only
  split
  · refine .foldl (fun s _ => ?_) _ s
    have counted : Performs s (modCell s cell (fun c => { c with sameRow := (c.sameRow + Config.pick s.freeCount % 2) % 2 ^ 32 })) := performs_modCell rfl
    exact counted.trans (.of_units rfl)
  · exact .refl s

theorem performs_windowRefused {s t : State} {x : Actor} {cell o n : Nat} {write : Bool} (h : windowRefused s x cell o n write = some t) : Performs s t := by
  unfold windowRefused at h
  split at h
  · cases h
  · split at h
    · cases h
      exact performs_guardFault ..
    · split at h
      · cases h
      · cases h
        exact performs_modCell rfl

theorem performs_windowPut (s : State) (x : Actor) (cell o : Nat) (bs : List Byte) (poison : Bool) : Performs s (windowPut s x cell o bs poison).1 := by
  unfold windowPut
  split
  next t refused => exact performs_windowRefused refused
  next =>
    have written : Performs s (modCell (settleSpan (sameRow s cell o bs.length) cell o bs.length) cell (fun c => spWrite c o bs poison)) :=
      ((performs_sameRow ..).trans (performs_settleSpan ..)).trans (performs_modCell (spWrite_mover ..))
    dsimp only
    refine Performs.trans ?_ (.of_units (units_sentTo ..))
    split
    · exact written
    · exact (written.trans (performs_countCell ..)).trans (.of_units (units_account ..))

theorem performs_windowGet (s : State) (x : Actor) (cell o n : Nat) (errs : RowErrs) : Performs s (windowGet s x cell o n errs).1 := by
  unfold windowGet
  split
  next t refused => exact performs_windowRefused refused
  next =>
    have settled : Performs s (settleSpan (strikeRows s cell (rowSpan o n) errs) cell o n) := (performs_strikeRows ..).trans (performs_settleSpan ..)
    dsimp only
    refine Performs.trans ?_ (.of_units (units_gotFrom ..))
    split
    · exact settled
    · exact settled.trans (performs_countCell ..)

/-! ### The control space -/

theorem performs_applyPost (s : State) (cell j inc : Nat) : Performs s (applyPost s cell j inc) := by
  have posted : Performs s (modCell s cell (fun c => postSem c j inc)) := performs_modCell (postSem_mover ..)
  unfold applyPost
  dsimp only
  split
  · exact posted.trans (.of_units (units_abortRunning ..))
  · exact posted

theorem performs_applyCredit (s : State) (cell j u : Nat) : Performs s (applyCredit s cell j u) := by
  have added : Performs s (modCell s cell (fun c => addCredit c j u)) := performs_modCell (addCredit_mover ..)
  unfold applyCredit
  dsimp only
  split
  · exact added.trans (.of_units (units_abortRunning ..))
  · exact added

theorem performs_semAdd (s : State) (x : Actor) (cell j inc : Nat) : Performs s (semAdd s x cell j inc).1 := by
  unfold semAdd
  split
  · exact performs_guardFault ..
  · exact Performs.trans (.of_units (units_sentTo ..)) (performs_applyPost ..)

theorem performs_creditPut (s : State) (x : Actor) (cell j u : Nat) : Performs s (creditPut s x cell j u).1 := by
  unfold creditPut
  split
  · exact performs_guardFault ..
  · exact Performs.trans (.of_units (units_sentTo ..)) (performs_applyCredit ..)

theorem performs_mailboxPut (s : State) (x : Actor) (cell o : Nat) (bs : List Byte) (poison : Bool) : Performs s (mailboxPut s x cell o bs poison).1 := by
  unfold mailboxPut
  split
  · exact performs_guardFault ..
  · split
    · exact .refl s
    · dsimp only
      exact Performs.trans (.of_units (units_sentTo ..)) (performs_modCell rfl)

theorem performs_engReadMarks (s : State) (e : Engine) (o n : Nat) (clear : Bool) : Performs s (modEng s e (fun y => engReadMarks y o n clear)) :=
  performs_modEng (.of_eq rfl rfl)

theorem performs_mailboxGet (s : State) (cell o n : Nat) : Performs s (mailboxGet s cell o n).1 := by
  unfold mailboxGet
  dsimp only
  split
  · exact .refl s
  · split
    · dsimp only
      exact performs_engReadMarks ..
    · split
      · dsimp only
        exact performs_engReadMarks ..
      · exact .refl s

theorem performs_fumarolePut (s : State) (x : Actor) (addr : Nat) (bs : List Byte) (poison : Bool) : Performs s (fumarolePut s x addr bs poison).1 := by
  unfold fumarolePut
  split
  · exact performs_windowPut ..
  · exact performs_mailboxPut ..
  · split
    · exact performs_guardFault ..
    · split
      · exact .refl s
      · exact performs_semAdd ..
  · split
    · exact performs_guardFault ..
    · split
      · exact .refl s
      · exact performs_creditPut ..
  · exact performs_guardFault ..

theorem performs_fumaroleGet (s : State) (x : Actor) (addr n : Nat) (errs : RowErrs) : Performs s (fumaroleGet s x addr n errs).1 := by
  unfold fumaroleGet
  dsimp only
  split
  · exact performs_windowGet ..
  · split
    · exact (performs_mailboxGet ..).trans (.of_units (units_gotFrom ..))
    · exact performs_guardFault ..
  · split
    · exact performs_guardFault ..
    · exact .of_units (units_gotFrom ..)
  · split
    · exact performs_guardFault ..
    · exact .of_units (units_gotFrom ..)
  · exact performs_guardFault ..

/-! ### Reads and writes of an engine -/

theorem performs_readAt (s : State) (x : Actor) (a n : Nat) (errs : RowErrs) : Performs s (readAt s x a n errs).1 := by
  unfold readAt
  split
  · exact .of_units (units_classARead ..)
  · exact performs_windowGet ..
  · split
    · exact (performs_mailboxGet ..).trans (.of_units (units_gotFrom ..))
    · exact performs_guardFault ..
  · split
    · exact .of_units (units_cacheTranslation ..)
    · exact performs_guardFault ..
  · exact performs_guardFault ..

theorem performs_writeAt (s : State) (x : Actor) (a : Nat) (bs : List Byte) (poison : Bool) : Performs s (writeAt s x a bs poison).1 := by
  unfold writeAt
  split
  · exact .of_units (units_classAWrite ..)
  · exact performs_windowPut ..
  · exact performs_mailboxPut ..
  · exact performs_guardFault ..

end Sys2Proof.Machine
end

section
/-! PROOFS. Transfers while their accesses are performed (R157, R188, R190, R246, Table 8-9): failures, stops and sweeps let every engine go on,
and a stopped transfer has moved. -/

namespace Sys2Proof.Machine

open Sys2Proof

/-! ### Failures -/

theorem failTask_goesOn (y : Eng) (id : Nat) : EngGoesOn y (failTask y id) := by
  unfold failTask
  split
  · exact .of_eq rfl rfl
  · exact .refl y

/-- A new error record changes what an engine has recorded, and its total by one. -/
theorem recordError_spec (s : State) (e : Engine) (q : EngQueue) (x : QDesc) (status entry addr : Nat) :
    Performs s (recordError s e q x status entry addr) ∧ (engOf s e).errTotal < (engOf (recordError s e q x status entry addr) e).errTotal := by
  unfold recordError
  dsimp only
  have counted {y : Eng} : Performs (setEng s e y) (countErr (setEng s e y) (engCluster e) 5 1) := performs_countErr ..
  constructor
  · refine Performs.trans (performs_setEng ?_) counted
    exact ⟨Nat.le_succ _, fun _ x h => ⟨x, h, .refl x⟩⟩
  refine Nat.lt_of_lt_of_le ?_ (counted.engines e).errors
  rw [engOf_setEng_self]
  exact Nat.lt_succ_self _

theorem performs_abortCtx (s : State) (c : Nat) (cause : AbortCause) : Performs s (abortCtx s c cause) := .of_units (units_abortCtx ..)

theorem performs_failTask (s : State) (e : Engine) (id : Nat) : Performs s (modEng s e (fun y => failTask y id)) := performs_modEng (failTask_goesOn ..)

theorem performs_failXfer (s : State) (e : Engine) (x : Xfer) (status addr : Nat) : Performs s (failXfer s e x status addr) := by
  have failed := (recordError_spec s e x.q x.desc status x.entry addr).1.trans (performs_failTask _ e x.task)
  unfold failXfer
  dsimp only
  split
  · exact .refl s
  · split
    · exact failed.trans (performs_abortCtx ..)
    · exact failed

/-- The failure of a transfer that was not cancelled is recorded (R188, R189). -/
theorem errTotal_failXfer {s : State} {e : Engine} {x : Xfer} (h : x.cancelled = false) (status addr : Nat) :
    (engOf s e).errTotal < (engOf (failXfer s e x status addr) e).errTotal := by
  have recorded := (recordError_spec s e x.q x.desc status x.entry addr).2
  have failed := Nat.lt_of_lt_of_le recorded ((performs_failTask _ e x.task).engines e).errors
  unfold failXfer
  simp only [h, Bool.false_eq_true, if_false]
  split
  · exact Nat.lt_of_lt_of_le failed ((performs_abortCtx ..).engines e).errors
  · exact failed

theorem performs_modXfer {f : Xfer → Xfer} (h : ∀ x, XferGoesOn x (f x)) (s : State) (e : Engine) (i : Nat) :
    Performs s (modEng s e (fun y => modXfer y i f)) :=
  performs_modEng (.modXfer h _ i)

theorem performs_stopXfer (s : State) (e : Engine) (i : Nat) (x : Xfer) (status addr : Nat) : Performs s (stopXfer s e i x status addr) :=
  Performs.trans (performs_failXfer ..) (performs_modXfer (by exact fun _ => ⟨rfl, rfl, fun _ => rfl⟩) ..)

theorem performs_poisonXfer (s : State) (e : Engine) (i : Nat) (x : Xfer) (addr : Nat) : Performs s (poisonXfer s e i x addr) := by
  unfold poisonXfer
  split
  · exact .refl s
  · exact Performs.trans (performs_failXfer ..) (performs_modXfer (by exact fun _ => ⟨rfl, rfl, id⟩) ..)

/-! ### Accesses -/

theorem performs_setWork (s : State) (e : Engine) (i j : Nat) (ws : List Work) : Performs s (modEng s e (fun y => modXfer y i (setWork j ws))) :=
  performs_modXfer (by exact fun _ => ⟨rfl, rfl, id⟩) ..

theorem performs_readWork (s : State) (e : Engine) (x : Xfer) (src n : Nat) (errs : RowErrs) : Performs s (readWork s e x src n errs).1 := by
  unfold readWork
  dsimp only
  split
  · exact performs_fumaroleGet ..
  · exact performs_readAt ..

theorem performs_countMover (s : State) (e : Engine) (dst n : Nat) : Performs s (countMover s e dst n) := by
  unfold countMover
  split
  · split
    · split
      · exact performs_countCell ..
      · exact performs_countCell ..
    · exact performs_countCell ..
  · exact .refl s

theorem performs_putWork (s : State) (e : Engine) (i : Nat) (x : Xfer) (j src dst n : Nat) (errs : RowErrs) :
    Performs s (putWork s e i x j src dst n errs) := by
  unfold putWork
  dsimp only
  generalize reads : List.foldl _ (s, ([], false, 0)) _ = r
  have read : Performs s r.1 := by
    rw [← reads]
    refine Performs.foldl_fst (fun _ _ => ?_) _ (s, ([], false, 0))
    exact performs_readAt ..
  split
  · exact read.trans (performs_stopXfer ..)
  · split
    · exact (read.trans (performs_stopXfer ..)).trans (performs_abortCtx ..)
    · have put (bs : List Byte) := read.trans (performs_fumarolePut r.1 (actorOf s e x.desc) dst bs false)
      split
      · exact (put _).trans (performs_stopXfer ..)
      · exact ((put _).trans (performs_countMover ..)).trans (performs_setWork ..)

theorem performs_performWork (s : State) (e : Engine) (i : Nat) (x : Xfer) (j : Nat) (errs : RowErrs) (w : Work) :
    Performs s (performWork s e i x j errs w) := by
  cases w with
  | read src dst n =>
    have read := performs_readWork s e x src n errs
    simp only [performWork]
    split
    · exact read.trans (performs_stopXfer ..)
    · split
      · exact (read.trans (performs_poisonXfer ..)).trans (performs_setWork ..)
      · exact read.trans (performs_setWork ..)
  | write dst bs p =>
    simp only [performWork]
    generalize (if isPut e x = true then (actorOf s e x.desc).onCtl else actorOf s e x.desc) = act
    have written := performs_writeAt s act dst bs p
    split
    · exact written.trans (performs_stopXfer ..)
    · exact Performs.trans (written.trans (performs_countMover ..)) (performs_modXfer (by exact fun _ => ⟨rfl, rfl, id⟩) ..)
  | put src dst n => exact performs_putWork ..

/-! ### Sweeps -/

theorem performs_sweep (e : Engine) (i : Nat) (all : Bool) (errs : RowErrs) (fuel j : Nat) (s : State) : Performs s (sweep e i all errs fuel j s) := by
  induction fuel generalizing j s with
  | zero => exact .refl s
  | succ fuel ih =>
    have drawn : Performs s { s with freeCount := s.freeCount + 1 } := .of_units rfl
    unfold sweep
    split
    · exact .refl s
    · split
      · exact .refl s
      · split
        · exact ih ..
        · split
          · exact (performs_performWork ..).trans (ih ..)
          · dsimp only
            split
            · exact (drawn.trans (performs_performWork ..)).trans (ih ..)
            · exact drawn.trans (ih ..)

theorem performs_sweepXfer (s : State) (e : Engine) (i : Nat) (all : Bool) (errs : RowErrs) : Performs s (sweepXfer s e i all errs) := by
  unfold sweepXfer
  split
  · exact performs_sweep ..
  · exact .refl s

/-! ### Changes of one transfer -/

theorem xfers_modXfer_self {s : State} {e : Engine} {i : Nat} {x : Xfer} (hx : (engOf s e).xfers[i]? = some x) (f : Xfer → Xfer) :
    (engOf (modEng s e (fun y => modXfer y i f)) e).xfers[i]? = some (f x) := by
  rw [engOf_modEng_self, xfers_modXfer, hx]
  simp

theorem lanes_modEng (s : State) (e : Engine) (f : Eng → Eng) (n : Nat) : (clusterOf (modEng s e f) n).expProgress = (clusterOf s n).expProgress := by
  cases e with
  | mover c => rfl
  | gather k => exact modCluster_rel (R := fun x y => y.expProgress = x.expProgress) (fun _ => rfl) rfl n
  | packer k => exact modCluster_rel (R := fun x y => y.expProgress = x.expProgress) (fun _ => rfl) rfl n

theorem codec_modEng (s : State) (e : Engine) (f : Eng → Eng) : (modEng s e f).codec = s.codec := by
  cases e <;> rfl

/-- Between two states the transfer at an index, if there is one, has moved. -/
structure Moves (e : Engine) (i : Nat) (s t : State) : Prop where
  transfer : ∀ x : Xfer, (engOf s e).xfers[i]? = some x → ∃ w : Xfer, (engOf t e).xfers[i]? = some w ∧ w.task = x.task ∧ w.moved = true

theorem GoesOn.moves {e : Engine} {i : Nat} {s t u : State} (h : GoesOn s t) (m : Moves e i t u) : Moves e i s u where
  transfer := fun x hx => by
    obtain ⟨w, hw, on⟩ := (h.engines e).transfers i x hx
    obtain ⟨z, hz, task, moved⟩ := m.transfer w hw
    exact ⟨z, hz, task.trans on.task, moved⟩

theorem Moves.goesOn {e : Engine} {i : Nat} {s t u : State} (m : Moves e i s t) (h : GoesOn t u) : Moves e i s u where
  transfer := fun x hx => by
    obtain ⟨w, hw, task, moved⟩ := m.transfer x hx
    obtain ⟨z, hz, on⟩ := (h.engines e).transfers i w hw
    exact ⟨z, hz, on.task.trans task, on.moved moved⟩

theorem moves_modXfer {f : Xfer → Xfer} (h : ∀ x, (f x).task = x.task ∧ (f x).moved = true) (s : State) (e : Engine) (i : Nat) :
    Moves e i s (modEng s e (fun y => modXfer y i f)) :=
  ⟨fun x hx => ⟨f x, xfers_modXfer_self hx f, h x⟩⟩

/-- A transfer that is stopped has moved. -/
theorem moves_stopXfer (s : State) (e : Engine) (i : Nat) (x : Xfer) (status addr : Nat) : Moves e i s (stopXfer s e i x status addr) :=
  GoesOn.moves (performs_failXfer s e x status addr).toGoesOn (moves_modXfer (by exact fun _ => ⟨rfl, rfl⟩) ..)

end Sys2Proof.Machine
end

section
/-! PROOFS. The expander at work (R179, R224, R234 to R236): the block it reads, what it counts and what it leaves of the transfer. -/

namespace Sys2Proof.Machine

open Sys2Proof

/-! ### Reading a block -/

theorem performs_readLines (x : Actor) (n : Nat) (s : State) (a : Nat) : Performs s (readLines x n s a).1 := by
  induction n generalizing s a with
  | zero => exact .refl s
  | succ n ih =>
    have read := performs_readAt s x a 128 []
    unfold readLines
    dsimp only
    split
    · exact read
    · exact read.trans (ih ..)

theorem performs_readBlock (s : State) (x : Actor) (a : Nat) : Performs s (readBlock s x a).1 := by
  have read := performs_readAt s x a 128 []
  unfold readBlock
  dsimp only
  split
  · exact read
  · split
    · exact read
    · split
      · exact read
      · exact read.trans (performs_readLines ..)

/-! ### What a block counts -/

theorem goesOn_countBlock (s : State) (cluster lines : Nat) (out : BlockOut) (mode : Nat) : GoesOn s (countBlock s cluster lines out mode) := by
  have bytes (c : CodecCounts) (read wrote : Nat) : GoesOn s (countOp (countOp { s with codec := c } cluster 29 read) cluster 28 wrote) :=
    GoesOn.trans (t := { s with codec := c }) (.of_clusters rfl rfl) ((performs_countOp ..).trans (performs_countOp ..)).toGoesOn
  unfold countBlock
  dsimp only
  split
  · exact (bytes ..).trans (Performs.toGoesOn (performs_countOp ..))
  · exact bytes ..

theorem decoded_countBlock (s : State) (cluster lines : Nat) (out : BlockOut) (mode : Nat) :
    (countBlock s cluster lines out mode).codec.decoded = s.codec.decoded + b2n (decide (out.status = 0)) := by
  unfold countBlock
  dsimp only
  split <;> rfl

theorem goesOn_countCodec (s : State) (status : Nat) (miss : Bool) : GoesOn s (countCodec s status miss) := .of_clusters rfl rfl

/-- A failure is counted as what it is, not as decoded. -/
theorem decoded_countCodec (s : State) (status : Nat) (miss : Bool) : (countCodec s status miss).codec.decoded = s.codec.decoded := by
  unfold countCodec
  dsimp only
  repeat' split
  all_goals rfl

/-- A block that an expander has read: counted, and recorded where it fails and its transfer was not cancelled. -/
def countRead (s : State) (e : Engine) (x : Xfer) (out : BlockOut) (lines mode src : Nat) : State :=
  let s1 := countBlock s (engCluster e) lines out mode
  if decide (out.status ≠ 0) && !x.cancelled then failXfer (countCodec s1 out.status out.miss) e x out.status src else s1

theorem countRead_spec (s : State) (e : Engine) (x : Xfer) (out : BlockOut) (lines mode src : Nat) :
    GoesOn s (countRead s e x out lines mode src)
      ∧ (countRead s e x out lines mode src).codec.decoded = s.codec.decoded + b2n (decide (out.status = 0))
      ∧ (out.status ≠ 0 → x.cancelled = false → (engOf s e).errTotal < (engOf (countRead s e x out lines mode src) e).errTotal) := by
  have counted := goesOn_countBlock s (engCluster e) lines out mode
  have decoded := decoded_countBlock s (engCluster e) lines out mode
  unfold countRead
  dsimp only
  split
  next bad =>
    have failing := counted.trans (goesOn_countCodec _ out.status out.miss)
    have failed := performs_failXfer (countCodec (countBlock s (engCluster e) lines out mode) out.status out.miss) e x out.status src
    refine ⟨failing.trans failed.toGoesOn, ?_, fun _ going => Nat.lt_of_le_of_lt (failing.engines e).errors (errTotal_failXfer going ..)⟩
    rw [failed.counts, decoded_countCodec, decoded]
  next sound =>
    refine ⟨counted, decoded, fun bad going => ?_⟩
    simp [bad, going] at sound

/-! ### The transfer -/

/-- What a decoded block leaves of its transfer: it has moved, as a transfer of one block has in any case, or has come to its next block. -/
def BlockPassed (one : Prop) (x y : Xfer) : Prop := y.task = x.task ∧ (y.moved = true ∨ y.entry = x.entry + 1) ∧ (one → y.moved = true)

theorem BlockPassed.goesOn {one : Prop} {x y z : Xfer} (h : BlockPassed one x y) (on : XferGoesOn y z) : BlockPassed one x z := by
  obtain ⟨task, moved | entry, last⟩ := h
  · exact ⟨on.task.trans task, .inl (on.moved moved), on.moved ∘ last⟩
  · exact ⟨on.task.trans task, .inr (on.entry.trans entry), on.moved ∘ last⟩

theorem XferGoesOn.passed {one : Prop} {x y z : Xfer} (on : XferGoesOn x y) (h : BlockPassed one y z) : BlockPassed one x z := by
  obtain ⟨task, moved, last⟩ := h
  exact ⟨task.trans on.task, on.entry ▸ moved, last⟩

/-- The next block of a codec transfer: its address, the block as it is read, and how it turns out. -/
def nextAddr (e : Engine) (x : Xfer) (t : Task) : Nat := if (descOf e x.desc.raw).op = 2 then x.src else t.cursor
def nextRead (s : State) (e : Engine) (x : Xfer) (t : Task) : State × BlockRead := readBlock s (actorOf s e x.desc) (nextAddr e x t)
def nextOut (s : State) (e : Engine) (x : Xfer) (t : Task) : BlockOut :=
  let d := descOf e x.desc.raw
  judgeBlock (tablesOf s x.desc.context) (nextRead s e x t).2 (decide (d.op = 2)) (if d.op = 2 then d.length else d.length - t.written)
    (if d.op = 2 then none else t.lastSeq)

/-- A block that the guard refuses stops its transfer. -/
theorem decodeNext_denied {s : State} {e : Engine} {i : Nat} {x : Xfer} {t : Task} {a : Nat} (h : (nextRead s e x t).2.denied = some a) :
    decodeNext s e i x t = stopXfer (nextRead s e x t).1 e i x stNotPermitted a := by
  simp only [decodeNext, decide_eq_true_eq]
  simp only [nextRead, nextAddr] at h ⊢
  rw [h]

/-- A block that was read: it is counted as decoded where it passes the checks and recorded where it fails; then its transfer passes on and
some of its accesses are performed. -/
theorem decodeNext_read {s : State} {e : Engine} {x : Xfer} {t : Task} (i : Nat) (h : (nextRead s e x t).2.denied = none) :
    ∃ u f, decodeNext s e i x t = sweepXfer (modEng u e (fun y => modXfer y i f)) e i false []
      ∧ GoesOn s u ∧ u.codec.decoded = s.codec.decoded + b2n (decide ((nextOut s e x t).status = 0))
      ∧ ((nextOut s e x t).status ≠ 0 → x.cancelled = false → (engOf s e).errTotal < (engOf u e).errTotal)
      ∧ ∀ w, BlockPassed ((descOf e x.desc.raw).op = 2) w (f w) := by
  unfold decodeNext
  extract_lets d act tabs one src room dst
  have addr : src = nextAddr e x t := by simp only [src, one, decide_eq_true_eq, nextAddr, d]
  split
  next s1 b hr =>
  have found : nextRead s e x t = (s1, b) := by rw [nextRead, ← addr]; exact hr
  have read : Performs s s1 := by
    have := performs_readBlock s act src
    rwa [hr] at this
  rw [found] at h
  extract_lets lines
  split
  next a denied => cases h.symm.trans denied
  next out hdr s2 bad span s3 last s4 s5 _ _ =>
  have judged : out = nextOut s e x t := by simp only [out, nextOut, found, room, one, decide_eq_true_eq, tabs, d]
  obtain ⟨noted, decoded, failed⟩ := countRead_spec s1 e x out lines hdr.mode src
  have passed : Performs s3 s4 := Performs.trans (t := { s3 with freeCount := s3.freeCount + 1 }) (.of_units rfl) (performs_modEng (.of_eq rfl rfl))
  rw [← judged]
  refine ⟨s4, _, rfl, (read.toGoesOn.trans noted).trans passed.toGoesOn, ?decoded, fun wrong going => ?failed, fun w => ⟨rfl, ?step, ?last⟩⟩
  case decoded => rw [passed.counts, ← read.counts]; exact decoded
  case failed =>
    calc (engOf s e).errTotal ≤ (engOf s1 e).errTotal := (read.engines e).errors
      _ < (engOf s3 e).errTotal := failed wrong going
      _ ≤ (engOf s4 e).errTotal := (passed.engines e).errors
  case step =>
    by_cases single : d.op = 2
    · exact .inl (by simp [last, one, single])
    · exact .inr (by simp [one, single])
  case last => exact fun single => by simp [last, one, d, single]

/-! ### The step -/

/-- Decoding the next block passes it, whatever becomes of it. -/
theorem passes_decodeNext {s : State} {e : Engine} {i : Nat} {x : Xfer} (t : Task) (hx : (engOf s e).xfers[i]? = some x) :
    ∃ y, (engOf (decodeNext s e i x t) e).xfers[i]? = some y ∧ BlockPassed ((descOf e x.desc.raw).op = 2) x y := by
  cases h : (nextRead s e x t).2.denied with
  | some a =>
    rw [decodeNext_denied h]
    have read := (performs_readBlock s (actorOf s e x.desc) (nextAddr e x t)).toGoesOn
    obtain ⟨y, hy, task, moved⟩ := (read.moves (moves_stopXfer _ e i x stNotPermitted a)).transfer x hx
    exact ⟨y, hy, task, .inl moved, fun _ => moved⟩
  | none =>
    obtain ⟨u, f, next, on, -, -, passed⟩ := decodeNext_read i h
    obtain ⟨w, hw, kept⟩ := (on.engines e).transfers i x hx
    obtain ⟨y, hy, swept⟩ := ((performs_sweepXfer _ e i false []).engines e).transfers i (f w) (xfers_modXfer_self hw f)
    exact ⟨y, next ▸ hy, (kept.passed (passed w)).goesOn swept⟩

theorem lanes_decodeNext (s : State) (e : Engine) (i : Nat) (x : Xfer) (t : Task) (n : Nat) :
    (clusterOf (decodeNext s e i x t) n).expProgress = (clusterOf s n).expProgress := by
  cases h : (nextRead s e x t).2.denied with
  | some a =>
    rw [decodeNext_denied h]
    exact ((performs_readBlock ..).trans (performs_stopXfer ..)).lanes n
  | none =>
    obtain ⟨u, f, next, on, -⟩ := decodeNext_read i h
    rw [next, (performs_sweepXfer ..).lanes, lanes_modEng, on.lanes]

theorem decoded_decodeNext {s : State} {e : Engine} {x : Xfer} {t : Task} (i : Nat) (h : (nextRead s e x t).2.denied = none) :
    (decodeNext s e i x t).codec.decoded = s.codec.decoded + b2n (decide ((nextOut s e x t).status = 0)) := by
  obtain ⟨u, f, next, -, decoded, -⟩ := decodeNext_read i h
  rw [next, (performs_sweepXfer ..).counts, codec_modEng, decoded]

theorem errTotal_decodeNext {s : State} {e : Engine} {x : Xfer} {t : Task} (i : Nat) (h : (nextRead s e x t).2.denied = none)
    (wrong : (nextOut s e x t).status ≠ 0) (going : x.cancelled = false) : (engOf s e).errTotal < (engOf (decodeNext s e i x t) e).errTotal := by
  obtain ⟨u, f, next, -, -, failed, -⟩ := decodeNext_read i h
  have swept := ((performs_sweepXfer (modEng u e (fun y => modXfer y i f)) e i false []).engines e).errors
  rw [engOf_modEng_self] at swept
  rw [next]
  exact Nat.lt_of_lt_of_le (failed wrong going) swept

/-- One more block has passed a lane of a cluster's expander. -/
def laneDone (s : State) (n : Nat) : State := modCluster s n (fun y => { y with expProgress := y.expProgress + 1 })

theorem engOf_laneDone (s : State) (n : Nat) (e : Engine) : engOf (laneDone s n) e = engOf s e := by
  cases e with
  | mover c => rfl
  | gather k => exact modCluster_rel (R := fun x y => y.gather = x.gather) (fun _ => rfl) rfl k
  | packer k => exact modCluster_rel (R := fun x y => y.packer = x.packer) (fun _ => rfl) rfl k

theorem exec_blockDecode {s : State} {e : Engine} {i : Nat} {x : Xfer} {t : Task} (ok : e.ok = true) (notPacker : ∀ k, e ≠ .packer k)
    (hx : (engOf s e).xfers[i]? = some x) (ht : (engOf s e).tasks.find? (fun k => k.id == x.task) = some t) (codec : x.codec = true)
    (waiting : x.moved = false) (free : blockHeld s e i x (nextAddr e x t) (128 * blockLines s (nextAddr e x t)) = false) :
    exec (.blockDecode e i) s = .next (laneDone (charge s (decodeNext s e i x t) x.desc.context) (engCluster e)) := by
  change execBlockDecode e i s = _
  unfold nextAddr at free
  unfold execBlockDecode
  cases e with
  | packer n => exact absurd rfl (notPacker n)
  | mover c => simp [ok, hx, ht, codec, waiting, free, laneDone]
  | gather n => simp [ok, hx, ht, codec, waiting, free, laneDone]

end Sys2Proof.Machine
end

section
/-! PROOFS. The packer at work (R237 to R240): whatever becomes of its block, the transfer has moved; a block that fits its frame, whose frame
and result record pass the guard, is counted as packed. -/

namespace Sys2Proof.Machine

open Sys2Proof

/-! ### The accesses of a block -/

theorem performs_packWork (s : State) (e : Engine) (i : Nat) (ws : List Work) : Performs s (packWork s e i ws) :=
  Performs.trans (performs_modXfer (by exact fun _ => ⟨rfl, rfl, fun _ => rfl⟩) ..) (performs_sweepXfer ..)

/-- Once its accesses are known, a packer's transfer has moved. -/
theorem moves_packWork (s : State) (e : Engine) (i : Nat) (ws : List Work) : Moves e i s (packWork s e i ws) :=
  Moves.goesOn (moves_modXfer (by exact fun _ => ⟨rfl, rfl⟩) s e i) (performs_sweepXfer ..).toGoesOn

theorem performs_resultRefused {s t : State} {x : Actor} {p : PackDesc} {i : Nat} (h : resultRefused s x p i = some t) : Performs s t := by
  unfold resultRefused at h
  split at h
  · exact performs_windowRefused h
  · cases h
    exact performs_guardFault ..

/-! ### Lists -/

theorem performs_listEntry {s t : State} {x : Actor} {d : Desc} {i a : Nat} {en : Entry} (h : listEntry s x d i = (t, en, a)) : Performs s t := by
  have read (a n : Nat) := performs_readAt s x a n []
  have kept : Performs s (listEntry s x d i).1 := by
    unfold listEntry
    dsimp only
    split
    · repeat' split
      all_goals exact read ..
    · repeat' split
      all_goals exact read ..
  rwa [h] at kept

theorem performs_nextSpill (s : State) (x : Actor) (p : PackDesc) (t : Task) : Performs s (nextSpill s x p t).1 := by
  unfold nextSpill
  split
  · exact .refl s
  · dsimp only
    split
    all_goals
      next h => exact performs_listEntry h

theorem performs_packFrame (s : State) (x : Actor) (p : PackDesc) (i : Nat) : Performs s (packFrame s x p i).1 := by
  unfold packFrame
  split
  · exact .refl s
  · dsimp only
    split
    all_goals
      next h => exact performs_listEntry h

/-! ### Failures (R240) -/

theorem moves_packFail (s : State) (e : Engine) (i : Nat) (x : Xfer) (p : PackDesc) (status addr seq : Nat) (first : List Work) :
    Moves e i s (packFail s e i x p status addr seq first) := by
  unfold packFail
  extract_lets s2 c s3 s4
  have failed : Performs s s2 := (performs_countErr ..).trans (performs_failTask ..)
  have counted : GoesOn s s3 := failed.toGoesOn.trans (.of_clusters rfl rfl)
  have aborted : GoesOn s s4 := by
    unfold s4
    split
    · exact counted.trans (performs_abortCtx ..).toGoesOn
    · exact counted
  split
  next s5 refused => exact (aborted.trans (performs_resultRefused refused).toGoesOn).moves (moves_packWork ..)
  next => exact aborted.moves (moves_packWork ..)

theorem moves_packFail_guardFault (s : State) (owner : Nat) (e : Engine) (i : Nat) (x : Xfer) (p : PackDesc) (status addr seq : Nat) (first : List Work) :
    Moves e i s (packFail (guardFault s owner) e i x p status addr seq first) :=
  (performs_guardFault s owner).toGoesOn.moves (moves_packFail ..)

theorem moves_packPoison (s : State) (e : Engine) (i : Nat) (x : Xfer) (p : PackDesc) (status frame seq : Nat) :
    Moves e i s (packPoison s e i x p status frame seq) := by
  unfold packPoison
  dsimp only
  split
  · exact moves_packFail ..
  · exact moves_packFail_guardFault ..

/-! ### Blocks -/

theorem moves_packBlock (s : State) (e : Engine) (i : Nat) (x : Xfer) (t : Task) (frame : Nat) (bs : List Byte) :
    Moves e i s (packBlock s e i x t frame bs) := by
  unfold packBlock
  extract_lets p act seq req cand lines spills
  split
  next s2 place ends found =>
  have taken : Performs s s2 := by
    split at found
    next => exact (Prod.mk.inj found).1 ▸ performs_nextSpill ..
    next => exact (Prod.mk.inj found).1 ▸ .refl s
  extract_lets s3
  have kept : GoesOn s s3 := by
    unfold s3
    split
    · exact (taken.trans (performs_modEng (.of_eq rfl rfl))).toGoesOn
    · exact taken.toGoesOn
  refine kept.moves ?_
  split
  next => 
    split
    · exact moves_packPoison ..
    · exact moves_packFail ..
  next a =>
    split
    · exact moves_packFail_guardFault ..
    · split
      · exact moves_packFail ..
      next _ s4 _ _ _ _ =>
        have packed (c : CodecCounts) (k : Nat) : GoesOn s3 (countOp { s3 with codec := c } (engCluster e) k 1) :=
          GoesOn.trans (t := { s3 with codec := c }) (.of_clusters rfl rfl) (performs_countOp ..).toGoesOn
        have counted : GoesOn s3 s4 := packed ..
        exact counted.moves (moves_packWork ..)

theorem moves_packNext (s : State) (e : Engine) (i : Nat) (x : Xfer) (t : Task) (errs : RowErrs) : Moves e i s (packNext s e i x t errs) := by
  unfold packNext
  extract_lets p act seq d
  have framed := performs_packFrame s act p x.entry
  split
  next s1 st found =>
    rw [found] at framed
    exact framed.toGoesOn.moves (moves_packFail ..)
  next s1 found =>
    rw [found] at framed
    refine framed.toGoesOn.moves ?_
    split
    · exact moves_packFail ..
    · exact moves_packWork ..
  next s1 frame found =>
    rw [found] at framed
    refine framed.toGoesOn.moves ?_
    split
    next c o place =>
      split
      next s2 refused => exact (performs_windowRefused refused).toGoesOn.moves (moves_packFail ..)
      next =>
        extract_lets s2
        have read : Performs s1 s2 := ((performs_strikeRows ..).trans (performs_settleSpan ..)).trans (performs_countCell ..)
        refine read.toGoesOn.moves ?_
        split
        · exact moves_packPoison ..
        · exact moves_packBlock ..
    next => exact moves_packFail_guardFault ..

end Sys2Proof.Machine
end

section
/-! PROOFS. A sound block is packed (R237 to R239), and the statement of the codec's steps: what the read of a block's source leaves of the module
bears on neither the guard nor the code tables. -/

namespace Sys2Proof.Machine

open Sys2Proof

/-! ### The source of a block -/

/-- Two states that differ in cells, clusters and the model's own counter at most: what reading a scratchpad can change. -/
def SameBeside (s t : State) : Prop := ∃ cells clusters n, t = { s with cells := cells, clusters := clusters, freeCount := n }

theorem SameBeside.trans {s t u : State} (h : SameBeside s t) (h' : SameBeside t u) : SameBeside s u := by
  obtain ⟨_, _, _, rfl⟩ := h
  obtain ⟨_, _, _, rfl⟩ := h'
  exact ⟨_, _, _, rfl⟩

theorem rowError_sameBeside (s : State) (cell row : Nat) (err : BitErr) : SameBeside s (rowError s cell row err) := by
  cases err <;> exact ⟨_, _, _, rfl⟩

theorem strikeRows_sameBeside (s : State) (cell : Nat) (rows : List Nat) (errs : RowErrs) : SameBeside s (strikeRows s cell rows errs) := by
  unfold strikeRows
  generalize errs.filter _ = l
  induction l generalizing s with
  | nil => exact ⟨_, _, _, rfl⟩
  | cons e t ih => exact (rowError_sameBeside s cell (e.1 % 2048) e.2).trans (ih _)

theorem settleSpan_sameBeside (s : State) (cell o n : Nat) : SameBeside s (settleSpan s cell o n) := ⟨_, _, _, rfl⟩

theorem countCell_sameBeside (s : State) (c i n : Nat) : SameBeside s (countCell s c i n) := ⟨_, _, _, rfl⟩

/-! ### The guard -/

theorem windowRefused_eq_none {s : State} {x : Actor} {cell o n : Nat} {write : Bool} :
    windowRefused s x cell o n write = none ↔ x.self = some cell ∨ cellGuard s x.owner = true ∧ regionAllows (layoutOf s) o n write = true := by
  unfold windowRefused
  by_cases own : x.self = some cell
  · simp [own]
  · cases cellGuard s x.owner with
    | false => simp [own]
    | true => cases regionAllows (layoutOf s) o n write <;> simp [own]

theorem SameBeside.linesPermitted {s t : State} (h : SameBeside s t) (x : Actor) (a n : Nat) : linesPermitted t x a n = linesPermitted s x a n := by
  obtain ⟨_, _, _, rfl⟩ := h
  rfl

theorem SameBeside.resultRefused_eq_none {s t : State} (h : SameBeside s t) {x : Actor} {p : PackDesc} {i : Nat} (allowed : resultRefused s x p i = none) :
    resultRefused t x p i = none := by
  obtain ⟨_, _, _, rfl⟩ := h
  unfold resultRefused at allowed ⊢
  split at allowed
  · have passes := windowRefused_eq_none.1 allowed
    exact windowRefused_eq_none.2 passes
  · cases allowed

/-! ### Packing -/

/-- What the packer is asked for with the block of a transfer, and the lines that its best candidate for the bytes takes. -/
def reqOf (x : Xfer) : PackReq :=
  let p := packOf x.desc.raw
  { modeReq := p.modeReq, format := p.format, slot := p.slot, padOk := p.padOk, decUnits := p.decUnits, seq := (p.seqBase + x.entry) % 65536 }
def packedLines (s : State) (x : Xfer) (bs : List Byte) : Nat :=
  candLines (reqOf x) (bestCand (reqOf x) (activeTable (mget TableSlot.reset (tablesOf s x.desc.context) (packOf x.desc.raw).slot)) bs)

/-- A block that fits its frame and passes the guard is counted. -/
theorem packed_packBlock {s : State} {e : Engine} {x : Xfer} {frame : Nat} {bs : List Byte} (i : Nat) (t : Task)
    (fits : packedLines s x bs ≤ (packOf x.desc.raw).frameLines) (permitted : linesPermitted s (actorOf s e x.desc) frame (packedLines s x bs) = true)
    (allowed : resultRefused s (actorOf s e x.desc) (packOf x.desc.raw) x.entry = none) :
    (packBlock s e i x t frame bs).codec.packed = s.codec.packed + 1 := by
  simp only [packedLines, reqOf] at fits permitted
  simp only [packBlock, decide_eq_false (Nat.not_lt.2 fits), Bool.false_eq_true, if_false, permitted, Bool.not_true, allowed]
  rw [(performs_packWork ..).counts]
  rfl

/-- The length of a block's source, and the state in which its read finds it. -/
def packLen (x : Xfer) : Nat := 128 * (packOf x.desc.raw).decUnits
def sourceRead (s : State) (x : Xfer) (c o : Nat) (errs : RowErrs) : State := settleSpan (strikeRows s c (rowSpan o (packLen x)) errs) c o (packLen x)

theorem sourceRead_sameBeside (s : State) (x : Xfer) (c o : Nat) (errs : RowErrs) : SameBeside s (sourceRead s x c o errs) :=
  (strikeRows_sameBeside ..).trans (settleSpan_sameBeside ..)

/-- A source that can be read and holds no poison goes to the packer's frame. -/
theorem packNext_sound {s : State} {e : Engine} {x : Xfer} {c o : Nat} {errs : RowErrs} (i : Nat) (t : Task) (framed : (packOf x.desc.raw).dstList = 0)
    (place : placeOf ((packOf x.desc.raw).src + x.entry * packLen x) = .window c o)
    (readable : windowRefused s (actorOf s e x.desc) c o (packLen x) false = none)
    (sound : spPoisoned (cellOf (sourceRead s x c o errs) c) o (packLen x) = false) :
    packNext s e i x t errs = packBlock (countCell (sourceRead s x c o errs) c 4 (packLen x)) e i x t
      ((packOf x.desc.raw).dst + x.entry * (packOf x.desc.raw).frameLines * 128) (readBytes (cellOf (sourceRead s x c o errs) c).sp o (packLen x)) := by
  have counted (u : State) : cellOf (countCell u c 4 (packLen x)) c = { cellOf u c with bytes := madd (cellOf u c).bytes 4 (packLen x) } :=
    cellOf_modCell_self ..
  simp only [sourceRead, packLen] at place readable sound counted ⊢
  simp only [packNext, packFrame, framed, if_true, place, readable, counted]
  rw [if_neg]
  simpa [spPoisoned] using sound

/-- A block that fits its frame and passes the guard is counted as packed, as its source's read leaves the module. -/
theorem packed_packNext {s : State} {e : Engine} {x : Xfer} {c o : Nat} {errs : RowErrs} (i : Nat) (t : Task) (framed : (packOf x.desc.raw).dstList = 0)
    (place : placeOf ((packOf x.desc.raw).src + x.entry * packLen x) = .window c o)
    (readable : windowRefused s (actorOf s e x.desc) c o (packLen x) false = none)
    (sound : spPoisoned (cellOf (sourceRead s x c o errs) c) o (packLen x) = false)
    (fits : packedLines s x (readBytes (cellOf (sourceRead s x c o errs) c).sp o (packLen x)) ≤ (packOf x.desc.raw).frameLines)
    (permitted : linesPermitted s (actorOf s e x.desc) ((packOf x.desc.raw).dst + x.entry * (packOf x.desc.raw).frameLines * 128)
      (packedLines s x (readBytes (cellOf (sourceRead s x c o errs) c).sp o (packLen x))) = true)
    (allowed : resultRefused s (actorOf s e x.desc) (packOf x.desc.raw) x.entry = none) :
    (packNext s e i x t errs).codec.packed = s.codec.packed + 1 := by
  rw [packNext_sound i t framed place readable sound]
  generalize readBytes _ o (packLen x) = bs at fits permitted ⊢
  obtain ⟨cells, clusters, n, read⟩ := (sourceRead_sameBeside s x c o errs).trans (countCell_sameBeside _ c 4 (packLen x))
  rw [read]
  exact packed_packBlock i t fits permitted (SameBeside.resultRefused_eq_none ⟨cells, clusters, n, rfl⟩ allowed)

/-! ### The steps -/

theorem exec_blockPack {s : State} {n i : Nat} {x : Xfer} {t : Task} (ok : clusterOk n = true) (hx : (clusterOf s n).packer.xfers[i]? = some x)
    (ht : (clusterOf s n).packer.tasks.find? (fun k => k.id == x.task) = some t) (waiting : x.moved = false)
    (free : blockHeld s (.packer n) i x ((packOf x.desc.raw).src + packLen x * x.entry) (packLen x) = false) (errs : RowErrs) :
    exec (.blockPack n i errs) s = .next (charge s (packNext s (.packer n) i x t errs) x.desc.context) := by
  change execBlockPack n i errs s = _
  simp only [packLen] at free
  simp [execBlockPack, ok, engOf, hx, ht, waiting, free]

/-- Settles O18: the decode of the next block through what `decodeNext_read` says of one that was read and `decodeNext_denied` of one that the
guard refused, the packing through `moves_packNext` and, for a sound block, `packed_packNext`. -/
theorem codecBlocks : Obligations.CodecBlocks := by
  unfold Obligations.CodecBlocks
  intro s e n i c o x t errs d src b out p len act sc req lines
  constructor
  · intro ok notPacker hx ht codec waiting free
    obtain ⟨cells, clusters, counts⟩ := units_eq_iff.1 (units_charge s (decodeNext s e i x t) x.desc.context)
    refine ⟨_, exec_blockDecode ok notPacker hx ht codec waiting free, ?lane, ?passed, fun read good => ?decoded,
      fun read wrong => ⟨?undecoded, fun going => ?failed⟩⟩
    case lane =>
      rw [laneDone, clusterOf_modCluster_self]
      dsimp only
      rw [clusterOf_congr clusters, lanes_decodeNext]
    case passed =>
      rw [engOf_laneDone, engOf_congr cells clusters]
      exact passes_decodeNext t hx
    case decoded =>
      rw [laneDone, modCluster_codec, counts, decoded_decodeNext i read]
      exact congrArg (s.codec.decoded + b2n ·) (decide_eq_true good)
    case undecoded =>
      rw [laneDone, modCluster_codec, counts, decoded_decodeNext i read]
      exact congrArg (s.codec.decoded + b2n ·) (decide_eq_false wrong)
    case failed =>
      rw [engOf_laneDone, engOf_congr cells clusters]
      exact errTotal_decodeNext i read wrong going
  · intro ok hx ht waiting free
    obtain ⟨cells, clusters, counts⟩ := units_eq_iff.1 (units_charge s (packNext s (.packer n) i x t errs) x.desc.context)
    refine ⟨_, exec_blockPack ok hx ht waiting free errs, ?moved, fun framed place readable sound fits permitted allowed => ?packed⟩
    case moved =>
      obtain ⟨y, hy, task, moved⟩ := (moves_packNext s (.packer n) i x t errs).transfer x hx
      refine ⟨y, ?_, moved, task⟩
      rw [clusterOf_congr clusters]
      exact hy
    case packed =>
      rw [counts]
      exact packed_packNext i t framed place readable sound fits permitted allowed

end Sys2Proof.Machine
end

section
/-! PROOFS. The codec commands (R231, R355): a command that may start passes the checks that every command is asked, and what TABLE_LOAD and TABLE_ACTIVATE
note in the slot bears on nothing else of the context. -/

namespace Sys2Proof.Machine

open Sys2Proof

/-! ### The checks of every command (R338, R347, R362) -/

theorem CmdReady.rightsCheck {s : State} {i : Instr} {h : CmdHdr} (ready : CmdReady s i h) : rightsCheck i h = none := by
  obtain ⟨-, -, sender, -⟩ := ready
  rw [Machine.rightsCheck, need_none]
  rcases sender with pf | ⟨notPf, own⟩
  · split <;> simp [pf]
  · split
    · contradiction
    · simp [own]

theorem CmdReady.partitionCheck {s : State} {i : Instr} {h : CmdHdr} (ready : CmdReady s i h) : partitionCheck i h = none := by
  obtain ⟨-, -, -, named⟩ := ready
  rw [Machine.partitionCheck, need_none]
  by_cases p : scopeOf (opcodeOf i) = some .p
  · rcases named p with ⟨-, quote⟩ | ⟨named, -⟩
    · simp [quote]
    · simp [named]
  · simp [p]

theorem CmdReady.stateCheck {s : State} {i : Instr} {h : CmdHdr} (ready : CmdReady s i h) : stateCheck s i h = none := by
  obtain ⟨-, agree, -, named⟩ := ready
  have present : (decide (scopeOf (opcodeOf i) ≠ some .p) || decide (h.partition = 8) || (partOf s h.partition).present) = true := by
    by_cases p : scopeOf (opcodeOf i) = some .p
    · rcases named p with ⟨module, -⟩ | ⟨-, present⟩
      · simp [module]
      · simp [present]
    · simp [p]
  unfold Machine.stateCheck
  rw [firstFail_none_iff]
  simp only [List.forall_mem_cons, need_none]
  refine ⟨?_, present, by simp⟩
  split <;> simp [agree]

/-- A command that may start takes its effect once its own checks pass. -/
theorem CmdReady.runs {s : State} {i : Instr} {h : CmdHdr} (ready : CmdReady s i h) {inRange owned others : List Check} (effect : State → State)
    (fields : ∀ c ∈ inRange, c = none) (owns : ∀ c ∈ owned, c = none) (rest : ∀ c ∈ others, c = none) :
    runCommand s i h inRange owned others effect = .next (effect (begin s i)) := by
  have passes : firstFail ([Machine.rightsCheck i h] ++ inRange ++ [Machine.partitionCheck i h] ++ owned ++ [Machine.stateCheck s i h] ++ others) = none := by
    rw [firstFail_none_iff, ready.rightsCheck, ready.partitionCheck, ready.stateCheck]
    simp only [List.forall_mem_append, List.forall_mem_singleton]
    exact ⟨⟨⟨⟨⟨trivial, fields⟩, trivial⟩, owns⟩, trivial⟩, rest⟩
  obtain ⟨gate, -⟩ := ready
  rw [runCommand, gate, passes]
  rfl

/-! ### Checks of a command's context -/

@[simp] theorem ctxRange_eq_none {c : Nat} : ctxRange c = none ↔ c < 32 := by simp [ctxRange]

theorem ctxOwned_eq_none {s : State} {h : CmdHdr} {c : Nat} {x : Ctx} (hx : ctxOf s c = some x) : ctxOwned s h c = none ↔ x.partition = h.partition := by
  simp [ctxOwned, hx]

theorem ctxIn_eq_none {s : State} {c : Nat} {x : Ctx} {p : CtxState → Bool} (hx : ctxOf s c = some x) : ctxIn s c p = none ↔ p x.state = true := by
  simp [ctxIn, hx]

theorem withCtx_some {s : State} {c : Nat} {x : Ctx} (hx : ctxOf s c = some x) (f : Ctx → Check) : withCtx s c f = f x := by rw [withCtx, hx]

theorem notDestroying_iff {t : CtxState} : notDestroying t = true ↔ t ≠ .destroying := by simp [notDestroying]

/-! ### Slots -/

/-- A context with a slot of its tables changed. -/
def withSlot (x : Ctx) (slot : Nat) (t : TableSlot) : Ctx := { x with tables := mset TableSlot.reset x.tables slot t }

@[simp] theorem tableSlot_withSlot_self (x : Ctx) (slot : Nat) (t : TableSlot) : tableSlot (withSlot x slot t) slot = t := mget_mset_self ..
theorem tableSlot_withSlot_ne (x : Ctx) {slot k : Nat} (t : TableSlot) (other : k ≠ slot) : tableSlot (withSlot x slot t) k = tableSlot x k := mget_mset_ne _ _ _ _ _ other

theorem modSlot_eq {s : State} {c : Nat} {x : Ctx} (hx : ctxOf s c = some x) (slot : Nat) (f : TableSlot → TableSlot) :
    modSlot s c slot f = setCtx s c (withSlot x slot (f (tableSlot x slot))) := by
  rw [modSlot, modCtx, hx]
  rfl

/-- What a slot notes for its tick stands in the slot and nowhere else of the context, while the command waits. -/
theorem waits_modSlot {s s1 : State} {c slot n : Nat} {i : Instr} {h : CmdHdr} {x : Ctx} {data : List Nat} {f : TableSlot → TableSlot}
    {o : Host.Outcome State Fault Refusal} (hx : ctxOf s1 c = some x) (now : s1.frames = s.frames)
    (runs : o = .next (modSlot (acceptTick i h n s1 data) c slot f)) :
    ∃ u y, WaitsForTick o s i h n data u ∧ ctxOf u c = some y ∧ tableSlot y slot = f (tableSlot x slot) ∧ (∀ k, k ≠ slot → tableSlot y k = tableSlot x k)
      ∧ { y with tables := x.tables } = x := by
  have waits : ctxOf (acceptTick i h n s1 data) c = some x := hx
  refine ⟨setCtx s1 c (withSlot x slot (f (tableSlot x slot))), _, ?_, ctxOf_setCtx_self .., tableSlot_withSlot_self .., fun k other => tableSlot_withSlot_ne x _ other, rfl⟩
  rw [WaitsForTick, runs, modSlot_eq waits, ← now]
  rfl

/-! ### The commands -/

/-- TABLE_LOAD of a sound record, of the generation after the active table's, into a slot that awaits nothing. -/
theorem exec_tableLoad {s : State} {h : CmdHdr} {c : Nat} {rec_ : List Byte} {x : Ctx} (ready : CmdReady s (.tableLoad h c rec_) h) (hx : ctxOf s c = some x)
    (own : x.partition = h.partition) (range : c < 32) (state : x.state ≠ .destroying) (sound : recordDefect rec_ = none)
    (idle : slotBusy (tableSlot x (recordSlot rec_)) = false) (free : awaitedSlot s c x (recordSlot rec_) = false)
    (next : ∀ k, activeTable (tableSlot x (recordSlot rec_)) = some k → (recordTable rec_).generation = (k.generation + 1) % 65536) :
    exec (.tableLoad h c rec_) s
      = .next (modSlot (acceptTick (.tableLoad h c rec_) h 1 (extendReg (begin s (.tableLoad h c rec_)) (10 + 3 * h.partition) rec_) [loadBank (tableSlot x (recordSlot rec_))])
          c (recordSlot rec_) (fun t => { t with pendingLoad := some (recordTable rec_) })) := by
  change execTableLoad h c rec_ s = _
  rw [execTableLoad]
  have begun : ctxOf (begin s (.tableLoad h c rec_)) c = some x := hx
  rw [ready.runs]
  case fields => simp [range, sound]
  case owns => simp [ctxOwned_eq_none hx, own]
  case rest =>
    simp only [List.forall_mem_cons, ctxIn_eq_none hx, withCtx_some hx, need_none, notDestroying_iff, idle, free]
    refine ⟨state, rfl, ?_, by simp⟩
    cases active : activeTable (tableSlot x (recordSlot rec_)) with
    | none => rfl
    | some k => exact decide_eq_true (next k active)
  simp only [begun]

/-- TABLE_ACTIVATE of the next generation, at a frame that lies far enough ahead, in a slot that awaits nothing. -/
theorem exec_tableActivate {s : State} {h : CmdHdr} {c slot frame : Nat} {x : Ctx} {a b : CodeTable} (ready : CmdReady s (.tableActivate h c slot frame) h)
    (hx : ctxOf s c = some x) (own : x.partition = h.partition) (range : c < 32) (state : x.state ≠ .destroying) (slots : slot < 16)
    (ahead : frame < 2 ^ 48 ∧ 2 ≤ framesAhead s frame ∧ framesAhead s frame ≤ 65536) (active : activeTable (tableSlot x slot) = some a)
    (loaded : (if (tableSlot x slot).active then (tableSlot x slot).bank0 else (tableSlot x slot).bank1) = some b) (next : b.generation = (a.generation + 1) % 65536)
    (idle : (tableSlot x slot).pendingSwitch = none) (free : awaitedSlot s c x slot = false) :
    exec (.tableActivate h c slot frame) s
      = .next (modSlot (acceptTick (.tableActivate h c slot frame) h (framesAhead s frame) (begin s (.tableActivate h c slot frame))) c slot
          (fun t => { t with pendingSwitch := some frame })) := by
  change execTableActivate h c slot frame s = _
  rw [execTableActivate, ready.runs]
  case fields =>
    simp only [List.forall_mem_cons, ctxRange_eq_none, need_none, decide_eq_true_eq]
    exact ⟨range, slots, ahead, by simp⟩
  case owns => simp [ctxOwned_eq_none hx, own]
  case rest =>
    simp only [List.forall_mem_cons, ctxIn_eq_none hx, withCtx_some hx, need_none, notDestroying_iff, active, loaded, idle, free]
    exact ⟨state, decide_eq_true next, rfl, by simp⟩
  rfl

/-- Settles O32: each command's own checks pass, so that it takes its effect; the loads and switches note it in their slot. -/
theorem codecCommands : Obligations.CodecCommands := by
  unfold Obligations.CodecCommands
  intro s h c slot frame walk expect count src rec_ p x a b hx own range state
  refine ⟨?load, ?activate, ?encode, ?check⟩
  case load =>
    intro i t ready sound idle free next
    have begun : ctxOf (extendReg (begin s i) (10 + 3 * h.partition) rec_) c = some x := hx
    exact waits_modSlot begun rfl (exec_tableLoad ready hx own range state sound idle free next)
  case activate =>
    intro i t ready slots small least most active loaded next idle free
    have begun : ctxOf (begin s i) c = some x := hx
    exact waits_modSlot begun rfl (exec_tableActivate ready hx own range state slots ⟨small, least, most⟩ active loaded next idle free)
  case encode =>
    rintro i ready rfl format plane mode planes slots least most aligned room index ownSrc plainSrc ownDst ownIndex resident
    refine ready.runs (acceptLong i h) ?_ ?_ ?_
    · simp only [List.forall_mem_cons, ctxRange_eq_none, need_none, decide_eq_true_eq]
      exact ⟨range, ⟨format, plane⟩, mode, slots, ⟨least, most⟩, aligned, room, index, by simp⟩
    · simp [ctxOwned_eq_none hx, own, ownSrc, plainSrc, ownDst, ownIndex]
    · simp only [List.forall_mem_cons, ctxIn_eq_none hx, resident, need_none]
      refine ⟨rfl, ?_, by simp only [List.not_mem_nil, false_implies, implies_true]⟩
      cases plane : (planeParams p.format).isSome with
      | true => rw [Option.isNone_eq_false_iff.2 plane, Bool.and_false, Bool.not_false]
      | false =>
        have other : p.modeReq ≠ 2 := fun two => by simp only [planes two, Bool.true_eq_false] at plane
        rw [decide_eq_false other, Bool.false_and, Bool.not_false]
  case check =>
    intro i ready walks units aligned readable
    refine ready.runs (acceptLong i h) ?_ ?_ ?_
    · simp only [List.forall_mem_cons, ctxRange_eq_none, need_none, decide_eq_true_eq]
      exact ⟨range, walks, units, aligned, by simp⟩
    · simp only [List.forall_mem_cons, ctxOwned_eq_none hx]
      exact ⟨own, readable, by simp⟩
    · simpa [ctxIn_eq_none hx, notDestroying_iff] using state

end Sys2Proof.Machine
end

section
/-! PROOFS. Lines on their way through the caldera (R200, R201, R209, R211): which lines it holds after a fill, an eviction or an invalidation, what a line
stored without error reads as, and what of the module no access of a control core to a page changes. -/

namespace Sys2Proof.Machine

open Sys2Proof

/-! ### Bytes of a line -/

theorem length_zeroLine : zeroLine.length = 128 := by simp [zeroLine]

theorem bytesAt_zeroLine : bytesAt zeroLine 0 128 = zeroLine := by simp [bytesAt, zeroLine]

theorem readBytes_congr {m m' : List Host.Cell} {a n : Nat} (same : ∀ x, a ≤ x → x < a + n → readByte m x = readByte m' x) : readBytes m a n = readBytes m' a n := by
  apply List.ext_getElem
  · simp
  · intro k h _
    rw [length_readBytes] at h
    rw [getElem_readBytes, getElem_readBytes, same _ (by omega) (by omega)]

/-! ### Lines that the caldera holds -/

/-- Some set of the caldera lists the line. -/
def Held (s : State) (l : CalLine) : Prop := ∃ e ∈ s.mem.sets, l ∈ e.2.lines

theorem mget_eq_or_mem {α : Type} (d : α) (m : SMap α) (i : Nat) : mget d m i = d ∨ ∃ e ∈ m, e.2 = mget d m i := by
  induction m with
  | nil => exact .inl rfl
  | cons e t ih =>
    by_cases here : e.1 = i
    · exact .inr ⟨e, List.mem_cons_self, by simp [mget, here]⟩
    · simp only [mget, here, if_false, List.mem_cons, exists_eq_or_imp]
      exact ih.imp_right .inr

theorem held_of_mem_calSetOf {s : State} {k : Nat} {l : CalLine} (mem : l ∈ (calSetOf s k).lines) : Held s l := by
  rcases mget_eq_or_mem CalSet.reset s.mem.sets k with empty | ⟨e, he, eq⟩
  · rw [calSetOf, empty] at mem
    cases mem
  · exact ⟨e, he, eq ▸ mem⟩

theorem mem_calLines {s : State} {p : CalLine → Bool} {l : CalLine} : l ∈ calLines s p ↔ Held s l ∧ p l = true := by
  simp only [calLines, List.mem_flatMap, List.mem_filter, Held]
  exact ⟨fun ⟨e, he, hl, hp⟩ => ⟨⟨e, he, hl⟩, hp⟩, fun ⟨⟨e, he, hl⟩, hp⟩ => ⟨e, he, hl, hp⟩⟩

theorem held_of_calFind {s : State} {line : Nat} {l : CalLine} (found : calFind s line = some l) : Held s l ∧ l.line = line :=
  ⟨held_of_mem_calSetOf (List.mem_of_find?_eq_some found), by simpa using List.find?_some found⟩

theorem calFind_eq_none_of_held {s : State} {line : Nat} (absent : ∀ l, Held s l → l.line ≠ line) : calFind s line = none := by
  cases found : calFind s line with
  | none => rfl
  | some l => exact absurd (held_of_calFind found).2 (absent l (held_of_calFind found).1)

theorem held_setCalSet {s : State} {k : Nat} {x : CalSet} {l : CalLine} (held : Held (setCalSet s k x) l) : l ∈ x.lines ∨ Held s l := by
  obtain ⟨e, he, hl⟩ := held
  simp only [setCalSet, mset, msplice, mbelow, mfrom, List.mem_append, List.mem_filter] at he
  rcases he with (⟨he, -⟩ | he) | ⟨he, -⟩
  · exact .inr ⟨e, he, hl⟩
  · split at he
    · cases he
    · rw [List.mem_singleton.1 he] at hl
      exact .inl hl
  · exact .inr ⟨e, he, hl⟩

theorem held_calDrop {s : State} {line : Nat} {l : CalLine} (held : Held (calDrop s line) l) : Held s l := by
  rcases held_setCalSet held with here | elsewhere
  · exact held_of_mem_calSetOf (List.mem_filter.1 here).1
  · exact elsewhere

@[simp] theorem calFind_calDrop_self (s : State) (line : Nat) : calFind (calDrop s line) line = none := by
  rw [calFind, calDrop, calSetOf_setCalSet_self, List.find?_eq_none]
  intro l mem
  simpa using (List.mem_filter.1 mem).2

/-! ### What accesses leave -/

/-- What accesses to the stacks find and leave: the contexts, the host's side, the partitions and their ranges, and which lines' places hold no data. -/
def surroundings (s : State) : SMap (Option Ctx) × HostIf × SMap Part × SMap RangeEntry × (Nat → Bool) := (s.ctxs, s.host, s.parts, s.mem.ranges, lineGone s)

theorem surroundings_eq_iff {s t : State} : surroundings t = surroundings s
    ↔ t.ctxs = s.ctxs ∧ t.host = s.host ∧ t.parts = s.parts ∧ t.mem.ranges = s.mem.ranges ∧ lineGone t = lineGone s := by
  simp only [surroundings, Prod.mk.injEq]

/-- Of the stacks, the surroundings see the units alone. -/
theorem surroundings_congr {s t : State} (ctxs : t.ctxs = s.ctxs) (host : t.host = s.host) (parts : t.parts = s.parts) (ranges : t.mem.ranges = s.mem.ranges)
    (units : t.mem.stackUnits = s.mem.stackUnits) : surroundings t = surroundings s :=
  surroundings_eq_iff.2 ⟨ctxs, host, parts, ranges, by unfold lineGone stackOf; rw [units]⟩

theorem surroundings_ownerAt {s t : State} (same : surroundings t = surroundings s) (a : Nat) : ownerAt t a = ownerAt s a := by
  obtain ⟨-, -, -, ranges, -⟩ := surroundings_eq_iff.1 same
  rw [ownerAt, rangeAt, ranges]
  rfl

/-- The key of an address is its owner's. -/
theorem surroundings_ownerKey {s t : State} (same : surroundings t = surroundings s) (a : Nat) : ownerKey t (ownerAt t a) = ownerKey s (ownerAt s a) := by
  obtain ⟨-, -, parts, -, -⟩ := surroundings_eq_iff.1 same
  rw [surroundings_ownerAt same, ownerKey, partOf, parts]
  rfl

theorem surroundings_foldl {α : Type} {f : State → α → State} (h : ∀ s a, surroundings (f s a) = surroundings s) (l : List α) (s : State) :
    surroundings (l.foldl f s) = surroundings s := by
  induction l generalizing s with
  | nil => rfl
  | cons a t ih => rw [List.foldl_cons, ih, h]

theorem lineGone_modStack (s : State) (k : Nat) {f : Stack → Stack} (state : ∀ x, (f x).state = x.state) (retired : ∀ x, (f x).retired = x.retired) :
    lineGone (modStack s k f) = lineGone s := by
  funext line
  simp only [lineGone, modStack, stackOf_setStack]
  by_cases here : stackNo (128 * line) = k
  · simp only [here, if_true, state, retired]
  · simp only [here, if_false]

@[simp] theorem lineGone_countStack (s : State) (k i n : Nat) : lineGone (countStack s k i n) = lineGone s := lineGone_modStack s k (fun _ => rfl) fun _ => rfl

theorem surroundings_modStack (s : State) (k : Nat) {f : Stack → Stack} (state : ∀ x, (f x).state = x.state) (retired : ∀ x, (f x).retired = x.retired) :
    surroundings (modStack s k f) = surroundings s :=
  surroundings_eq_iff.2 ⟨rfl, rfl, rfl, rfl, lineGone_modStack s k state retired⟩

@[simp] theorem surroundings_countStack (s : State) (k i n : Nat) : surroundings (countStack s k i n) = surroundings s := surroundings_modStack s k (fun _ => rfl) fun _ => rfl
@[simp] theorem surroundings_setMeta (s : State) (line : Nat) (m : LineMeta) : surroundings (setMeta s line m) = surroundings s := rfl
@[simp] theorem surroundings_setCalSet (s : State) (k : Nat) (x : CalSet) : surroundings (setCalSet s k x) = surroundings s := rfl
@[simp] theorem surroundings_calDrop (s : State) (line : Nat) : surroundings (calDrop s line) = surroundings s := rfl
@[simp] theorem surroundings_countSlice (s : State) (a i n : Nat) : surroundings (countSlice s a i n) = surroundings s := rfl
@[simp] theorem surroundings_countMiss (s : State) (a : Nat) : surroundings (countMiss s a) = surroundings s := rfl

@[simp] theorem surroundings_crossing (s : State) (quarter fromDie toDie n : Nat) : surroundings (crossing s quarter fromDie toDie n) = surroundings s := by
  unfold crossing
  split <;> rfl

@[simp] theorem surroundings_agentWrite (s : State) (line : Nat) (data : List Byte) (poison : Bool) : surroundings (agentWrite s line data poison) = surroundings s := by
  unfold agentWrite
  cases gone : lineGone s line with
  | true =>
    simp only [footWrite, gone, if_true]
    exact surroundings_modStack _ _ (fun _ => rfl) fun _ => rfl
  | false =>
    simp only [footWrite, Bool.false_eq_true, if_false, lineGone_countStack, gone]
    exact (surroundings_congr rfl rfl rfl rfl rfl).trans (surroundings_countStack s (stackNo (128 * line)) 1 128)

@[simp] theorem surroundings_writeBack (s : State) (l : CalLine) : surroundings (writeBack s l) = surroundings s := by
  rw [← surroundings_agentWrite s l.line l.data l.poison, writeBack]
  generalize agentWrite s l.line l.data l.poison = t
  rfl

/-- A write-back is a write below the caldera, but for the counts of its slice and its die. -/
theorem writeBack_contents (s : State) (l : CalLine) : (writeBack s l).mem.bytes = (agentWrite s l.line l.data l.poison).mem.bytes
    ∧ (writeBack s l).mem.lines = (agentWrite s l.line l.data l.poison).mem.lines ∧ (writeBack s l).mem.sets = (agentWrite s l.line l.data l.poison).mem.sets := by
  rw [writeBack]
  generalize agentWrite s l.line l.data l.poison = t
  exact ⟨rfl, rfl, rfl⟩

@[simp] theorem surroundings_cleanLine (s : State) (l : CalLine) : surroundings (cleanLine s l) = surroundings s := by
  unfold cleanLine
  split
  · exact surroundings_writeBack ..
  · rfl

/-! ### Lines in the stacks -/

/-- A line stands in its stack without error, under its owner's key, with the given bytes. -/
def Stored (s : State) (line : Nat) (bs : List Byte) : Prop :=
  readBytes s.mem.bytes (128 * line) 128 = bs ∧ metaOf s line = { key := ownerKey s (ownerAt s (128 * line)), poison := false, errs := [] }

theorem Stored.congr {s t : State} {line : Nat} {bs : List Byte} (stored : Stored s line bs) (same : surroundings t = surroundings s)
    (bytes : t.mem.bytes = s.mem.bytes) (lines : t.mem.lines = s.mem.lines) : Stored t line bs := by
  obtain ⟨stands, note⟩ := stored
  rw [Stored, bytes, metaOf, lines, surroundings_ownerKey same]
  exact ⟨stands, note⟩

theorem stored_agentWrite_self {s : State} {line : Nat} (there : lineGone s line = false) : Stored (agentWrite s line zeroLine false) line zeroLine := by
  simp only [Stored, agentWrite, there, footWrite, lineGone_countStack, Bool.false_eq_true, if_false, bytesAt_zeroLine]
  exact ⟨readBytes_writeBytes _ _ zeroLine, mget_mset_self ..⟩

/-- A line written below the caldera leaves every other line. -/
theorem Stored.agentWrite_ne {s : State} {j line : Nat} {bs : List Byte} (stored : Stored s j bs) (other : j ≠ line) (data : List Byte) (poison : Bool) :
    Stored (agentWrite s line data poison) j bs := by
  obtain ⟨bytes, note⟩ := stored
  refine ⟨?_, ?_⟩
  · rw [← bytes]
    refine readBytes_congr fun x low high => ?_
    rw [agentWrite, footWrite_elsewhere _ _ _ _ _ _ (by omega)]
    split <;> rfl
  · have same : metaOf (Machine.agentWrite s line data poison) j = metaOf s j := by
      unfold Machine.agentWrite footWrite
      dsimp only
      cases gone : lineGone s line with
      | true => simp only [gone, if_true]; rfl
      | false =>
        simp only [Bool.false_eq_true, if_false, lineGone_countStack, gone]
        exact (metaOf_setMeta ..).trans (if_neg other)
    rw [same, note]
    simp only [surroundings_ownerKey (surroundings_agentWrite s line data poison)]

/-- A line stored without error reads as its bytes (R200, R201). -/
theorem footRead_stored {s : State} {line : Nat} {bs : List Byte} (stored : Stored s line bs) (there : lineGone s line = false) :
    footRead s line (ownerKey s (ownerAt s (128 * line))) [] = (setMeta s line (metaOf s line), { data := bs, poison := false }) := by
  obtain ⟨bytes, note⟩ := stored
  have codeword : eccDecode (xorPattern [] []) = .decoded 0 [] := by decide
  simp only [footRead, there, note, lineDiff, codeword, decrypted, metaOf_setMeta_self, setMeta_mem_bytes, bytes, Bool.false_eq_true, if_false, if_true, and_self]
  rfl

theorem agentRead_stored {s : State} {line : Nat} {bs : List Byte} (stored : Stored s line bs) (there : lineGone s line = false) :
    agentRead s line [] = (setMeta (countStack (countStack s (stackNo (128 * line)) 0 128) (stackNo (128 * line)) 4 1) line (metaOf s line), { data := bs, poison := false }) := by
  rw [agentRead, there, if_neg Bool.false_ne_true]
  refine footRead_stored (stored.congr ?_ rfl rfl) ?_
  · rw [surroundings_countStack, surroundings_countStack]
  · rw [lineGone_countStack, lineGone_countStack, there]

/-! ### Evictions and fills -/

/-- A line leaves the caldera, written back where it is dirty. -/
def evict (s : State) (l : CalLine) : State := calDrop (cleanLine s l) l.line

@[simp] theorem surroundings_evict (s : State) (l : CalLine) : surroundings (evict s l) = surroundings s := surroundings_cleanLine s l

theorem calInvalidate_eq_foldl_evict (s : State) (p : CalLine → Bool) : (calInvalidate s p true).1 = (calLines s p).foldl evict s := by
  unfold calInvalidate
  generalize calLines s p = lines, (0 : Nat) = count
  induction lines generalizing s count with
  | nil => rfl
  | cons l t ih => exact ih (evict s l) _

/-- Once the lines of one name that the caldera holds have left it, it does not hold that line. -/
theorem calFind_foldl_evict {line : Nat} {lines : List CalLine} (same : ∀ l ∈ lines, l.line = line) {s : State} (held : lines = [] → calFind s line = none) :
    calFind (lines.foldl evict s) line = none := by
  induction lines generalizing s with
  | nil => exact held rfl
  | cons l t ih =>
    refine ih (fun m mem => same m (List.mem_cons_of_mem l mem)) fun _ => ?_
    rw [evict, same l List.mem_cons_self]
    exact calFind_calDrop_self ..

theorem calFind_calInvalidate (s : State) (line : Nat) : calFind (calInvalidate s (fun l => l.line == line) true).1 line = none := by
  rw [calInvalidate_eq_foldl_evict]
  refine calFind_foldl_evict (fun l mem => by simpa using (mem_calLines.1 mem).2) fun none => ?_
  refine calFind_eq_none_of_held fun l held name => ?_
  have mem : l ∈ calLines s (fun l => l.line == line) := mem_calLines.2 ⟨held, by simpa using name⟩
  rw [none] at mem
  cases mem

/-- The line that a fill replaces stands in the set. -/
theorem mem_of_victim {x : CalSet} {ways : List Nat} {owner keepWays w : Nat} {keep : Bool} {l : CalLine} (replaced : victim x ways owner keepWays keep = some (w, some l)) :
    l ∈ x.lines := by
  unfold victim at replaced
  dsimp only at replaced
  split at replaced
  next m keeps =>
    cases replaced
    split at keeps
    · exact (List.mem_filter.1 (List.mem_of_getLast? keeps)).1
    · cases keeps
  next =>
    split at replaced
    · cases replaced
    · split at replaced
      next m last =>
        cases replaced
        exact (List.mem_filter.1 (List.mem_filter.1 (List.mem_of_getLast? last)).1).1
      next =>
        obtain ⟨m, last, eq⟩ := Option.map_eq_some_iff.1 replaced
        cases eq
        exact (List.mem_filter.1 (List.mem_of_getLast? last)).1

/-- What a fill can do: nothing, where no way can be used; or, after the line in its way has left the caldera, the new line joins its set. -/
theorem calFill_cases (s : State) (line owner : Nat) (keep dirty : Bool) (d : LineData) (recent : Bool) :
    calFill s line owner keep dirty d recent = (s, false)
      ∨ ∃ s1 x l, (s1 = s ∨ ∃ old, Held s old ∧ s1 = evict s old) ∧ calFill s line owner keep dirty d recent = (setCalSet s1 (setKey (128 * line)) x, true)
        ∧ (l.line = line ∧ l.data = d.data ∧ l.poison = d.poison ∧ l.dirty = dirty) ∧ ∀ m, m ∈ x.lines ↔ m = l ∨ m ∈ (calSetOf s1 (setKey (128 * line))).lines := by
  unfold calFill
  dsimp only
  split
  next => exact .inl rfl
  next w old replaced =>
    refine .inr ⟨_, _, { way := w, line := line, owner := owner, dirty := dirty, poison := d.poison, keep := keep && decide (0 < keepWaysOf s owner), data := d.data },
      ?_, rfl, ⟨rfl, rfl, rfl, rfl⟩, fun m => ?_⟩
    · cases old with
      | none => exact .inl rfl
      | some l => exact .inr ⟨l, held_of_mem_calSetOf (mem_of_victim replaced), rfl⟩
    · cases recent
      · simp [or_comm]
      · simp

@[simp] theorem surroundings_calFill (s : State) (line owner : Nat) (keep dirty : Bool) (d : LineData) (recent : Bool) :
    surroundings (calFill s line owner keep dirty d recent).1 = surroundings s := by
  rcases calFill_cases s line owner keep dirty d recent with eq | ⟨s1, x, l, from_, eq, -⟩
  · rw [eq]
  · rw [eq, surroundings_setCalSet]
    rcases from_ with rfl | ⟨old, -, rfl⟩
    · rfl
    · exact surroundings_evict ..

end Sys2Proof.Machine
end

section
/-! PROOFS. The release of a quarantined page (R248, R273): line by line a control core writes the page as zeros, has each line cleaned and dropped, and reads
it back; evictions on the way write back nothing but zeros to the lines that are done. -/

namespace Sys2Proof.Machine

open Sys2Proof

/-! ### A page that is being zeroed -/

/-- A packet over the viaduct changes nothing that the stacks and the caldera hold. -/
theorem crossing_contents (s : State) (quarter fromDie toDie n : Nat) :
    (crossing s quarter fromDie toDie n).mem.bytes = s.mem.bytes ∧ (crossing s quarter fromDie toDie n).mem.lines = s.mem.lines
      ∧ (crossing s quarter fromDie toDie n).mem.sets = s.mem.sets := by
  unfold crossing
  split <;> exact ⟨rfl, rfl, rfl⟩

/-- The first `stored` of a page's `n` lines from `lo` on stand as zeros in their stack, and the caldera holds at most the first `held` of them, as zeros. -/
structure PageZeroed (lo n held stored : Nat) (s : State) : Prop where
  inCaldera : ∀ l, Held s l → lo ≤ l.line → l.line < lo + n → l.line < lo + held ∧ l.data = zeroLine ∧ l.poison = false
  inStack : ∀ line, lo ≤ line → line < lo + stored → Stored s line zeroLine

/-- What reaches a line leaves the page zero: the line is not the page's, or takes zeros. -/
def ZeroIfOf (lo n line : Nat) (data : List Byte) (poison : Bool) : Prop := lo ≤ line → line < lo + n → data = zeroLine ∧ poison = false

section
variable {lo n held stored : Nat} {s : State}

theorem PageZeroed.calFind_eq_none (page : PageZeroed lo n held stored s) {line : Nat} (low : lo + held ≤ line) (high : line < lo + n) : calFind s line = none :=
  calFind_eq_none_of_held fun l there name => by
    obtain ⟨early, -⟩ := page.inCaldera l there (by omega) (by omega)
    omega

theorem PageZeroed.setCalSet (page : PageZeroed lo n held stored s) {k : Nat} {x : CalSet}
    (lines : ∀ l ∈ x.lines, lo ≤ l.line → l.line < lo + n → l.line < lo + held ∧ l.data = zeroLine ∧ l.poison = false) :
    PageZeroed lo n held stored (setCalSet s k x) where
  inCaldera l there := (held_setCalSet there).elim (lines l) (page.inCaldera l)
  inStack := page.inStack

theorem PageZeroed.congr {t : State} (page : PageZeroed lo n held stored s) (same : surroundings t = surroundings s)
    (bytes : t.mem.bytes = s.mem.bytes) (lines : t.mem.lines = s.mem.lines) (sets : t.mem.sets = s.mem.sets) : PageZeroed lo n held stored t where
  inCaldera l := fun ⟨e, he, hl⟩ => page.inCaldera l ⟨e, sets ▸ he, hl⟩
  inStack line low high := (page.inStack line low high).congr same bytes lines

theorem PageZeroed.agentWrite (page : PageZeroed lo n held stored s) (within : stored ≤ n) {line : Nat} {data : List Byte} {poison : Bool}
    (zero : ZeroIfOf lo n line data poison) : PageZeroed lo n held stored (agentWrite s line data poison) := by
  have sets : (Machine.agentWrite s line data poison).mem.sets = s.mem.sets := by
    unfold Machine.agentWrite footWrite
    dsimp only
    split
    · rfl
    · split <;> rfl
  refine ⟨fun l ⟨e, he, hl⟩ => page.inCaldera l ⟨e, sets ▸ he, hl⟩, fun j low high => ?_⟩
  by_cases here : j = line
  · subst here
    obtain ⟨rfl, rfl⟩ := zero low (by omega)
    cases gone : lineGone s j with
    | true =>
      have discarded : Machine.agentWrite s j zeroLine false = modStack s (stackNo (128 * j)) (fun x => { x with discards := x.discards + 1 }) := by
        simp only [Machine.agentWrite, footWrite, gone, if_true]
      have same : surroundings (modStack s (stackNo (128 * j)) (fun x => { x with discards := x.discards + 1 })) = surroundings s :=
        surroundings_modStack _ _ (fun _ => rfl) fun _ => rfl
      rw [discarded]
      exact (page.inStack j low high).congr same rfl rfl
    | false => exact stored_agentWrite_self gone
  · exact (page.inStack j low high).agentWrite_ne here data poison

theorem PageZeroed.cleanLine (page : PageZeroed lo n held stored s) (within : stored ≤ n) {l : CalLine} (zero : ZeroIfOf lo n l.line l.data l.poison) :
    PageZeroed lo n held stored (cleanLine s l) := by
  unfold Machine.cleanLine
  split
  · obtain ⟨bytes, lines, sets⟩ := writeBack_contents s l
    exact (page.agentWrite within zero).congr ((surroundings_writeBack ..).trans (surroundings_agentWrite ..).symm) bytes lines sets
  · exact page

theorem PageZeroed.evict (page : PageZeroed lo n held stored s) (within : stored ≤ n) {l : CalLine} (zero : ZeroIfOf lo n l.line l.data l.poison) :
    PageZeroed lo n held stored (evict s l) where
  inCaldera m there := (page.cleanLine within zero).inCaldera m (held_calDrop there)
  inStack := (page.cleanLine within zero).inStack

/-- What the caldera holds of the page is zeros. -/
theorem PageZeroed.zero_of_held (page : PageZeroed lo n held stored s) {l : CalLine} (there : Held s l) : ZeroIfOf lo n l.line l.data l.poison :=
  fun low high => (page.inCaldera l there low high).2

theorem PageZeroed.foldl_evict {lines : List CalLine} (page : PageZeroed lo n held stored s) (within : stored ≤ n)
    (zero : ∀ l ∈ lines, ZeroIfOf lo n l.line l.data l.poison) : PageZeroed lo n held stored (lines.foldl Machine.evict s) := by
  induction lines generalizing s with
  | nil => exact page
  | cons l t ih => exact ih (page.evict within (zero l List.mem_cons_self)) fun m mem => zero m (List.mem_cons_of_mem l mem)

/-- A fill with zeros of a line that may be held. -/
theorem PageZeroed.calFill (page : PageZeroed lo n held stored s) (within : stored ≤ n) {line : Nat} (early : line < lo + held) (owner : Nat) (keep dirty recent : Bool) :
    PageZeroed lo n held stored (calFill s line owner keep dirty { data := zeroLine, poison := false } recent).1 := by
  rcases calFill_cases s line owner keep dirty { data := zeroLine, poison := false } recent with eq | ⟨s1, x, l, from_, eq, ⟨name, data, poison, -⟩, mem⟩
  · rw [eq]
    exact page
  · rw [eq]
    have page1 : PageZeroed lo n held stored s1 := by
      rcases from_ with rfl | ⟨old, there, rfl⟩
      · exact page
      · exact page.evict within (page.zero_of_held there)
    refine page1.setCalSet fun m hm low high => ?_
    rcases (mem m).1 hm with rfl | old
    · exact ⟨name ▸ early, data, poison⟩
    · exact page1.inCaldera m (held_of_mem_calSetOf old) low high

theorem PageZeroed.crossing (page : PageZeroed lo n held stored s) (quarter fromDie toDie bytes : Nat) :
    PageZeroed lo n held stored (crossing s quarter fromDie toDie bytes) := by
  obtain ⟨same, lines, sets⟩ := crossing_contents s quarter fromDie toDie bytes
  exact page.congr (surroundings_crossing ..) same lines sets

theorem PageZeroed.setMeta_metaOf (page : PageZeroed lo n held stored s) (line : Nat) : PageZeroed lo n held stored (setMeta s line (metaOf s line)) where
  inCaldera := page.inCaldera
  inStack j low high := by
    obtain ⟨bytes, note⟩ := page.inStack j low high
    refine ⟨bytes, (metaOf_setMeta ..).trans ?_⟩
    split
    next here => exact here ▸ note
    next => exact note

/-- A line of the page that stands as zeros is read as such below the caldera. -/
theorem PageZeroed.agentRead (page : PageZeroed lo n held stored s) {line : Nat} (low : lo ≤ line) (high : line < lo + stored) (there : lineGone s line = false) :
    ∃ t, agentRead s line [] = (t, { data := zeroLine, poison := false }) ∧ surroundings t = surroundings s ∧ PageZeroed lo n held stored t := by
  rw [agentRead_stored (page.inStack line low high) there]
  generalize counted : countStack (countStack s _ 0 128) _ 4 1 = s1
  have same : surroundings s1 = surroundings s := by rw [← counted, surroundings_countStack, surroundings_countStack]
  have page1 : PageZeroed lo n held stored s1 := by
    refine page.congr same ?_ ?_ ?_ <;> rw [← counted] <;> rfl
  have note : metaOf s line = metaOf s1 line := by rw [← counted]; rfl
  rw [note]
  exact ⟨_, rfl, same, page1.setMeta_metaOf line⟩

/-- One line more stands as zeros. -/
theorem PageZeroed.succ (page : PageZeroed lo n held stored s) (next : Stored s (lo + stored) zeroLine) : PageZeroed lo n held (stored + 1) s where
  inCaldera := page.inCaldera
  inStack line low high := by
    rcases Nat.lt_or_ge line (lo + stored) with early | late
    · exact page.inStack line low early
    · obtain rfl : line = lo + stored := by omega
      exact next

theorem PageZeroed.mono (page : PageZeroed lo n held stored s) {more : Nat} (least : held ≤ more) : PageZeroed lo n more stored s where
  inCaldera l there low high := (page.inCaldera l there low high).imp_left fun early => by omega
  inStack := page.inStack

end

/-! ### Cleaning a line -/

/-- A line of zeros that leaves the caldera stands in its stack, where it is dirty or stood there before. -/
theorem stored_evict {s : State} {l : CalLine} (there : lineGone s l.line = false) (zero : l.data = zeroLine ∧ l.poison = false)
    (written : l.dirty = false → Stored s l.line zeroLine) : Stored (evict s l) l.line zeroLine := by
  cases dirty : l.dirty with
  | true =>
    have back := stored_agentWrite_self there
    rw [← zero.1, ← zero.2] at back
    have same : surroundings (evict s l) = surroundings (agentWrite s l.line l.data l.poison) := (surroundings_evict s l).trans (surroundings_agentWrite ..).symm
    obtain ⟨bytes, lines, -⟩ := writeBack_contents s l
    have cleaned : cleanLine s l = writeBack s l := if_pos dirty
    rw [← zero.1]
    refine back.congr same ?_ ?_
    · rw [evict, cleaned, ← bytes]; rfl
    · rw [evict, cleaned, ← lines]; rfl
  | false =>
    have cleaned : cleanLine s l = s := if_neg (by simp [dirty])
    rw [evict, cleaned]
    exact (written dirty).congr rfl rfl rfl

theorem stored_foldl_evict {line : Nat} {lines : List CalLine} (same : ∀ l ∈ lines, l.line = line ∧ l.data = zeroLine ∧ l.poison = false) {s : State}
    (there : lineGone s line = false) (written : (∀ l ∈ lines, l.dirty = false) → Stored s line zeroLine) : Stored (lines.foldl evict s) line zeroLine := by
  induction lines generalizing s with
  | nil => exact written (by simp)
  | cons l t ih =>
    obtain ⟨rfl, zero⟩ := same l List.mem_cons_self
    obtain ⟨-, -, -, -, places⟩ := surroundings_eq_iff.1 (surroundings_evict s l)
    refine ih (fun m mem => same m (List.mem_cons_of_mem l mem)) (by rw [places, there]) fun clean => ?_
    exact stored_evict there zero fun unwritten => written (List.forall_mem_cons.2 ⟨unwritten, clean⟩)

/-! ### One line -/

/-- A control core can write a line at once: the guard lets it, the line has its place, and the host neither holds it nor awaits a write of it. -/
def Writable (s : State) (x : Source) (line : Nat) : Prop :=
  lineGone s line = false ∧ stackGuard s x (128 * line) 128 true = true ∧ line ∉ s.host.snoop ∧ ∀ w ∈ s.host.heldWrites, w.addr / 128 ≠ line

theorem Writable.congr {s t : State} {x : Source} {line : Nat} (writable : Writable s x line) (same : surroundings t = surroundings s) : Writable t x line := by
  obtain ⟨there, guard, snoop, free⟩ := writable
  obtain ⟨-, host, -, ranges, places⟩ := surroundings_eq_iff.1 same
  rw [stackGuard, ownerAt, rangeAt] at guard
  rw [Writable, places, host, stackGuard, ownerAt, rangeAt, ranges]
  exact ⟨there, guard, snoop, free⟩

/-- What may be written may be read. -/
theorem Writable.read {s : State} {x : Source} {line : Nat} (writable : Writable s x line) : stackGuard s x (128 * line) 1 false = true := by
  obtain ⟨-, guard, -⟩ := writable
  simp only [stackGuard, inStacks, Bool.and_eq_true, decide_eq_true_eq] at guard ⊢
  obtain ⟨⟨fits, own⟩, -⟩ := guard
  exact ⟨⟨by omega, own⟩, by simp⟩

theorem Writable.behindHeld {s : State} {x : Source} {line : Nat} (writable : Writable s x line) : behindHeld s line = s := by
  obtain ⟨-, -, -, free⟩ := writable
  rw [Machine.behindHeld, if_neg]
  simpa using free

/-- Zeros stand in the line's stack, or a dirty line of the caldera brings them there. -/
def ZeroComes (s : State) (line : Nat) : Prop := (∀ l, Held s l → l.line = line → l.dirty = false) → Stored s line zeroLine

/-- A fill that finds a way leaves its line held; else nothing has changed. -/
theorem held_calFill (s : State) (line owner : Nat) (keep dirty : Bool) (d : LineData) (recent : Bool) :
    (calFill s line owner keep dirty d recent).2 = true → ∃ l, Held (calFill s line owner keep dirty d recent).1 l ∧ l.line = line ∧ l.dirty = dirty := by
  rcases calFill_cases s line owner keep dirty d recent with eq | ⟨s1, x, l, -, eq, ⟨name, -, -, marked⟩, mem⟩
  · simp [eq]
  · intro _
    rw [eq]
    refine ⟨l, held_of_mem_calSetOf (k := setKey (128 * line)) ?_, name, marked⟩
    rw [calSetOf_setCalSet_self]
    exact (mem l).2 (.inl rfl)

/-- A line that the caldera does not hold is written as zeros: it waits in the caldera to be written back, or stands in its stack. -/
theorem sliceWrite_zero {lo n j hint : Nat} {s : State} (page : PageZeroed lo n j j s) (inside : j < n) (there : lineGone s (lo + j) = false) :
    let t := sliceWrite s (128 * (lo + j)) hint zeroLine false
    surroundings t = surroundings s ∧ PageZeroed lo n (j + 1) j t ∧ ZeroComes t (lo + j) := by
  have absent := page.calFind_eq_none (Nat.le_refl _) (show lo + j < lo + n by omega)
  have line : 128 * (lo + j) / 128 = lo + j := by omega
  have whole : 128 * (lo + j) % 128 = 0 := by omega
  simp only [sliceWrite, line, whole, there, absent, length_zeroLine, mergeLine, Bool.false_eq_true, if_false, if_true, and_self]
  generalize counted : countMiss (countSlice s (128 * (lo + j)) 3 1) (128 * (lo + j)) = s0
  have same0 : surroundings s0 = surroundings s := by rw [← counted]; rfl
  have page0 : PageZeroed lo n (j + 1) j s0 := by
    rw [← counted]
    exact (page.mono (Nat.le_succ j)).congr rfl rfl rfl rfl
  generalize ownerAt s0 _ = owner, (hint == 2) = keep, (hint != 1) = recent
  have page1 := page0.calFill (Nat.le_of_lt inside) (show lo + j < lo + (j + 1) by omega) owner keep true recent
  have same1 : surroundings (calFill s0 (lo + j) owner keep true { data := zeroLine, poison := false } recent).1 = surroundings s := by rw [surroundings_calFill, same0]
  have waits := held_calFill s0 (lo + j) owner keep true { data := zeroLine, poison := false } recent
  generalize calFill s0 (lo + j) owner keep true { data := zeroLine, poison := false } recent = fill at page1 same1 waits ⊢
  cases filled : fill.2 with
  | true =>
    obtain ⟨l, held, name, dirty⟩ := waits filled
    exact ⟨same1, page1, fun clean => absurd (clean l held name) (by simp [dirty])⟩
  | false =>
    obtain ⟨-, -, -, -, places⟩ := surroundings_eq_iff.1 same1
    exact ⟨(surroundings_agentWrite ..).trans same1, page1.agentWrite (Nat.le_of_lt inside) fun _ _ => ⟨rfl, rfl⟩, fun _ => stored_agentWrite_self (by rw [places, there])⟩

/-- The write of a line as zeros passes the guard and meets no host. -/
theorem classAWrite_zero {lo n j : Nat} {s : State} {x : Source} (page : PageZeroed lo n j j s) (writable : Writable s x (lo + j)) (inside : j < n) :
    ∃ t, classAWrite s x (128 * (lo + j)) zeroLine false = (t, 0) ∧ surroundings t = surroundings s ∧ PageZeroed lo n (j + 1) j t ∧ ZeroComes t (lo + j) := by
  obtain ⟨there, guard, snoop, -⟩ := writable
  obtain ⟨same, zeroed, comes⟩ := sliceWrite_zero (hint := hintAt s (128 * (lo + j))) page inside there
  have line : 128 * (lo + j) / 128 = lo + j := by omega
  simp only [classAWrite, length_zeroLine, guard, line, List.contains_iff_mem, snoop, Bool.not_true, Bool.false_eq_true, if_false]
  refine ⟨_, rfl, (surroundings_crossing ..).trans same, zeroed.crossing .., fun clean => ?_⟩
  obtain ⟨bytes, lines, sets⟩ := crossing_contents (sliceWrite s (128 * (lo + j)) (hintAt s (128 * (lo + j))) zeroLine false) (stackPlane (128 * (lo + j)))
    (x.cluster / 128) (dieOf (128 * (lo + j))) 128
  exact (comes fun l ⟨e, he, hl⟩ => clean l ⟨e, sets.symm ▸ he, hl⟩).congr (surroundings_crossing ..) bytes lines

/-- The line cleaned and dropped stands as zeros in its stack. -/
theorem calInvalidate_zero {lo n j : Nat} {s : State} (page : PageZeroed lo n (j + 1) j s) (comes : ZeroComes s (lo + j)) (inside : j < n)
    (there : lineGone s (lo + j) = false) :
    let t := (calInvalidate s (fun l => l.line == lo + j) true).1
    surroundings t = surroundings s ∧ PageZeroed lo n (j + 1) (j + 1) t := by
  have names : ∀ l ∈ calLines s (fun l => l.line == lo + j), Held s l ∧ l.line = lo + j := fun l mem => by simpa using mem_calLines.1 mem
  have zero : ∀ l ∈ calLines s (fun l => l.line == lo + j), ZeroIfOf lo n l.line l.data l.poison := fun l mem => page.zero_of_held (names l mem).1
  rw [calInvalidate_eq_foldl_evict]
  refine ⟨surroundings_foldl surroundings_evict .., (page.foldl_evict (Nat.le_of_lt inside) zero).succ (stored_foldl_evict (fun l mem => ?_) there fun clean => ?_)⟩
  · obtain ⟨-, name⟩ := names l mem
    exact ⟨name, zero l mem (by omega) (by omega)⟩
  · exact comes fun l held name => clean l (mem_calLines.2 ⟨held, by simpa using name⟩)

/-- A line that stands in its stack is read from there, whatever the caldera then keeps of it. -/
theorem sliceRead_zero {lo n j hint : Nat} {s : State} (page : PageZeroed lo n (j + 1) (j + 1) s) (inside : j < n) (there : lineGone s (lo + j) = false)
    (absent : calFind s (lo + j) = none) :
    ∃ t, sliceRead s (lo + j) hint .clean = (t, { data := zeroLine, poison := false }) ∧ surroundings t = surroundings s ∧ PageZeroed lo n (j + 1) (j + 1) t := by
  have intact : sramError s (lo + j) .clean = s := by simp only [sramError]
  simp only [sliceRead, there, intact, absent, Bool.false_eq_true, if_false]
  generalize counted : countMiss (countSlice s (128 * (lo + j)) 1 1) (128 * (lo + j)) = s0
  have same0 : surroundings s0 = surroundings s := by rw [← counted]; rfl
  have page0 : PageZeroed lo n (j + 1) (j + 1) s0 := by
    rw [← counted]
    exact page.congr rfl rfl rfl rfl
  obtain ⟨-, -, -, -, places⟩ := surroundings_eq_iff.1 same0
  obtain ⟨s1, read, same1, page1⟩ := page0.agentRead (show lo ≤ lo + j by omega) (by omega) (by rw [places, there])
  rw [read]
  dsimp only
  split
  · exact ⟨_, rfl, (surroundings_calFill ..).trans (same1.trans same0), page1.calFill inside (by omega) ..⟩
  · exact ⟨_, rfl, same1.trans same0, page1⟩

theorem classARead_zero {lo n j : Nat} {s : State} {x : Source} (page : PageZeroed lo n (j + 1) (j + 1) s) (writable : Writable s x (lo + j)) (inside : j < n)
    (absent : calFind s (lo + j) = none) :
    ∃ t, classARead s x (128 * (lo + j)) .clean = (t, { data := zeroLine, poison := false }, 0) ∧ surroundings t = surroundings s
      ∧ PageZeroed lo n (j + 1) (j + 1) t := by
  obtain ⟨t, read, same, zeroed⟩ := sliceRead_zero (hint := hintAt s (128 * (lo + j))) page inside writable.1 absent
  have line : 128 * (lo + j) / 128 = lo + j := by omega
  simp only [classARead, writable.read, line, writable.behindHeld, read, Bool.not_true, Bool.false_eq_true, if_false]
  refine ⟨_, rfl, ?_, ?_⟩
  · rw [surroundings_crossing, ← same]
    split <;> rfl
  · refine PageZeroed.crossing ?_ ..
    split
    · exact zeroed.congr rfl rfl rfl rfl
    · exact zeroed

/-- One line of the page is written, cleaned and read back without error. -/
theorem zeroAndRead_zero {lo n j : Nat} {s : State} {x : Source} (page : PageZeroed lo n j j s) (writable : Writable s x (lo + j)) (inside : j < n) :
    ∃ t, zeroAndRead x (s, true) (lo + j) = (t, true) ∧ surroundings t = surroundings s ∧ PageZeroed lo n (j + 1) (j + 1) t := by
  obtain ⟨s1, write, same1, page1, comes⟩ := classAWrite_zero page writable inside
  have writable1 := writable.congr same1
  obtain ⟨same2, page2⟩ := calInvalidate_zero page1 comes inside writable1.1
  obtain ⟨t, read, same3, page3⟩ := classARead_zero page2 (writable1.congr same2) inside (calFind_calInvalidate ..)
  refine ⟨t, ?_, same3.trans (same2.trans same1), page3⟩
  simp only [zeroAndRead, write, writable1.behindHeld, read]
  rfl

theorem upto_succ (lo n : Nat) : upto lo (n + 1) = upto lo n ++ [lo + n] := by rw [upto, List.range_succ, List.map_append]; rfl

/-- Every line of the page is written, cleaned and read back without error. -/
theorem foldl_zeroAndRead {lo n : Nat} {s : State} {x : Source} (page : PageZeroed lo n 0 0 s) (writable : ∀ k, k < n → Writable s x (lo + k)) {j : Nat} (most : j ≤ n) :
    ∃ t, (upto lo j).foldl (zeroAndRead x) (s, true) = (t, true) ∧ surroundings t = surroundings s ∧ PageZeroed lo n j j t := by
  induction j with
  | zero => exact ⟨s, rfl, rfl, page⟩
  | succ j ih =>
    obtain ⟨t, done, same, zeroed⟩ := ih (by omega)
    obtain ⟨u, next, same', zeroed'⟩ := zeroAndRead_zero zeroed ((writable j most).congr same) most
    refine ⟨u, ?_, same'.trans same, zeroed'⟩
    rw [upto_succ, List.foldl_append, done, List.foldl_cons, next, List.foldl_nil]

/-- A page none of whose lines is held can be zeroed from its first line on. -/
theorem pageZeroed_start {s : State} {frame n : Nat} (aligned : frame % 128 = 0) (empty : calLines s (lineIn frame (128 * n)) = []) :
    PageZeroed (frame / 128) n 0 0 s where
  inCaldera l there low high := by
    have mem : l ∈ calLines s (lineIn frame (128 * n)) := mem_calLines.2 ⟨there, by simp only [lineIn, Bool.and_eq_true, decide_eq_true_eq]; omega⟩
    rw [empty] at mem
    cases mem
  inStack line low high := by omega

theorem PageZeroed.readByte {s : State} {frame n : Nat} (page : PageZeroed (frame / 128) n n n s) (aligned : frame % 128 = 0) {a : Nat} (low : frame ≤ a)
    (high : a < frame + 128 * n) : readByte s.mem.bytes a = 0 := by
  obtain ⟨bytes, -⟩ := page.inStack (a / 128) (by omega) (by omega)
  have at_ := getElem_readBytes s.mem.bytes (128 * (a / 128)) 128 (a % 128) (by rw [length_readBytes]; omega)
  rw [show 128 * (a / 128) + a % 128 = a by omega] at at_
  rw [← at_]
  simp only [bytes, zeroLine, List.getElem_replicate]

/-! ### The results of a page -/

/-- The spill frame of a page as the page's: TENTATIVE, with the page's place and the lines that the packer stored. -/
def spillOf (g f : Page) (lines : Nat) : Page :=
  { f with state := .tentative, storedLines := lines, kindV := g.kindV, slot := g.slot, phaseSet := g.phaseSet, supersedes := g.supersedes, row := g.row, place := g.place }

theorem exec_packerResultRead_spilled {s : State} {c p q n : Nat} {x : Ctx} {g f : Page} (hx : ctxOf s c = some x) (hg : x.pages[p]? = some g) (hf : x.pages[q]? = some f)
    (small : n ≤ 65) (tentative : g.state = .tentative) (spill : f.spill = true) (mapped : f.mapped = true) (free : f.state = .free) :
    exec (.packerResultRead c p n true q) s = .next (setCtx s c { x with pages := (x.pages.set p (freePage g)).set q (spillOf g f n) }) := by
  change execPackerResultRead c p n true q s = _
  simp [execPackerResultRead, Nat.not_lt.2 small, hx, hg, tentative, hf, spill, mapped, free, spillOf]

/-- Settles O19: the packer's results through the entries of the page table that they set; the release through `foldl_zeroAndRead`, which ends with every line
of the page zero and read back without error. -/
theorem pageResults : Obligations.PageResults := by
  unfold Obligations.PageResults
  intro s c p q n x g f hx hg
  refine ⟨fun small tentative => ?stored, fun small tentative ne hf spill mapped free => ?spilled, fun quarantined aligned lines empty => ?released⟩
  case stored =>
    refine ⟨_, ?_, rfl⟩
    change execPackerResultRead c p n false q s = _
    simp [execPackerResultRead, Nat.not_lt.2 small, hx, hg, tentative]
  case spilled =>
    have hp : p < x.pages.length := (List.getElem?_eq_some_iff.1 hg).1
    have hq : q < (x.pages.set p (freePage g)).length := by rw [List.length_set]; exact (List.getElem?_eq_some_iff.1 hf).1
    refine ⟨_, exec_packerResultRead_spilled hx hg hf small tentative spill mapped free, _, ctxOf_setCtx_self .., ⟨freePage g, ?_, rfl, rfl⟩,
      ⟨spillOf g f n, List.getElem?_set_self hq, rfl, rfl, rfl, rfl, rfl, rfl⟩, fun k notP notQ => ?_⟩
    · rw [List.getElem?_set_ne ne.symm, List.getElem?_set_self hp]
    · rw [List.getElem?_set_ne notQ.symm, List.getElem?_set_ne notP.symm]
  case released =>
    have writable : ∀ k, k < pageLines x g → Writable s { owner := x.partition, cluster := 0 } (g.frame / 128 + k) := fun k inside => by
      obtain ⟨there, guard, snoop, free⟩ := lines k inside
      rw [show g.frame + 128 * k = 128 * (g.frame / 128 + k) by omega] at guard
      exact ⟨there, guard, snoop, free⟩
    obtain ⟨t, done, same, zeroed⟩ := foldl_zeroAndRead (pageZeroed_start aligned empty) writable (Nat.le_refl _)
    obtain ⟨ctxs, -⟩ := surroundings_eq_iff.1 same
    have ht : ctxOf t c = some x := by rw [ctxOf, ctxs]; exact hx
    refine ⟨setCtx t c { x with pages := x.pages.set p (freePage g) }, ?_, ctxOf_setCtx_self .., fun a => zeroed.readByte aligned⟩
    change execQuarantineRelease c p s = _
    rw [pageLines] at done
    simp [execQuarantineRelease, hx, hg, quarantined, done, modCtx, ht]

end Sys2Proof.Machine
end

section
/-! PROOFS. What accesses leave of the links between modules (R253, R299, R309): whatever the module reads, writes, reduces or charges to a context,
the group and the two collective engines stay as they were. -/

namespace Sys2Proof.Machine

open Sys2Proof

/-- The group and the collective engines: what the module knows of its work with other modules. -/
def fabric (s : State) : Group × SMap Coll := (s.grp, s.colls)

theorem fabric_eq_iff {s t : State} : fabric t = fabric s ↔ t.grp = s.grp ∧ t.colls = s.colls := by
  simp only [fabric, Prod.mk.injEq]

/-- What every step of a run keeps, the run keeps. -/
theorem foldl_keeps {σ α β : Type} {π : σ → β} {f : σ → α → σ} (h : ∀ s a, π (f s a) = π s) (l : List α) (s : σ) : π (l.foldl f s) = π s := by
  induction l generalizing s with
  | nil => rfl
  | cons a t ih => rw [List.foldl_cons, ih, h]

/-! ### Contexts and the host link -/

/-- The module but for what stands in its contexts and its partitions. -/
def besideCtxs (s : State) : State := { s with ctxs := [], parts := [] }

@[simp] theorem besideCtxs_account (s : State) (c i n : Nat) : besideCtxs (account s c i n) = besideCtxs s := by
  unfold account
  split <;> rfl

@[simp] theorem besideCtxs_charge (before s : State) (c : Nat) : besideCtxs (charge before s c) = besideCtxs s := by
  have add (x : State) (i n : Nat) : besideCtxs (if n = 0 then x else account x c i n) = besideCtxs x := by
    split
    · rfl
    · exact besideCtxs_account ..
  unfold charge
  simp only [add, foldl_keeps (π := besideCtxs), implies_true]

@[simp] theorem besideCtxs_abortCtx (s : State) (c : Nat) (cause : AbortCause) : besideCtxs (abortCtx s c cause) = besideCtxs s := by
  unfold abortCtx modCtx
  split <;> rfl

@[simp] theorem besideCtxs_abortRunning (s : State) (cause : AbortCause) : besideCtxs (abortRunning s cause) = besideCtxs s := by
  unfold abortRunning
  split
  · exact besideCtxs_abortCtx ..
  · rfl

theorem mem_of_besideCtxs {s t : State} (h : besideCtxs t = besideCtxs s) : t.mem = s.mem := (congrArg State.mem h :)
theorem cells_of_besideCtxs {s t : State} (h : besideCtxs t = besideCtxs s) : t.cells = s.cells := (congrArg State.cells h :)

/-- What leaves the module beside its contexts as it was leaves the fabric as it was. -/
theorem fabric_of_besideCtxs {s t : State} (h : besideCtxs t = besideCtxs s) : fabric t = fabric s := (congrArg fabric h :)

@[simp] theorem fabric_account (s : State) (c i n : Nat) : fabric (account s c i n) = fabric s := fabric_of_besideCtxs (besideCtxs_account ..)
@[simp] theorem fabric_charge (before s : State) (c : Nat) : fabric (charge before s c) = fabric s := fabric_of_besideCtxs (besideCtxs_charge ..)
@[simp] theorem fabric_abortCtx (s : State) (c : Nat) (cause : AbortCause) : fabric (abortCtx s c cause) = fabric s := fabric_of_besideCtxs (besideCtxs_abortCtx ..)
@[simp] theorem fabric_abortRunning (s : State) (cause : AbortCause) : fabric (abortRunning s cause) = fabric s := fabric_of_besideCtxs (besideCtxs_abortRunning ..)
@[simp] theorem fabric_guardFault (s : State) (owner : Nat) : fabric (guardFault s owner) = fabric s := rfl

@[simp] theorem fabric_cacheTranslation (s : State) (owner addr n : Nat) (write : Bool) : fabric (cacheTranslation s owner addr n write) = fabric s := by
  unfold cacheTranslation
  split
  · split <;> rfl
  · rfl

/-! ### The viaduct and the stacks -/

@[simp] theorem fabric_crossing (s : State) (quarter fromDie toDie n : Nat) : fabric (crossing s quarter fromDie toDie n) = fabric s := by
  unfold crossing
  split <;> rfl

@[simp] theorem fabric_sentTo (s : State) (x : Actor) (cell n : Nat) : fabric (sentTo s x cell n) = fabric s := fabric_crossing ..
@[simp] theorem fabric_gotFrom (s : State) (x : Actor) (cell n : Nat) : fabric (gotFrom s x cell n) = fabric s := fabric_crossing ..
@[simp] theorem fabric_countStack (s : State) (k i n : Nat) : fabric (countStack s k i n) = fabric s := rfl

@[simp] theorem fabric_footRead (s : State) (line key : Nat) (errs : List (Nat × Byte)) : fabric (footRead s line key errs).1 = fabric s := by
  unfold footRead
  dsimp only
  split
  · rfl
  split
  · rfl
  · rfl
  split
  · rfl
  dsimp only
  split <;> rfl

@[simp] theorem fabric_footWrite (s : State) (line key : Nat) (data : List Byte) (poison : Bool) : fabric (footWrite s line key data poison) = fabric s := by
  unfold footWrite
  dsimp only
  split <;> rfl

@[simp] theorem fabric_agentRead (s : State) (line : Nat) (errs : List (Nat × Byte)) : fabric (agentRead s line errs).1 = fabric s := by
  unfold agentRead
  dsimp only
  split <;> simp

@[simp] theorem fabric_agentWrite (s : State) (line : Nat) (data : List Byte) (poison : Bool) : fabric (agentWrite s line data poison) = fabric s := by
  unfold agentWrite
  dsimp only
  split <;> simp

/-! ### The caldera -/

@[simp] theorem fabric_setCalSet (s : State) (k : Nat) (x : CalSet) : fabric (setCalSet s k x) = fabric s := rfl
@[simp] theorem fabric_calDrop (s : State) (line : Nat) : fabric (calDrop s line) = fabric s := rfl
@[simp] theorem fabric_calPut (s : State) (l : CalLine) (recent : Bool) : fabric (calPut s l recent) = fabric s := rfl
@[simp] theorem fabric_calPutWritten (s : State) (l : CalLine) (hint : Nat) : fabric (calPutWritten s l hint) = fabric s := rfl
@[simp] theorem fabric_countSlice (s : State) (a i n : Nat) : fabric (countSlice s a i n) = fabric s := rfl
@[simp] theorem fabric_countMiss (s : State) (a : Nat) : fabric (countMiss s a) = fabric s := rfl

@[simp] theorem fabric_cleanLine (s : State) (l : CalLine) : fabric (cleanLine s l) = fabric s := by
  unfold cleanLine
  split
  · exact fabric_agentWrite s l.line l.data l.poison
  · rfl

@[simp] theorem fabric_calFill (s : State) (line owner : Nat) (keep dirty : Bool) (d : LineData) (recent : Bool) :
    fabric (calFill s line owner keep dirty d recent).1 = fabric s := by
  unfold calFill
  dsimp only
  split
  · rfl
  · split <;> simp

@[simp] theorem fabric_sramError (s : State) (line : Nat) (err : BitErr) : fabric (sramError s line err) = fabric s := by
  unfold sramError
  dsimp only
  split
  · rfl
  · split <;> rfl
  · rfl

@[simp] theorem fabric_dropGone (s : State) (line : Nat) : fabric (dropGone s line) = fabric s := by
  unfold dropGone
  split
  · dsimp only
    split <;> rfl
  · rfl

@[simp] theorem fabric_sliceRead (s : State) (line hint : Nat) (err : BitErr) : fabric (sliceRead s line hint err).1 = fabric s := by
  unfold sliceRead
  dsimp only
  split
  · exact fabric_dropGone ..
  split
  · split
    · simp
    · split <;> simp
  · split <;> simp

@[simp] theorem fabric_sliceWrite (s : State) (addr hint : Nat) (bs : List Byte) (poison : Bool) : fabric (sliceWrite s addr hint bs poison) = fabric s := by
  unfold sliceWrite
  dsimp only
  split
  · simp
  split
  · simp
  · split <;> split <;> simp

@[simp] theorem fabric_snoopLeave (s : State) (line : Nat) : fabric (snoopLeave s line) = fabric s :=
  (foldl_keeps (π := fabric) (fun _ _ => fabric_sliceWrite ..) _ _).trans rfl

@[simp] theorem fabric_behindHeld (s : State) (line : Nat) : fabric (behindHeld s line) = fabric s := by
  unfold behindHeld
  split <;> simp

@[simp] theorem fabric_classARead (s : State) (src : Source) (addr : Nat) (err : BitErr) : fabric (classARead s src addr err).1 = fabric s := by
  unfold classARead
  dsimp only
  split
  · rfl
  · split <;> simp

@[simp] theorem fabric_classAWrite (s : State) (src : Source) (addr : Nat) (bs : List Byte) (poison : Bool) :
    fabric (classAWrite s src addr bs poison).1 = fabric s := by
  unfold classAWrite
  split
  · rfl
  split
  · rfl
  · simp

@[simp] theorem fabric_refusePlain (s : State) (owner addr : Nat) : fabric (refusePlain s owner addr) = fabric s := by
  unfold refusePlain
  split <;> rfl

@[simp] theorem fabric_poisonRefused (s : State) (addr : Nat) : fabric (poisonRefused s addr).1 = fabric s := rfl

@[simp] theorem fabric_atLine (s : State) (addr counter : Nat) (f : List Byte → List Byte) : fabric (atLine s addr counter f).1 = fabric s := by
  unfold atLine
  dsimp only
  generalize left : (if s.host.snoop.contains (addr / 128) = true then snoopLeave s (addr / 128) else s) = t
  have same : fabric t = fabric s := by
    subst left
    split <;> simp
  rw [← same]
  split
  · simp
  split
  · split <;> simp
  split
  · simp
  · dsimp only
    split <;> simp

@[simp] theorem fabric_lineReduce (s : State) (src : Source) (op : LineRed) (addr : Nat) (data : List Byte) : fabric (lineReduce s src op addr data).1 = fabric s := by
  unfold lineReduce
  split
  · simp
  · simp

/-! ### The windows and the control space -/

@[simp] theorem fabric_modCell (s : State) (c : Nat) (f : Cell → Cell) : fabric (modCell s c f) = fabric s := rfl
@[simp] theorem fabric_countCell (s : State) (c i n : Nat) : fabric (countCell s c i n) = fabric s := rfl
@[simp] theorem fabric_countErr (s : State) (cluster i n : Nat) : fabric (countErr s cluster i n) = fabric s := rfl
@[simp] theorem fabric_settleSpan (s : State) (cell o n : Nat) : fabric (settleSpan s cell o n) = fabric s := rfl

@[simp] theorem fabric_modEng (s : State) (e : Engine) (f : Eng → Eng) : fabric (modEng s e f) = fabric s := by
  cases e <;> rfl

@[simp] theorem fabric_strikeRows (s : State) (cell : Nat) (rows : List Nat) (errs : RowErrs) : fabric (strikeRows s cell rows errs) = fabric s := by
  refine foldl_keeps (π := fabric) (fun s e => ?_) ..
  unfold rowError
  split <;> rfl

@[simp] theorem fabric_sameRow (s : State) (cell o n : Nat) : fabric (sameRow s cell o n) = fabric s := by
  unfold sameRow
  dsimp only
  split
  · refine foldl_keeps (π := fabric) (fun _ _ => ?_) ..
    rfl
  · rfl

theorem fabric_windowRefused {s t : State} {x : Actor} {cell o n : Nat} {write : Bool} (h : windowRefused s x cell o n write = some t) : fabric t = fabric s := by
  unfold windowRefused at h
  split at h
  · cases h
  split at h
  · cases h
    rfl
  split at h
  · cases h
  · cases h
    rfl

@[simp] theorem fabric_windowPut (s : State) (x : Actor) (cell o : Nat) (bs : List Byte) (poison : Bool) : fabric (windowPut s x cell o bs poison).1 = fabric s := by
  unfold windowPut
  split
  next t refused => exact fabric_windowRefused refused
  next =>
    dsimp only
    split <;> simp

@[simp] theorem fabric_windowGet (s : State) (x : Actor) (cell o n : Nat) (errs : RowErrs) : fabric (windowGet s x cell o n errs).1 = fabric s := by
  unfold windowGet
  split
  next t refused => exact fabric_windowRefused refused
  next =>
    dsimp only
    split <;> simp

@[simp] theorem fabric_applyPost (s : State) (cell j inc : Nat) : fabric (applyPost s cell j inc) = fabric s := by
  unfold applyPost
  dsimp only
  split <;> simp

@[simp] theorem fabric_semAdd (s : State) (x : Actor) (cell j inc : Nat) : fabric (semAdd s x cell j inc).1 = fabric s := by
  unfold semAdd
  split <;> simp

@[simp] theorem fabric_mailboxPut (s : State) (x : Actor) (cell o : Nat) (bs : List Byte) (poison : Bool) : fabric (mailboxPut s x cell o bs poison).1 = fabric s := by
  unfold mailboxPut
  split
  · rfl
  · split <;> simp

@[simp] theorem fabric_mailboxGet (s : State) (cell o n : Nat) : fabric (mailboxGet s cell o n).1 = fabric s := by
  unfold mailboxGet
  dsimp only
  split
  · rfl
  split
  · simp
  · split <;> simp

/-! ### Reads and writes of an engine -/

@[simp] theorem fabric_readAt (s : State) (x : Actor) (a n : Nat) (errs : RowErrs) : fabric (readAt s x a n errs).1 = fabric s := by
  unfold readAt
  split
  · exact fabric_classARead ..
  · exact fabric_windowGet ..
  · split <;> simp
  · split
    · exact fabric_cacheTranslation ..
    · rfl
  · rfl

@[simp] theorem fabric_writeAt (s : State) (x : Actor) (a : Nat) (bs : List Byte) (poison : Bool) : fabric (writeAt s x a bs poison).1 = fabric s := by
  unfold writeAt
  split
  · exact fabric_classAWrite ..
  · exact fabric_windowPut ..
  · exact fabric_mailboxPut ..
  · rfl

@[simp] theorem fabric_collRead (s : State) (x : Actor) (src n : Nat) : fabric (collRead s x src n).1 = fabric s := by
  refine foldl_keeps (π := fun a : State × List (List Byte × Bool) × Option Nat => fabric a.1) (fun a i => ?_) _ (s, [], none)
  exact fabric_readAt ..

@[simp] theorem fabric_writeLines (s : State) (x : Actor) (dst : Nat) (l : List (List Byte × Bool)) : fabric (writeLines s x dst l).1 = fabric s := by
  unfold writeLines
  dsimp only
  split
  · refine foldl_keeps (π := fun a : State × Option Nat => fabric a.1) (fun a p => ?_) _ (s, none)
    split
    · rfl
    · exact fabric_writeAt ..
  · rfl

end Sys2Proof.Machine
end

section
/-! PROOFS. The collective engines at work (R297, R307 to R311): records that leave over a port change ports, traffic counts and accounts alone; failures,
sends, gathers and posts take back no message that an engine has counted as performed. -/

namespace Sys2Proof.Machine

open Sys2Proof

/-! ### Records that leave (R289, R297) -/

/-- The module but for its ports, the traffic of its links, its contexts and its partitions. -/
def besidePorts (s : State) : State := { s with ctxs := [], parts := [], ports := [], mem := { s.mem with linkCounts := [] } }

theorem besidePorts_of_besideCtxs {s t : State} (h : besideCtxs t = besideCtxs s) : besidePorts t = besidePorts s := (congrArg besidePorts h :)

/-- What leaves the module beside its ports as it was leaves the fabric as it was. -/
theorem fabric_of_besidePorts {s t : State} (h : besidePorts t = besidePorts s) : fabric t = fabric s := (congrArg fabric h :)

@[simp] theorem besidePorts_setPort (s : State) (p : Nat) (x : Port) : besidePorts (setPort s p x) = besidePorts s := rfl

@[simp] theorem besidePorts_countRecordSent (s : State) (p : Nat) (r : TxRec) : besidePorts (countRecordSent s p r) = besidePorts s := by
  rw [countRecordSent, besidePorts_of_besideCtxs (besideCtxs_account ..)]
  rfl

@[simp] theorem besidePorts_pump (p fuel : Nat) (s : State) : besidePorts (pump p fuel s) = besidePorts s := by
  induction fuel generalizing s with
  | zero => rfl
  | succ fuel ih =>
    unfold pump
    dsimp only
    split
    · rfl
    split
    · rfl
    split
    · rfl
    · rw [ih, besidePorts_countRecordSent, besidePorts_setPort]

@[simp] theorem besidePorts_sendRecordOf (s : State) (type : Nat) (m : Msg) (op : Option (Nat × Nat)) : besidePorts (sendRecordOf s type m op) = besidePorts s :=
  besidePorts_pump ..

/-! ### What an engine has counted (R299, R310) -/

/-- The group, and what each collective engine has counted as performed. -/
def tally (s : State) : Group × (Nat → SMap Nat) := (s.grp, fun e => (collOf s e).got)

theorem collOf_of_fabric {s t : State} (h : fabric t = fabric s) (e : Nat) : collOf t e = collOf s e :=
  congrArg (fun m => mget Coll.reset m e) (fabric_eq_iff.1 h).2

theorem tally_of_fabric {s t : State} (h : fabric t = fabric s) : tally t = tally s := by
  simp only [tally, (fabric_eq_iff.1 h).1, collOf_of_fabric h]

theorem grp_of_tally {s t : State} (h : tally t = tally s) : t.grp = s.grp := congrArg Prod.fst h
theorem got_of_tally {s t : State} (h : tally t = tally s) (e : Nat) : (collOf t e).got = (collOf s e).got := congrFun (congrArg Prod.snd h) e

/-- A change of an engine that keeps what it has counted. -/
theorem tally_setColl {s : State} {e : Nat} {x : Coll} (h : x.got = (collOf s e).got) : tally (setColl s e x) = tally s := by
  have each (k : Nat) : (collOf (setColl s e x) k).got = (collOf s k).got := by
    rw [collOf_setColl]
    split
    next same => rw [h, same]
    next => rfl
  simp only [tally, each, setColl_grp]

theorem tally_modColl {f : Coll → Coll} (h : ∀ x, (f x).got = x.got) (s : State) (e : Nat) : tally (modColl s e f) = tally s := tally_setColl (h _)

@[simp] theorem tally_modOp (s : State) (e opId : Nat) (f : CollOp → CollOp) : tally (modOp s e opId f) = tally s := tally_setColl rfl

/-! ### Failures (R311) -/

/-- An engine after a new error record: what it has counted, and its operations, are as they were. -/
theorem collOf_recordColl (s : State) (e tag status addr k : Nat) :
    (collOf (recordColl s e tag status addr) k).got = (collOf s k).got ∧ (collOf (recordColl s e tag status addr) k).ops = (collOf s k).ops
      ∧ (collOf (recordColl s e tag status addr) k).errTotal = (collOf s k).errTotal + if k = e then 1 else 0 := by
  have set (x : Coll) : collOf (countErr (setColl s e x) (128 * e) 5 1) k = if k = e then x else collOf s k := collOf_setColl ..
  unfold recordColl
  dsimp only
  rw [set]
  split
  next same => subst same; exact ⟨rfl, rfl, rfl⟩
  next => exact ⟨rfl, rfl, rfl⟩

@[simp] theorem tally_recordColl (s : State) (e tag status addr : Nat) : tally (recordColl s e tag status addr) = tally s := by
  have grp : (recordColl s e tag status addr).grp = s.grp := rfl
  simp only [tally, grp, (collOf_recordColl s e tag status addr _).1]

/-- What a failure can do, beside the abort of a step: it leaves an error record, and fails its operation where that stands here and had not
failed before. -/
theorem failOp_cases (s : State) (e opId context addr : Nat) :
    let recorded := recordColl s e (opTag s e opId) stNotPermitted addr
    besideCtxs (failOp s e opId context addr) = besideCtxs recorded
      ∨ besideCtxs (failOp s e opId context addr) = besideCtxs (modColl (modOp recorded e opId (fun o => { o with failedOnce := true })) e
          (fun x => { x with ledger := { x.ledger with failed := x.ledger.failed + 1 } })) := by
  have aborted (mine : Bool) (t : State) (c : Nat) : besideCtxs (if mine then abortCtx t c .engine else t) = besideCtxs t := by
    split
    · exact besideCtxs_abortCtx ..
    · rfl
  unfold failOp
  dsimp only
  split
  · exact .inl (besideCtxs_abortCtx ..)
  · rw [aborted]
    split
    · exact .inl rfl
    · exact .inr rfl

@[simp] theorem tally_failOp (s : State) (e opId context addr : Nat) : tally (failOp s e opId context addr) = tally s := by
  rcases failOp_cases s e opId context addr with same | same <;> rw [tally_of_fabric (fabric_of_besideCtxs same)]
  · exact tally_recordColl ..
  · exact (tally_modColl (by exact fun _ => rfl) ..).trans ((tally_modOp ..).trans (tally_recordColl ..))

/-- A failure is one more error of its engine, and changes no memory and no cell. -/
theorem failOp_records (s : State) (e opId context addr : Nat) : (failOp s e opId context addr).mem = s.mem ∧ (failOp s e opId context addr).cells = s.cells
    ∧ (collOf (failOp s e opId context addr) e).errTotal = (collOf s e).errTotal + 1 := by
  have recorded : (collOf (recordColl s e (opTag s e opId) stNotPermitted addr) e).errTotal = (collOf s e).errTotal + 1 := by
    rw [(collOf_recordColl ..).2.2, if_pos rfl]
  rcases failOp_cases s e opId context addr with same | same
  · refine ⟨(mem_of_besideCtxs same).trans rfl, (cells_of_besideCtxs same).trans rfl, ?_⟩
    rw [collOf_of_fabric (fabric_of_besideCtxs same), recorded]
  · refine ⟨(mem_of_besideCtxs same).trans rfl, (cells_of_besideCtxs same).trans rfl, ?_⟩
    rw [collOf_of_fabric (fabric_of_besideCtxs same), modColl, collOf_setColl_self, modOp, modColl, collOf_setColl_self, recorded]

/-! ### Sends (R297, R308, R310) -/

@[simp] theorem tally_sendOver (s : State) (e : Nat) (o : CollOp) (p type r addr length : Nat) (poison : BitVec 8) (body data : List Byte) :
    tally (sendOver s e o p type r addr length poison body data) = tally s :=
  (tally_of_fabric (fabric_of_besidePorts (besidePorts_sendRecordOf ..))).trans (tally_setColl rfl)

@[simp] theorem tally_sendMsg (s : State) (e : Nat) (o : CollOp) (type r addr length k : Nat) (poison : BitVec 8) (body data : List Byte) :
    tally (sendMsg s e o type r addr length k poison body data) = tally s := by
  unfold sendMsg
  dsimp only
  split
  · rfl
  · exact tally_sendOver ..

@[simp] theorem tally_sendPostTo (s : State) (e : Nat) (o : CollOp) (r : Nat) : tally (sendPostTo s e o r) = tally s := by
  unfold sendPostTo
  dsimp only
  split
  · exact tally_sendMsg ..
  · rfl

@[simp] theorem tally_collRead (s : State) (x : Actor) (src n : Nat) : tally (collRead s x src n).1 = tally s := tally_of_fabric (fabric_collRead ..)

@[simp] theorem tally_sendBytes (s : State) (e : Nat) (o : CollOp) (type r src dst n : Nat) : tally (sendBytes s e o type r src dst n) = tally s := by
  unfold sendBytes
  dsimp only
  split
  · rw [tally_failOp, tally_collRead]
  · rw [foldl_keeps (π := tally) fun _ _ => tally_sendMsg .., tally_collRead]

@[simp] theorem tally_sendWrites (s : State) (e : Nat) (o : CollOp) (r src dst n : Nat) : tally (sendWrites s e o r src dst n) = tally s := by
  rw [sendWrites, tally_sendPostTo, tally_sendBytes]

@[simp] theorem tally_beginGather (s : State) (e opId : Nat) : tally (beginGather s e opId) = tally s := by
  unfold beginGather
  split
  · rfl
  split
  · dsimp only
    rw [foldl_keeps (π := tally) fun _ _ => tally_sendWrites .., tally_modOp]
  · rfl

@[simp] theorem tally_postWhenDone (s : State) (e opId : Nat) : tally (postWhenDone s e opId) = tally s := by
  unfold postWhenDone
  split
  · rfl
  dsimp only
  split
  · rfl
  have posted (t : State) (x : Actor) (c j n : Nat) : tally (semAdd t x c j n).1 = tally t := tally_of_fabric (fabric_semAdd ..)
  split
  next t added =>
    have := congrArg (fun p => tally p.1) added
    rw [← this, posted, tally_modOp]
  next t _ _ added =>
    have := congrArg (fun p => tally p.1) added
    rw [tally_failOp, ← this, posted, tally_modOp]

end Sys2Proof.Machine
end

section
/-! PROOFS. Messages of collectives (R253, R254, R297, R299, R309, R311): the state in which a message is looked at, what performing each kind of message does
to the engine behind its port, and the statement of the data messages. -/

namespace Sys2Proof.Machine

open Sys2Proof

/-! ### The group stays as it was -/

theorem grp_notePerformed (s : State) (m : Msg) (kind : Nat) : (notePerformed s m kind).grp = s.grp := by
  unfold notePerformed
  dsimp only
  rw [grp_of_tally (tally_postWhenDone ..), grp_of_tally (tally_beginGather ..)]
  rfl

theorem grp_performWrite (s : State) (m : Msg) : (performWrite s m).grp = s.grp := by
  unfold performWrite
  dsimp only
  split
  · exact grp_of_tally (tally_failOp ..)
  have written := (fabric_eq_iff.1 (fabric_writeLines s (msgActor m) m.addr (msgLines m))).1
  split
  next t stored =>
    rw [stored] at written
    rw [grp_notePerformed, written]
  next t a stopped =>
    rw [stopped] at written
    rw [grp_of_tally (tally_failOp ..), written]

/-- A line of a contribution records an error at most: the engine keeps what it has counted and its operations. -/
theorem reduceMsgLine_keeps (m : Msg) (r : LineRed) (s : State) (l : (List Byte × Bool) × Nat) :
    tally (reduceMsgLine m r s l) = tally s ∧ ∀ k, (collOf (reduceMsgLine m r s l) k).ops = (collOf s k).ops := by
  have still {t : State} (h : fabric t = fabric s) : tally t = tally s ∧ ∀ k, (collOf t k).ops = (collOf s k).ops :=
    ⟨tally_of_fabric h, fun k => by rw [collOf_of_fabric h]⟩
  unfold reduceMsgLine
  dsimp only
  split
  · exact still (fabric_classAWrite ..)
  obtain ⟨reduced, ops⟩ := still (fabric_lineReduce s (msgActor m).src r (m.addr + 128 * l.2) l.1.1)
  split
  · exact ⟨(tally_recordColl ..).trans reduced, fun k => (collOf_recordColl ..).2.1.trans (ops k)⟩
  · exact ⟨reduced, ops⟩

/-- The lines of a contribution, at their home slices. -/
theorem reduceLines_keeps (m : Msg) (r : LineRed) (l : List ((List Byte × Bool) × Nat)) (s : State) :
    tally (l.foldl (reduceMsgLine m r) s) = tally s ∧ ∀ k, (collOf (l.foldl (reduceMsgLine m r) s) k).ops = (collOf s k).ops :=
  ⟨foldl_keeps (π := tally) (fun s l => (reduceMsgLine_keeps m r s l).1) l s,
    fun k => foldl_keeps (π := fun s => (collOf s k).ops) (fun s l => (reduceMsgLine_keeps m r s l).2 k) l s⟩

theorem grp_performReduce (s : State) (m : Msg) : (performReduce s m).grp = s.grp := by
  unfold performReduce
  split
  · rw [grp_notePerformed, grp_of_tally (reduceLines_keeps ..).1]
  · exact grp_of_tally (tally_failOp ..)
  · rfl

/-- The message that an engine sends back to the sender of another, over the port on which it came. -/
def replyTo (s : State) (m : Msg) (addr length : Nat) (poison : BitVec 8) (body data : List Byte) : Msg :=
  { m with srcRank := s.grp.rank, dstRank := m.srcRank, elem := 0, redop := 0, poison := poison, addr := addr, length := length
           frame := frameNow s, body := body, data := data }

/-- A reply joins what its engine has sent, and leaves over its port. -/
theorem besidePorts_replyMsg (s : State) (m : Msg) (type addr length : Nat) (poison : BitVec 8) (body data : List Byte) :
    besidePorts (replyMsg s m type addr length poison body data) = besidePorts (modColl s (portEngine m.port) (fun x =>
      { x with sent := x.sent ++ [(type, replyTo s m addr length poison body data)], progress := x.progress + 1 })) :=
  besidePorts_sendRecordOf ..

theorem grp_replyMsg (s : State) (m : Msg) (type addr length : Nat) (poison : BitVec 8) (body data : List Byte) :
    (replyMsg s m type addr length poison body data).grp = s.grp :=
  (fabric_eq_iff.1 (fabric_of_besidePorts (besidePorts_replyMsg ..))).1

theorem grp_performRead (s : State) (m : Msg) : (performRead s m).grp = s.grp := by
  have read := (fabric_eq_iff.1 (fabric_collRead s (msgActor m) m.addr (fieldAt m.body 8 2))).1
  unfold performRead
  dsimp only
  split
  · rw [grp_of_tally (tally_failOp ..), read]
  · rw [grp_replyMsg, read]

theorem grp_performPost (s : State) (m : Msg) : (performPost s m).grp = s.grp := by
  have posted := (fabric_eq_iff.1 (fabric_semAdd s (msgActor m) (fieldAt m.body 0 2) (fieldAt m.body 2 1) (fieldAt m.body 4 2))).1
  unfold performPost
  dsimp only
  split
  · exact grp_notePerformed ..
  split
  next t added =>
    rw [added] at posted
    exact posted
  next t _ _ added =>
    rw [added] at posted
    rw [grp_of_tally (tally_failOp ..), posted]

theorem grp_performMsg (s : State) (type : Nat) (m : Msg) : (performMsg s type m).grp = s.grp := by
  unfold performMsg
  rw [(fabric_eq_iff.1 (fabric_charge ..)).1]
  split
  · exact grp_performReduce ..
  · exact grp_performRead ..
  · exact grp_performPost ..
  · exact grp_replyMsg ..
  · exact grp_performWrite ..

theorem grp_takeMsg (s : State) (type : Nat) (m : Msg) : (takeMsg s type m).grp = s.grp := by
  unfold takeMsg
  split
  · rfl
  · exact grp_performMsg ..

/-! ### A message is looked at (R253, R297) -/

/-- The state in which a message is looked at: its traffic is counted and charged, and what had waited has been looked at before it. -/
def arrived (s : State) (m : Msg) : State :=
  resumeColl (account (received s m) m.context (acGlonyRx + m.port) (48 + m.data.length)) (portEngine m.port)

theorem grp_arrived (s : State) (m : Msg) : (arrived s m).grp = s.grp := by
  unfold arrived resumeColl
  dsimp only
  refine (foldl_keeps (π := State.grp) (fun s (h : Nat × Msg) => grp_takeMsg s h.1 h.2) ..).trans ?_
  exact (fabric_eq_iff.1 (fabric_account (received s m) ..)).1

section
variable {s : State} {m : Msg} (arrives : MsgArrives s m)
include arrives

/-- A message on a port that is up is discarded, or taken. -/
theorem onMessage_arrives (ok : Bool) (f : State → State) : onMessage s m ok f = .next (if ok then f (received s m) else dropMsg s m.port m.addr) := by
  obtain ⟨fits, up⟩ := arrives
  cases ok <;> simp [onMessage, fits, up, received]

/-- A message that its header admits is taken in the state in which it is looked at. -/
theorem onData_next (known : msgKnown s m = true) {ok : Bool} (sound : ok = true) (type : Nat) : onData s type m ok = .next (takeMsg (arrived s m) type m) := by
  unfold onData
  rw [onMessage_arrives arrives, known, sound]
  rfl

/-- One that need not wait is performed. -/
theorem onData_performed (known : msgKnown s m = true) {ok : Bool} (sound : ok = true) {type : Nat} (free : mustWait (arrived s m) type m = false) :
    onData s type m ok = .next (performMsg (arrived s m) type m) := by
  rw [onData_next arrives known sound, takeMsg, free]
  rfl

/-- One that has to wait is held. -/
theorem onData_held (known : msgKnown s m = true) {ok : Bool} (sound : ok = true) {type : Nat} (waits : mustWait (arrived s m) type m = true) :
    onData s type m ok = .next (setColl (arrived s m) (portEngine m.port)
      { collOf (arrived s m) (portEngine m.port) with held := (collOf (arrived s m) (portEngine m.port)).held ++ [(type, m)] }) := by
  rw [onData_next arrives known sound, takeMsg, waits]
  rfl

end

/-! ### What a message leaves -/

/-- What an engine has counted of a kind of message from a rank for an operation. -/
def gotOf (s : State) (m : Msg) (kind : Nat) : Nat := mget 0 (collOf s (portEngine m.port)).got (gotKey m.opId m.srcRank kind)

theorem gotOf_of_tally {s t : State} (h : tally t = tally s) (m : Msg) (kind : Nat) : gotOf t m kind = gotOf s m kind := by
  rw [gotOf, gotOf, got_of_tally h]

/-- A message that has been performed counts for its sender's part. -/
theorem gotOf_notePerformed (s : State) (m : Msg) (kind : Nat) : gotOf (notePerformed s m kind) m kind = gotOf s m kind + 1 := by
  unfold notePerformed
  dsimp only
  rw [gotOf_of_tally (tally_postWhenDone ..), gotOf_of_tally (tally_beginGather ..)]
  simp [gotOf, modColl]

/-- Where no operation stands here for it, nothing else happens. -/
theorem notePerformed_of_none {s : State} {m : Msg} (h : findOp s (portEngine m.port) m.opId = none) (kind : Nat) :
    notePerformed s m kind = modColl s (portEngine m.port) (fun x => { x with got := madd x.got (gotKey m.opId m.srcRank kind) 1, progress := x.progress + 1 }) := by
  unfold notePerformed
  dsimp only
  generalize counted : modColl s (portEngine m.port) _ = t
  have absent : findOp t (portEngine m.port) m.opId = none := by
    rw [← counted]
    simpa [findOp, modColl] using h
  simp [beginGather, postWhenDone, absent]

/-- What a message that counts leaves: one more for its sender's part and, where no operation stands here for it, the memory and the cells as its
own access left them. -/
def Counts (u stored : State) (m : Msg) (kind : Nat) (t : State) : Prop :=
  gotOf t m kind = gotOf u m kind + 1 ∧ (findOp u (portEngine m.port) m.opId = none → t.mem = stored.mem ∧ t.cells = stored.cells)

/-- What a message that meets the guard leaves: an error of its engine, and the memory and the cells as they were. -/
def Refuses (u : State) (e : Nat) (t : State) : Prop := t.mem = u.mem ∧ t.cells = u.cells ∧ (collOf t e).errTotal = (collOf u e).errTotal + 1

theorem counts_charged {u t : State} {m : Msg} (same : tally t = tally u) (ops : (collOf t (portEngine m.port)).ops = (collOf u (portEngine m.port)).ops)
    (before : State) (c kind : Nat) : Counts u t m kind (charge before (notePerformed t m kind) c) := by
  have counted := besideCtxs_charge before (notePerformed t m kind) c
  refine ⟨?_, fun absent => ?_⟩
  · rw [gotOf_of_tally (tally_of_fabric (fabric_of_besideCtxs counted)), gotOf_notePerformed, gotOf_of_tally same]
  · have here : findOp t (portEngine m.port) m.opId = none := by rwa [findOp, ops]
    rw [notePerformed_of_none here] at counted ⊢
    exact ⟨(mem_of_besideCtxs counted).trans rfl, (cells_of_besideCtxs counted).trans rfl⟩

theorem refused_charged (u : State) (owner e opId context addr c : Nat) : Refuses u e (charge u (failOp (guardFault u owner) e opId context addr) c) := by
  have charged := besideCtxs_charge u (failOp (guardFault u owner) e opId context addr) c
  obtain ⟨mem, cells, errs⟩ := failOp_records (guardFault u owner) e opId context addr
  refine ⟨(mem_of_besideCtxs charged).trans mem, (cells_of_besideCtxs charged).trans cells, ?_⟩
  rw [collOf_of_fabric (fabric_of_besideCtxs charged), errs]
  rfl

/-- A reply is among what its engine has sent; no cell and no byte in the stacks has changed. -/
theorem replied_charged (u s : State) (m : Msg) (type addr length : Nat) (poison : BitVec 8) (body data : List Byte) (c : Nat) :
    let v := charge u (replyMsg s m type addr length poison body data) c
    (type, replyTo s m addr length poison body data) ∈ (collOf v (portEngine m.port)).sent ∧ v.cells = s.cells ∧ v.mem.bytes = s.mem.bytes := by
  have sent := (besidePorts_of_besideCtxs (besideCtxs_charge u (replyMsg s m type addr length poison body data) c)).trans (besidePorts_replyMsg ..)
  refine ⟨?_, (congrArg State.cells sent :), (congrArg (fun t => t.mem.bytes) sent :)⟩
  rw [collOf_of_fabric (fabric_of_besidePorts sent), modColl, collOf_setColl_self]
  simp

/-! ### Writes and contributions (R299, R309, R311) -/

/-- What a write counts as: a message of the gathering half where its operation is an ALL_REDUCE (R299). -/
def writeKind (s : State) (m : Msg) : Nat := match findOp s (portEngine m.port) m.opId with | some o => b2n (opCode o == 2) | none => 0

section
variable {u t : State} {m : Msg} (plain : ∀ o, findOp u (portEngine m.port) m.opId = some o → opReduces o = false)
include plain

/-- A write whose operation does not reduce counts once its lines stand at their address. -/
theorem performWrite_stored (stored : writeLines u (msgActor m) m.addr (msgLines m) = (t, none)) : performWrite u m = notePerformed t m (writeKind u m) := by
  unfold performWrite writeKind
  cases found : findOp u (portEngine m.port) m.opId with
  | none => simp [found, stored]
  | some o => simp [found, stored, plain o found]

/-- It fails where the guard refuses one of its lines. -/
theorem performWrite_failed {a : Nat} (stopped : writeLines u (msgActor m) m.addr (msgLines m) = (t, some a)) :
    performWrite u m = failOp t (portEngine m.port) m.opId m.context a := by
  unfold performWrite
  cases found : findOp u (portEngine m.port) m.opId with
  | none => simp [found, stopped]
  | some o => simp [found, stopped, plain o found]

end

/-- Where the guard refuses a line, none is written. -/
theorem writeLines_refused {s t : State} {x : Actor} {dst a : Nat} {l : List (List Byte × Bool)} (h : writeLines s x dst l = (t, some a)) :
    t = guardFault s x.owner := by
  unfold writeLines at h
  dsimp only at h
  split at h
  · simp at h
  · exact (congrArg Prod.fst h).symm

/-- Writes and data that have come back, where they need not wait, are performed alike. -/
theorem exec_stores {s : State} {m : Msg} (arrives : MsgArrives s m) (known : msgKnown s m = true) (ok : dataOk m = true) {i : Instr}
    (mem : i ∈ [Instr.readResp m] ++ (if mustWait (arrived s m) 0 m then [] else [Instr.write m])) :
    exec i s = .next (charge (arrived s m) (performWrite (arrived s m) m) m.context) := by
  have response : exec (.readResp m) s = .next (charge (arrived s m) (performWrite (arrived s m) m) m.context) :=
    onData_performed arrives known ok (type := 3) rfl
  cases waits : mustWait (arrived s m) 0 m with
  | true =>
    rw [waits] at mem
    obtain rfl : i = .readResp m := by simpa using mem
    exact response
  | false =>
    rw [waits] at mem
    obtain rfl | rfl : i = .readResp m ∨ i = .write m := by simpa using mem
    · exact response
    · exact onData_performed arrives known ok (type := 0) waits

/-- A contribution that need not wait is performed. -/
theorem exec_reduces {s : State} {m : Msg} (arrives : MsgArrives s m) (known : msgKnown s m = true) (ok : dataOk m = true) {r : LineRed}
    (red : redOf m.elem m.redop = some r) (free : mustWait (arrived s m) 1 m = false) :
    exec (.reduce m) s = .next (charge (arrived s m) (performReduce (arrived s m) m) m.context) :=
  onData_performed arrives known (by simp [ok, red]) (type := 1) free

theorem performReduce_plain {s : State} {m : Msg} {r : LineRed} (red : redOf m.elem m.redop = some r) (plain : notPlain s m.partition m.addr m.data.length = none) :
    performReduce s m = notePerformed ((msgLines m).zipIdx.foldl (reduceMsgLine m r) s) m 0 := by
  simp [performReduce, red, plain]

theorem performReduce_failed {s : State} {m : Msg} {a : Nat} (outside : notPlain s m.partition m.addr m.data.length = some a) :
    performReduce s m = failOp (guardFault s m.partition) (portEngine m.port) m.opId m.context a := by
  simp [performReduce, outside]

/-- A contribution that comes too early waits. -/
theorem mustWait_of_tooEarly {s : State} {m : Msg} (early : tooEarly s m = true) : mustWait s 1 m = true := by
  simp [mustWait, early]

/-! ### Reads, posts and fences (R254, R297, R310) -/

theorem performRead_answered {s t : State} {m : Msg} {lines : List (List Byte × Bool)} (read : collRead s (msgActor m) m.addr (fieldAt m.body 8 2) = (t, lines, none)) :
    performRead s m = replyMsg t m 3 (fieldAt m.body 0 6) (fieldAt m.body 8 2) (poisonBits lines) noBody (lines.flatMap (·.1)) := by
  simp [performRead, read]

/-- A post of an operation that this module has yet to issue is counted for it. -/
theorem performPost_counted {s : State} {m : Msg} (later : (collOf s (portEngine m.port)).nextId ≤ m.opId) : performPost s m = notePerformed s m 2 := by
  simp [performPost, later]

theorem leNat_lt (bs : List Byte) : leNat bs < 256 ^ bs.length := by
  induction bs with
  | nil => decide
  | cons b t ih =>
    have := b.isLt
    rw [leNat, List.length_cons, Nat.pow_succ]
    omega

theorem fieldAt_lt (bs : List Byte) (o n : Nat) : fieldAt bs o n < 256 ^ n :=
  Nat.lt_of_lt_of_le (leNat_lt _) (Nat.pow_le_pow_right (by decide) (List.length_take_le ..))

/-- A post reaches its cell whatever else the module holds. -/
theorem applyPost_cells {s t : State} (h : t.cells = s.cells) (cell j inc : Nat) : (applyPost t cell j inc).cells = (applyPost s cell j inc).cells := by
  have posted (x : State) : (applyPost x cell j inc).cells = (modCell x cell (fun c => postSem c j inc)).cells := by
    unfold applyPost
    dsimp only
    split
    · exact cells_of_besideCtxs (besideCtxs_abortRunning ..)
    · rfl
  simp only [posted, modCell, setCell, cellOf, h]

theorem applyPost_mem (s : State) (cell j inc : Nat) : (applyPost s cell j inc).mem = s.mem := by
  unfold applyPost
  dsimp only
  split
  · exact (mem_of_besideCtxs (besideCtxs_abortRunning ..)).trans rfl
  · rfl

/-- Payload bytes on their way change the counts of links alone. -/
theorem besidePorts_crossing (s : State) (quarter fromDie toDie n : Nat) : besidePorts (crossing s quarter fromDie toDie n) = besidePorts s := by
  unfold crossing
  split <;> rfl

/-- A post of an operation that has ended here posts its semaphore as it stands. -/
theorem performPost_posts {s : State} {m : Msg} (ended : (findOp s (portEngine m.port) m.opId).isSome = false) (past : m.opId < (collOf s (portEngine m.port)).nextId)
    (guard : cellGuard s m.partition = true) :
    (performPost s m).cells = (applyPost s (fieldAt m.body 0 2) (fieldAt m.body 2 1) (fieldAt m.body 4 2)).cells ∧ (performPost s m).mem.bytes = s.mem.bytes := by
  have small : fieldAt m.body 4 2 % 65536 = fieldAt m.body 4 2 := Nat.mod_eq_of_lt (fieldAt_lt m.body 4 2)
  have issued : ¬ (collOf s (portEngine m.port)).nextId ≤ m.opId := Nat.not_le.2 past
  have posts : performPost s m = applyPost (sentTo s (msgActor m).onCtl (fieldAt m.body 0 2) 8) (fieldAt m.body 0 2) (fieldAt m.body 2 1) (fieldAt m.body 4 2) := by
    simp only [performPost, ended, issued, decide_false, Bool.or_self, Bool.false_eq_true, if_false, semAdd, msgActor, guard, Bool.not_true, small]
  have sent := besidePorts_crossing s ((msgActor m).onCtl.quarter (fieldAt m.body 0 2)) ((msgActor m).onCtl.cluster / 128) (fieldAt m.body 0 2 / 2048) 8
  rw [posts]
  exact ⟨applyPost_cells (by exact (congrArg State.cells sent :)) .., (congrArg Memory.bytes (applyPost_mem ..)).trans (congrArg (fun t => t.mem.bytes) sent :)⟩

/-- An acknowledgement takes its request, by its sequence number, from the fence that awaits it. -/
theorem ops_fenceAcked (s : State) (m : Msg) (k : Nat) : (collOf (fenceAcked s m) k).ops = (collOf s k).ops.map (fun o =>
    if k = fieldAt m.body 0 4 % 2 ∧ o.opId = m.opId then { o with fence := o.fence.filter (fun f => f != (m.srcRank, m.port, fieldAt m.body 0 4)) } else o) := by
  unfold fenceAcked modOp modColl
  dsimp only
  by_cases here : k = fieldAt m.body 0 4 % 2
  · subst here
    simp
  · simp [collOf_setColl, here]

/-- A fence's messages carry a sequence number and nothing else (Table 13-16). -/
theorem bareOk_fence {m : Msg} (bare : m.length = 0 ∧ m.data = [] ∧ m.addr = 0) (rest : fieldAt m.body 4 12 = 0) : (bareOk m && decide (fieldAt m.body 4 12 = 0)) = true := by
  simp [bareOk, bare, rest]

/-- What a message that is discarded leaves: it is counted on its port and as an error of its engine (R297, R311). -/
theorem dropMsg_counts (s : State) (port addr : Nat) :
    let t := dropMsg s port addr
    (portOf t port).msgErrors = (portOf s port).msgErrors + 1 ∧ (collOf t (portEngine port)).errTotal = (collOf s (portEngine port)).errTotal + 1
      ∧ (collOf t (portEngine port)).ops = (collOf s (portEngine port)).ops ∧ t.mem = s.mem ∧ t.cells = s.cells ∧ t.ctxs = s.ctxs := by
  have port' : portOf (dropMsg s port addr) port = portOf (modPort s port (fun x => { x with msgErrors := x.msgErrors + 1 })) port := rfl
  obtain ⟨-, ops, errs⟩ := collOf_recordColl (modPort s port (fun x => { x with msgErrors := x.msgErrors + 1 })) (portEngine port) 0 stNotPermitted addr (portEngine port)
  rw [if_pos rfl] at errs
  refine ⟨?_, errs, ops, rfl, rfl, rfl⟩
  rw [port', modPort, portOf_setPort_self]

end Sys2Proof.Machine
end

section
/-! PROOFS. The data and fence messages of collectives (R253, R254, R297, R299, R309, R311): what each of them does in the state in which it is looked at, and
the statement that they make up. -/

namespace Sys2Proof.Machine

open Sys2Proof

/-! ### Each message -/

section
variable {s t : State} {m : Msg} (arrives : MsgArrives s m)
include arrives

/-- An acknowledgement never waits: it is taken at once, or discarded (R254). -/
theorem exec_fenceAck : exec (.fenceAck m) s = .next (if msgKnown s m && bareOk m && decide (fieldAt m.body 4 12 = 0)
    then fenceAcked (account (received s m) m.context (acGlonyRx + m.port) 48) m else dropMsg s m.port m.addr) :=
  onMessage_arrives arrives _ (fun s => fenceAcked (account s m.context (acGlonyRx + m.port) 48) m)

/-- A message that its header keeps out is discarded. -/
theorem exec_discarded (unknown : msgKnown s m = false) {i : Instr}
    (mem : i ∈ [Instr.write m, .reduce m, .readReq m, .readResp m, .post m, .fenceReq m, .fenceAck m]) : exec i s = .next (dropMsg s m.port m.addr) := by
  have data (type : Nat) (ok : Bool) : onData s type m ok = .next (dropMsg s m.port m.addr) := by
    unfold onData
    rw [onMessage_arrives arrives, unknown]
    rfl
  simp only [List.mem_cons, List.not_mem_nil, or_false] at mem
  obtain rfl | rfl | rfl | rfl | rfl | rfl | rfl := mem
  · exact data ..
  · exact data ..
  · exact data ..
  · exact data ..
  · exact data ..
  · exact data ..
  · rw [exec_fenceAck arrives, unknown]
    rfl

variable (known : msgKnown s m = true)
include known

/-- Lines that reach their address count for their sender's part (R299). -/
theorem stores_counts (ok : dataOk m = true) {i : Instr} (mem : i ∈ [Instr.readResp m] ++ (if mustWait (arrived s m) 0 m then [] else [Instr.write m]))
    (plain : ∀ o, findOp (arrived s m) (portEngine m.port) m.opId = some o → opReduces o = false)
    (stored : writeLines (arrived s m) (msgActor m) m.addr (msgLines m) = (t, none)) :
    AnswersWith (exec i s) (Counts (arrived s m) t m (writeKind (arrived s m) m)) := by
  have same : fabric t = fabric (arrived s m) := by
    have := fabric_writeLines (arrived s m) (msgActor m) m.addr (msgLines m)
    rwa [stored] at this
  have run := exec_stores arrives known ok mem
  rw [performWrite_stored plain stored] at run
  exact ⟨_, run, counts_charged (tally_of_fabric same) (by rw [collOf_of_fabric same]) ..⟩

/-- Lines that the guard refuses are an error of the engine (R311). -/
theorem stores_refused (ok : dataOk m = true) {i : Instr} (mem : i ∈ [Instr.readResp m] ++ (if mustWait (arrived s m) 0 m then [] else [Instr.write m]))
    (plain : ∀ o, findOp (arrived s m) (portEngine m.port) m.opId = some o → opReduces o = false) {a : Nat}
    (stopped : writeLines (arrived s m) (msgActor m) m.addr (msgLines m) = (t, some a)) : AnswersWith (exec i s) (Refuses (arrived s m) (portEngine m.port)) := by
  have run := exec_stores arrives known ok mem
  rw [performWrite_failed plain stopped, writeLines_refused stopped] at run
  exact ⟨_, run, refused_charged ..⟩

/-- A contribution to a plain range is reduced line by line, and counts (R309). -/
theorem reduce_counts (ok : dataOk m = true) {r : LineRed} (red : redOf m.elem m.redop = some r) (free : mustWait (arrived s m) 1 m = false)
    (plain : notPlain (arrived s m) m.partition m.addr m.data.length = none) (reduced : t = (msgLines m).zipIdx.foldl (reduceMsgLine m r) (arrived s m)) :
    AnswersWith (exec (.reduce m) s) (Counts (arrived s m) t m 0) := by
  subst reduced
  obtain ⟨same, ops⟩ := reduceLines_keeps m r (msgLines m).zipIdx (arrived s m)
  have run := exec_reduces arrives known ok red free
  rw [performReduce_plain red plain] at run
  exact ⟨_, run, counts_charged same (ops _) ..⟩

/-- One to any other place is an error of the engine (R309, R311). -/
theorem reduce_refused (ok : dataOk m = true) {r : LineRed} (red : redOf m.elem m.redop = some r) (free : mustWait (arrived s m) 1 m = false)
    (outside : notPlain (arrived s m) m.partition m.addr m.data.length ≠ none) : AnswersWith (exec (.reduce m) s) (Refuses (arrived s m) (portEngine m.port)) := by
  obtain ⟨a, found⟩ := Option.ne_none_iff_exists'.1 outside
  have run := exec_reduces arrives known ok red free
  rw [performReduce_failed found] at run
  exact ⟨_, run, refused_charged ..⟩

/-- The lines that a READ_REQ names go back, with their poison bits, to the address that it gives (R299). -/
theorem readReq_answers {lines : List (List Byte × Bool)} (len : m.length = 0) (data : m.data = []) (low : 128 ≤ fieldAt m.body 8 2) (high : fieldAt m.body 8 2 ≤ 896)
    (whole : fieldAt m.body 8 2 % 128 = 0) (pad : fieldAt m.body 6 2 = 0) (rest : fieldAt m.body 10 6 = 0)
    (read : collRead (arrived s m) (msgActor m) m.addr (fieldAt m.body 8 2) = (t, lines, none)) :
    AnswersWith (exec (.readReq m) s) (fun v =>
      (3, replyTo t m (fieldAt m.body 0 6) (fieldAt m.body 8 2) (poisonBits lines) noBody (lines.flatMap (·.1))) ∈ (collOf v (portEngine m.port)).sent
        ∧ v.cells = t.cells ∧ v.mem.bytes = t.mem.bytes) := by
  have sound : (decide (m.length = 0) && m.data.isEmpty && decide (128 ≤ fieldAt m.body 8 2 ∧ fieldAt m.body 8 2 ≤ 896 ∧ fieldAt m.body 8 2 % 128 = 0)
      && decide (fieldAt m.body 6 2 = 0) && decide (fieldAt m.body 10 6 = 0)) = true := by
    simp [len, data, low, high, whole, pad, rest]
  have run : exec (.readReq m) s = .next (charge (arrived s m) (performRead (arrived s m) m) m.context) := onData_performed arrives known sound (type := 2) rfl
  rw [performRead_answered read] at run
  exact ⟨_, run, replied_charged ..⟩

section
variable (bare : m.length = 0 ∧ m.data = [] ∧ m.addr = 0)
include bare

section
variable (cell : fieldAt m.body 0 2 < 4096) (sem : fieldAt m.body 2 1 < 64) (pad : fieldAt m.body 3 1 = 0) (rest : fieldAt m.body 6 10 = 0)
  (free : mustWait (arrived s m) 4 m = false)
include cell sem pad rest free

theorem exec_post : exec (.post m) s = .next (charge (arrived s m) (performPost (arrived s m) m) m.context) := by
  have sound : (bareOk m && decide (fieldAt m.body 0 2 < 4096) && decide (fieldAt m.body 2 1 < 64) && decide (fieldAt m.body 3 1 = 0) && decide (fieldAt m.body 6 10 = 0)) = true := by
    simp [bareOk, bare, cell, sem, pad, rest]
  exact onData_performed arrives known sound (type := 4) free

/-- A post whose operation has ended here posts its semaphore (R310). -/
theorem post_posts (ended : (findOp (arrived s m) (portEngine m.port) m.opId).isSome = false) (past : m.opId < (collOf (arrived s m) (portEngine m.port)).nextId)
    (guard : cellGuard (arrived s m) m.partition = true) : AnswersWith (exec (.post m) s) (fun v =>
      v.cells = (applyPost (arrived s m) (fieldAt m.body 0 2) (fieldAt m.body 2 1) (fieldAt m.body 4 2)).cells ∧ v.mem.bytes = (arrived s m).mem.bytes) := by
  have charged := besideCtxs_charge (arrived s m) (performPost (arrived s m) m) m.context
  obtain ⟨cells, bytes⟩ := performPost_posts ended past guard
  exact ⟨_, exec_post arrives known bare cell sem pad rest free, (cells_of_besideCtxs charged).trans cells, (congrArg Memory.bytes (mem_of_besideCtxs charged)).trans bytes⟩

/-- A post of an operation to come here counts for its sender's part (R310). -/
theorem post_counts (later : (collOf (arrived s m) (portEngine m.port)).nextId ≤ m.opId) :
    AnswersWith (exec (.post m) s) (Counts (arrived s m) (arrived s m) m 2) := by
  have run := exec_post arrives known bare cell sem pad rest free
  rw [performPost_counted later] at run
  exact ⟨_, run, counts_charged rfl rfl ..⟩

end

/-- A fence's request that need not wait is acknowledged with its sequence number (R254). -/
theorem fenceReq_answers (rest : fieldAt m.body 4 12 = 0) (free : mustWait (arrived s m) 11 m = false) :
    AnswersWith (exec (.fenceReq m) s) (fun v => (12, replyTo (arrived s m) m 0 0 0 (m.body.take 4 ++ leBytes 0 12) []) ∈ (collOf v (portEngine m.port)).sent
      ∧ v.cells = (arrived s m).cells ∧ v.mem.bytes = (arrived s m).mem.bytes) :=
  ⟨_, onData_performed arrives known (bareOk_fence bare rest) (type := 11) free, replied_charged ..⟩

/-- An acknowledgement takes its request from the fence that awaits it (R254). -/
theorem fenceAck_acknowledges (rest : fieldAt m.body 4 12 = 0) : AnswersWith (exec (.fenceAck m) s) (fun v => ∀ k, (collOf v k).ops = (collOf s k).ops.map (fun o =>
    if k = fieldAt m.body 0 4 % 2 ∧ o.opId = m.opId then { o with fence := o.fence.filter (fun f => f != (m.srcRank, m.port, fieldAt m.body 0 4)) } else o)) := by
  have run := exec_fenceAck arrives
  rw [known, Bool.true_and, bareOk_fence bare rest, if_pos rfl] at run
  refine ⟨_, run, fun k => ?_⟩
  rw [ops_fenceAcked, collOf_of_fabric (fabric_account ..)]
  rfl

end
end

/-! ### The messages -/

/-- Settles O47: in the state in which a message is looked at it is held, or performed; what it then counts, fails or answers is said by `counts_charged`,
`refused_charged` and `replied_charged`. -/
theorem dataMessages : Obligations.DataMessages := by
  intro s s1 m arrives e u body got counted refused kind lines answer bare
  have rank : u.grp.rank = s.grp.rank := congrArg Group.rank (grp_arrived s m)
  refine ⟨fun known ok => ⟨?stores, ?reduces⟩, fun known => ⟨?writeHeld, ?reduceHeld, ?read, ?post, ?fence, ?acknowledgement⟩, ?discarded⟩
  case stores =>
    exact fun i mem plain => ⟨fun stored => stores_counts arrives known ok mem plain stored, fun a stopped => stores_refused arrives known ok mem plain stopped⟩
  case reduces =>
    exact fun r red free => ⟨fun plain reduced => reduce_counts arrives known ok red free plain reduced, fun outside => reduce_refused arrives known ok red free outside⟩
  case writeHeld => exact fun ok waits => onData_held arrives known ok waits
  case reduceHeld => exact fun ok red early => onData_held arrives known (by rw [ok, red]; rfl) (mustWait_of_tooEarly early)
  case read =>
    intro ls len data low high whole pad rest read
    have grp := (fabric_eq_iff.1 (fabric_collRead u (msgActor m) m.addr (body 8 2))).1
    rw [read] at grp
    obtain ⟨t, run, sent, cells, bytes⟩ := readReq_answers arrives known len data low high whole pad rest read
    exact ⟨t, run, ⟨_, sent, rfl, (congrArg Group.rank grp).trans rank, rfl, rfl, rfl, rfl, rfl, rfl⟩, bytes, cells⟩
  case post =>
    intro plain cell sem pad rest free
    refine ⟨fun ended past guard => post_posts arrives known plain cell sem pad rest free ended past guard, fun later => ?_⟩
    obtain ⟨t, run, counts, -⟩ := post_counts arrives known plain cell sem pad rest free later
    exact ⟨t, run, counts⟩
  case fence =>
    intro plain rest
    refine ⟨fun free => ?_, fun waits => onData_held arrives known (bareOk_fence plain rest) waits⟩
    obtain ⟨t, run, sent, cells, bytes⟩ := fenceReq_answers arrives known plain rest free
    exact ⟨t, run, ⟨_, sent, rfl, rank, rfl, rfl, rfl, rfl⟩, cells, bytes⟩
  case acknowledgement =>
    intro plain rest
    obtain ⟨t, run, ops⟩ := fenceAck_acknowledges arrives known plain rest
    exact ⟨t, run, fun k _ => ops k⟩
  case discarded => exact fun unknown i mem => ⟨_, exec_discarded arrives unknown mem, dropMsg_counts ..⟩

end Sys2Proof.Machine
end
